-- ==== Sys2Proof/Word.lean ====
section
/-! DEFINITION. The word types of the model and their plainest arithmetic: what the manual treats as bits. -/

namespace Sys2Proof

/-- One byte, the smallest addressable unit of data space (R31, R32). -/
abbrev Byte := BitVec 8
/-- A 16-bit word: PC, ring counts (R71, R284). -/
abbrev W16 := BitVec 16
/-- A 32-bit word: lc, FP32, F32 codes (R71, R60). -/
abbrev W32 := BitVec 32
/-- A 64-bit word: g, sh, q, I/O registers, data-space addresses (R71, R94, R97). -/
abbrev W64 := BitVec 64
/-- A vector register (R71, R189). -/
abbrev W512 := BitVec 512
/-- A core identity: die in [13:11], row in [10:6], column in [5:0] (R18). -/
abbrev CoreId := BitVec 14

/-- Bits `[hi:lo]` of a word as a number; bit 0 is the least significant (R9). -/
def bits {w : Nat} (x : BitVec w) (hi lo : Nat) : Nat := x.toNat / 2 ^ lo % 2 ^ (hi + 1 - lo)

/-- Bit `n` of a word (R9). -/
def bitAt {w : Nat} (x : BitVec w) (n : Nat) : Bool := x.getLsbD n

/-- Sign-extend the low 16 bits, or all 32, of an immediate to 64 bits (R120). -/
def sext64 {w : Nat} (x : BitVec w) : W64 := x.signExtend 64

/-- The two's-complement value of a `w`-bit code held in a natural number (R31). -/
def toSigned (w n : Nat) : Int := if n % 2 ^ w < 2 ^ (w - 1) then (n % 2 ^ w : Nat) else (n % 2 ^ w : Nat) - (2 ^ w : Nat)

/-- The `w`-bit two's-complement code of an integer, wrapped modulo `2 ^ w` (R52). -/
def ofSigned (w : Nat) (i : Int) : Nat := (i % (2 ^ w : Nat)).toNat

end Sys2Proof
end

