-- ==== Sys2Proof/Syntax.lean ====
section
/-! DEFINITION. The commands the block takes from outside, WHOLE: one constructor of `Instr` per row of the table,
with the row's operands. A core instruction is the issue of one instruction by one thread; the other rows are
register writes, arrivals, host entries, timers and management events. -/

namespace Sys2Proof

/-- One instruction prefix with its payload (R113). -/
inductive Prefix where
  | guard (neg : Bool) (p : BitVec 3)   -- 0xE0 to 0xE7 (neg = false) and 0xE8 to 0xEF
  | wide                                -- 0xF0
  | shape (m n k : Byte)                -- 0xF1
  | sparsity (b : Byte)                 -- 0xF2
  | rounding (b : Byte)                 -- 0xF3
  | stationarity (b : Byte)             -- 0xF4
deriving DecidableEq, Repr

/-- Where an instruction issues: the core, the thread and the prefixes in front of the opcode (R74, R112). -/
structure Site where
  core : CoreId
  thr  : BitVec 2
  px   : List Prefix
deriving DecidableEq, Repr

/-- A PCIe function: port, and 0 for the physical function or n + 1 for the VF of partition n (R479). -/
structure FnRef where
  port : BitVec 1
  fn   : BitVec 4
deriving DecidableEq, Repr

/-- A queue pair of a function; 0 is its admin queue (R484). -/
structure QRef where
  fn : FnRef
  q  : BitVec 12
deriving DecidableEq, Repr

/-- The fields of a 64 B submission entry (R489), without OPCODE, which the command's row fixes. -/
structure Entry where
  flags     : Byte
  index     : W16
  handle    : W32
  hostTag   : W64
  addr1     : W64
  len1      : W32
  slot      : Byte
  contract  : Byte
  outAddr   : W64
  outLen    : W32
  maxNew    : W32
  promptLen : W32
  arg       : W32
  prefixKey : W64
deriving DecidableEq, Repr

/-- A fetched submission entry: its queue pair, its fields, the bytes that host memory delivers for ADDR1
(none when the host-memory access failed, status 0x08), whether an internal retry was needed (0x0C),
and the package time at which the Plinth reads it (R375, R489, R497). -/
structure HostCmd where
  q       : QRef
  e       : Entry
  data    : Option (List Byte)
  retried : Bool
  now     : W64
deriving DecidableEq, Repr

/-- A register without a row of its own: an I/O register of a core, as a thread of it writes it (R97), or a
BAR0 register, as a function writes it (R481). -/
inductive RegRef where
  | io (core : CoreId) (thr : BitVec 2) (addr : W16)
  | bar0 (fn : FnRef) (addr : BitVec 26)
deriving DecidableEq, Repr

/-- A memory instance (R346): 0 local memory, 1 instruction store, 2 tile file, 3 the commons slice of this home
core; or an HBM channel, stack in [8:5] and channel in [4:0] (R503). -/
inductive MemRef where
  | core (c : CoreId) (inst : BitVec 2)
  | hbm (chan : BitVec 9)
deriving DecidableEq, Repr

/-- A router port (R251). -/
inductive Port where
  | north | east | south | west | loc
deriving DecidableEq, Repr

/-- A fault report (R427): the unit (R424), the class (R426), the thread fault code or 0, the placement it
concerns, and the DETAIL field (R447). -/
structure FaultRep where
  unit   : W32
  cls    : Byte
  code   : Byte
  place  : Option Nat
  detail : W64
  fenced : Bool := false   -- a BUS_ERROR that a FENCED answer caused (R437)
  tile   : Bool := false   -- a tile-file error, no error of the local memory or the instruction store (R435)
deriving DecidableEq, Repr

/-- Who asks: a host function, or the management controller (R464, R506). -/
inductive Requester where
  | host (fn : FnRef)
  | mgmt
deriving DecidableEq, Repr

/-- A signed image with its manifest (R453, R454). -/
structure FwImage where
  bytes   : List Byte
  keySlot : BitVec 2
  svn     : W64
deriving DecidableEq, Repr

/-- The samples of one telemetry refresh (R507). -/
structure Telemetry where
  pkg      : W32
  pkg1s    : W32
  cd       : List W32
  tj       : List W16
  tjPlinth : W16
  thbm     : List W16
  throttle : W32
  coolant  : W16
  flow     : W32
deriving DecidableEq, Repr

/-- What a boot stage finds outside the part: identity records by bus address (R516), dies that cannot be repaired
(R514) and stacks whose identity or training fails (R518, R515). -/
structure BootInput where
  ident      : List (Nat × List Byte)
  lostDies   : Byte
  lostStacks : W16
deriving DecidableEq, Repr

/-- A TDISP request to a device interface (R462). -/
inductive TdispReq where
  | lock | start | stop | err
deriving DecidableEq, Repr

/-- The commands of the block: one constructor per row of spec/opcode_table.json, in the table's
order, but for faults, security, power and reset events that no command list of the part ever holds, which stand last: Lean compiles no
term of a constructor with fields past the first few hundred. A row of the core's instruction stream carries the raw operand bytes of its form (R121). -/
inductive Instr where
  /-- NOP (R73). The thread issues a no-operation in slot S and consumes one tick. -/
  | nop (i : Site)
  /-- UNDECODABLE_INSTRUCTION (R73). Slot S grants an instruction with no opcode byte (reserved prefix, more than 15 prefixes, or bytes running past 0xFFFF), and the instruction raises its fault. -/
  | undecodable (core : BitVec 14) (thr : BitVec 2) (bytes : List Byte)
  /-- ADD (R124). Issues a 64-bit wrapping integer add. -/
  | add (i : Site) (o1 o2 o3 : Byte)
  /-- SUB (R124). Issues a 64-bit wrapping integer subtract. -/
  | sub (i : Site) (o1 o2 o3 : Byte)
  /-- AND (R124). Issues a bitwise AND. -/
  | andR (i : Site) (o1 o2 o3 : Byte)
  /-- OR (R124). Issues a bitwise OR. -/
  | orR (i : Site) (o1 o2 o3 : Byte)
  /-- XOR (R124). Issues a bitwise XOR. -/
  | xorR (i : Site) (o1 o2 o3 : Byte)
  /-- SHL (R124). Issues a left shift by bits [5:0] of the second source. -/
  | shl (i : Site) (o1 o2 o3 : Byte)
  /-- SHR (R124). Issues a logical right shift. -/
  | shr (i : Site) (o1 o2 o3 : Byte)
  /-- SAR (R124). Issues an arithmetic right shift. -/
  | sar (i : Site) (o1 o2 o3 : Byte)
  /-- MIN (R124). Issues a signed minimum. -/
  | minS (i : Site) (o1 o2 o3 : Byte)
  /-- MAX (R124). Issues a signed maximum. -/
  | maxS (i : Site) (o1 o2 o3 : Byte)
  /-- MUL (R124). Issues a multiply that keeps the low 64 bits. -/
  | mul (i : Site) (o1 o2 o3 : Byte)
  /-- MULH (R124). Issues a multiply that keeps the signed high 64 bits. -/
  | mulh (i : Site) (o1 o2 o3 : Byte)
  /-- FMUL (R125). Issues an F32 fraction multiply, with rounding, saturation and SOVF. -/
  | fmul (i : Site) (o1 o2 o3 : Byte)
  /-- FADD (R125). Issues an F32 fraction add, with saturation and SOVF. -/
  | fadd (i : Site) (o1 o2 o3 : Byte)
  /-- FSUB (R125). Issues an F32 fraction subtract, with saturation and SOVF. -/
  | fsub (i : Site) (o1 o2 o3 : Byte)
  /-- ADDI (R124). Issues an add of an immediate. -/
  | addi (i : Site) (o1 o2 : Byte) (imm : W32)
  /-- ANDI (R124). Issues an AND with an immediate. -/
  | andi (i : Site) (o1 o2 : Byte) (imm : W32)
  /-- ORI (R124). Issues an OR with an immediate. -/
  | ori (i : Site) (o1 o2 : Byte) (imm : W32)
  /-- XORI (R124). Issues an XOR with an immediate. -/
  | xori (i : Site) (o1 o2 : Byte) (imm : W32)
  /-- SHLI (R124). Issues a left shift by an immediate. -/
  | shli (i : Site) (o1 o2 : Byte) (imm : W32)
  /-- SHRI (R124). Issues a logical right shift by an immediate. -/
  | shri (i : Site) (o1 o2 : Byte) (imm : W32)
  /-- SARI (R124). Issues an arithmetic right shift by an immediate. -/
  | sari (i : Site) (o1 o2 : Byte) (imm : W32)
  /-- MULI (R124). Issues a multiply by an immediate. -/
  | muli (i : Site) (o1 o2 : Byte) (imm : W32)
  /-- LI (R124). Loads a sign-extended immediate into a register. -/
  | li (i : Site) (o1 : Byte) (imm : W32)
  /-- LIH (R125). Writes the upper 32 bits of a register from an immediate and keeps the lower 32 bits. -/
  | lih (i : Site) (o1 : Byte) (imm : W32)
  /-- MOV (R124). Copies one scalar source to a scalar destination. -/
  | mov (i : Site) (o1 o2 : Byte)
  /-- CLZ (R124). Counts leading zeros. -/
  | clz (i : Site) (o1 o2 : Byte)
  /-- POPC (R124). Counts the set bits. -/
  | popc (i : Site) (o1 o2 : Byte)
  /-- CMPEQ (R124). Writes the result of an equality compare to a predicate. -/
  | cmpeq (i : Site) (o1 o2 o3 : Byte)
  /-- CMPNE (R124). Writes the result of an inequality compare to a predicate. -/
  | cmpne (i : Site) (o1 o2 o3 : Byte)
  /-- CMPLT (R124). Writes the result of a signed less-than compare to a predicate. -/
  | cmplt (i : Site) (o1 o2 o3 : Byte)
  /-- CMPLTU (R124). Writes the result of an unsigned less-than compare to a predicate. -/
  | cmpltu (i : Site) (o1 o2 o3 : Byte)
  /-- CMPLE (R124). Writes the result of a signed less-or-equal compare to a predicate. -/
  | cmple (i : Site) (o1 o2 o3 : Byte)
  /-- CMPLEU (R124). Writes the result of an unsigned less-or-equal compare to a predicate. -/
  | cmpleu (i : Site) (o1 o2 o3 : Byte)
  /-- CMPEQI (R124). Writes the result of an equality compare with an immediate to a predicate. -/
  | cmpeqi (i : Site) (o1 o2 : Byte) (imm : W32)
  /-- CMPNEI (R124). Writes the result of an inequality compare with an immediate to a predicate. -/
  | cmpnei (i : Site) (o1 o2 : Byte) (imm : W32)
  /-- CMPLTI (R124). Writes the result of a signed less-than compare with an immediate to a predicate. -/
  | cmplti (i : Site) (o1 o2 : Byte) (imm : W32)
  /-- CMPLTUI (R124). Writes the result of an unsigned less-than compare with an immediate to a predicate. -/
  | cmpltui (i : Site) (o1 o2 : Byte) (imm : W32)
  /-- CMPLEI (R124). Writes the result of a signed less-or-equal compare with an immediate to a predicate. -/
  | cmplei (i : Site) (o1 o2 : Byte) (imm : W32)
  /-- CMPLEUI (R124). Writes the result of an unsigned less-or-equal compare with an immediate to a predicate. -/
  | cmpleui (i : Site) (o1 o2 : Byte) (imm : W32)
  /-- PAND (R124). Writes the AND of two predicates. -/
  | pand (i : Site) (o1 o2 o3 : Byte)
  /-- POR (R124). Writes the OR of two predicates. -/
  | por (i : Site) (o1 o2 o3 : Byte)
  /-- PXOR (R124). Writes the XOR of two predicates. -/
  | pxor (i : Site) (o1 o2 o3 : Byte)
  /-- PNOT (R124). Writes the negation of a predicate. -/
  | pnot (i : Site) (o1 o2 : Byte)
  /-- BR (R127). Branches PC-relative with no delay slot, or raises SPACE_VIOLATION when the target is out of range. -/
  | br (i : Site) (imm : W32)
  /-- BRL (R127). Branches PC-relative and writes the link address. -/
  | brl (i : Site) (o1 : Byte) (imm : W32)
  /-- JR (R127). Jumps to a register plus an immediate. -/
  | jr (i : Site) (o1 : Byte) (imm : W32)
  /-- LOOP (R128). Starts a counted loop on lcN, or skips the body when the count is zero. -/
  | loop (i : Site) (o1 o2 : Byte) (imm : W32)
  /-- LOOPT (R91). Starts a token-terminated loop bound to an inbound ring. -/
  | loopt (i : Site) (o1 o2 : Byte) (imm : W32)
  /-- END (R106). The thread stops. -/
  | endT (i : Site)
  /-- VADD (R130). Adds vectors lane by lane. -/
  | vadd (i : Site) (ty o1 o2 o3 : Byte)
  /-- VSUB (R130). Subtracts vectors lane by lane. -/
  | vsub (i : Site) (ty o1 o2 o3 : Byte)
  /-- VMUL (R130). Multiplies vectors lane by lane. -/
  | vmul (i : Site) (ty o1 o2 o3 : Byte)
  /-- VFMA (R130). Performs a lane-wise fused multiply-add into O1. -/
  | vfma (i : Site) (ty o1 o2 o3 : Byte)
  /-- VMAX (R130). Takes the lane-wise maximum, with the NaN rules. -/
  | vmax (i : Site) (ty o1 o2 o3 : Byte)
  /-- VMIN (R130). Takes the lane-wise minimum, with the NaN rules. -/
  | vmin (i : Site) (ty o1 o2 o3 : Byte)
  /-- VAND (R130). Performs a lane-wise AND. -/
  | vand (i : Site) (ty o1 o2 o3 : Byte)
  /-- VOR (R130). Performs a lane-wise OR. -/
  | vor (i : Site) (ty o1 o2 o3 : Byte)
  /-- VXOR (R130). Performs a lane-wise XOR. -/
  | vxor (i : Site) (ty o1 o2 o3 : Byte)
  /-- VSHL (R130). Shifts each lane left by its own amount. -/
  | vshl (i : Site) (ty o1 o2 o3 : Byte)
  /-- VSHR (R130). Shifts each lane right arithmetically by its own amount. -/
  | vshr (i : Site) (ty o1 o2 o3 : Byte)
  /-- VCMPLT (R130). Writes an all-ones or zero mask for each lane from a less-than compare. -/
  | vcmplt (i : Site) (ty o1 o2 o3 : Byte)
  /-- VCMPEQ (R130). Writes an all-ones or zero mask for each lane from an equality compare. -/
  | vcmpeq (i : Site) (ty o1 o2 o3 : Byte)
  /-- VSEL (R130). Selects each lane from O2 or O3 by the mask in O1. -/
  | vsel (i : Site) (ty o1 o2 o3 : Byte)
  /-- VEXP2 (R196). Computes 2^x in the special-function unit. -/
  | vexp2 (i : Site) (ty o1 o2 : Byte)
  /-- VLOG2 (R196). Computes log2 x in the special-function unit. -/
  | vlog2 (i : Site) (ty o1 o2 : Byte)
  /-- VRCP (R196). Computes the reciprocal in the special-function unit. -/
  | vrcp (i : Site) (ty o1 o2 : Byte)
  /-- VRSQRT (R196). Computes the reciprocal square root in the special-function unit. -/
  | vrsqrt (i : Site) (ty o1 o2 : Byte)
  /-- VTANH (R196). Computes tanh in the special-function unit. -/
  | vtanh (i : Site) (ty o1 o2 : Byte)
  /-- VSIGM (R196). Computes the sigmoid in the special-function unit. -/
  | vsigm (i : Site) (ty o1 o2 : Byte)
  /-- VCVT (R191). Converts between types across register spans, with scale, rounding and saturation. -/
  | vcvt (i : Site) (ty o1 o2 imm8 : Byte)
  /-- VBCAST (R130). Broadcasts a scalar to every lane. -/
  | vbcast (i : Site) (ty o1 o2 : Byte)
  /-- VEXTR (R130). Extracts one lane, sign-extended, to a scalar destination. -/
  | vextr (i : Site) (ty o1 o2 imm8 : Byte)
  /-- VPERM (R130). Permutes lanes by the indices in O3. -/
  | vperm (i : Site) (ty o1 o2 o3 : Byte)
  /-- VREDSUM (R197). Sums the lanes in a balanced binary tree into lane 0. -/
  | vredsum (i : Site) (ty o1 o2 : Byte)
  /-- VREDMAX (R197). Takes the maximum of the lanes in a binary tree into lane 0. -/
  | vredmax (i : Site) (ty o1 o2 : Byte)
  /-- VRAND (R130). Fills 32 I16 lanes with RNG-S draws. -/
  | vrand (i : Site) (o1 : Byte)
  /-- VTOPK (R199). Writes the k largest values and their indices. -/
  | vtopk (i : Site) (ty o1 o2 imm8 : Byte)
  /-- VSAMPLE (R200). Samples one candidate with temperature and top-p, or chooses greedily. -/
  | vsample (i : Site) (ty o1 o2 o3 : Byte)
  /-- GATE (R207). Selects k experts and writes routing records with softmax weights. -/
  | gate (i : Site) (ty o1 o2 imm8 : Byte)
  /-- TCFG (R144). Writes a tile's configuration word, with its checks and any reassignment, and takes a matrix-queue entry. -/
  | tcfg (i : Site) (o1 o2 : Byte)
  /-- TFREE (R154). Clears the in-use flags of the tiles in its mask. -/
  | tfree (i : Site) (imm : W32)
  /-- TLD (R159). Queues a load of a tile's shaped region from local memory. -/
  | tld (i : Site) (o1 o2 : Byte) (imm : W32)
  /-- TLDC (R164). Queues an im2col load of an operand tile. -/
  | tldc (i : Site) (o1 o2 o3 : Byte)
  /-- TST (R159). Queues a store of a tile to local memory. -/
  | tst (i : Site) (o1 o2 : Byte) (imm : W32)
  /-- MMA (R150). Queues a matrix multiply-accumulate into an accumulator tile. -/
  | mma (i : Site) (o1 o2 o3 : Byte)
  /-- MMAZ (R150). Queues a matrix multiply that starts each accumulator element at zero. -/
  | mmaz (i : Site) (o1 o2 o3 : Byte)
  /-- SAVETILES (R157). Queues a save of the thread's in-use, unfenced tiles to an image. -/
  | savetiles (i : Site) (o1 : Byte) (imm : W32)
  /-- RESTTILES (R158). Queues a restore of the thread's tiles from an image. -/
  | resttiles (i : Site) (o1 : Byte) (imm : W32)
  /-- TRDV (R162). Queues a read of one tile row into a vector register. -/
  | trdv (i : Site) (o1 o2 : Byte) (imm : W32)
  /-- TWRV (R162). Queues a write of a vector register into one tile row. -/
  | twrv (i : Site) (o1 o2 : Byte) (imm : W32)
  /-- ME_OP_START (R174). A queued matrix operation starts once every earlier entry has started and its tile dependences clear; an operation whose steps are all skipped completes here. -/
  | meOpStart (core : BitVec 14)
  /-- MMA_STEP (R175). One step of an MMA enters the arrays. -/
  | mmaStep (core : BitVec 14)
  /-- MMA_STEP_CHECK (R179). A step's results and residue check complete; a pass completes the operation at its last step, and a failure fences the tile. -/
  | mmaStepCheck (core : BitVec 14) (pass : Bool)
  /-- LS_OP_COMPLETE (R176). A load-store-path operation completes 6 cycles after its last transfer, writing its destination or reporting BUS_ERROR. -/
  | lsOpComplete (core : BitVec 14)
  /-- LATENT_CHECKER_TEST (R181). An interval of at most 10 ms expires, and the engine runs one step with an injected residue error. -/
  | latentCheckerTest (core : BitVec 14) (detected : Bool) (now : BitVec 64)
  /-- ASYNC_FAULT_DELIVERY (R110). An asynchronous fault reaches a thread, is recorded with ASYNC = 1, and puts the thread into FAULTED at its next boundary. -/
  | asyncFaultDelivery (core : BitVec 14) (thr : BitVec 2) (ve : Option (BitVec 5))
  /-- LD8 (R133). Loads a zero-extended byte, locally or as a blocking far load. -/
  | ld8 (i : Site) (o1 o2 : Byte) (imm : W32)
  /-- LD16 (R133). Loads a zero-extended 16-bit value. -/
  | ld16 (i : Site) (o1 o2 : Byte) (imm : W32)
  /-- LD32 (R133). Loads a zero-extended 32-bit value. -/
  | ld32 (i : Site) (o1 o2 : Byte) (imm : W32)
  /-- LD64 (R133). Loads a 64-bit value. -/
  | ld64 (i : Site) (o1 o2 : Byte) (imm : W32)
  /-- LDS8 (R133). Loads a sign-extended byte. -/
  | lds8 (i : Site) (o1 o2 : Byte) (imm : W32)
  /-- LDS16 (R133). Loads a sign-extended 16-bit value. -/
  | lds16 (i : Site) (o1 o2 : Byte) (imm : W32)
  /-- LDS32 (R133). Loads a sign-extended 32-bit value. -/
  | lds32 (i : Site) (o1 o2 : Byte) (imm : W32)
  /-- LDV (R133). Loads 64 B into a vector register. -/
  | ldv (i : Site) (o1 o2 : Byte) (imm : W32)
  /-- ST8 (R133). Stores a byte, locally or as a posted store. -/
  | st8 (i : Site) (o1 o2 : Byte) (imm : W32)
  /-- ST16 (R133). Stores 16 bits. -/
  | st16 (i : Site) (o1 o2 : Byte) (imm : W32)
  /-- ST32 (R133). Stores 32 bits. -/
  | st32 (i : Site) (o1 o2 : Byte) (imm : W32)
  /-- ST64 (R133). Stores 64 bits. -/
  | st64 (i : Site) (o1 o2 : Byte) (imm : W32)
  /-- STV (R133). Stores 64 B from a vector register. -/
  | stv (i : Site) (o1 o2 : Byte) (imm : W32)
  /-- RST (R134). Posts a remote store to a core window, optionally naming an arrival counter. -/
  | rst (i : Site) (o1 o2 : Byte) (imm : W32)
  /-- CST (R273). Checks and injects a cairn reduction packet. -/
  | cst (i : Site) (o1 o2 o3 : Byte)
  /-- AADD (R235). Issues a blocking atomic add on a commons word. -/
  | aadd (i : Site) (o1 o2 o3 : Byte)
  /-- AMIN (R235). Issues a blocking atomic signed minimum on a commons word. -/
  | amin (i : Site) (o1 o2 o3 : Byte)
  /-- AMAX (R235). Issues a blocking atomic signed maximum on a commons word. -/
  | amax (i : Site) (o1 o2 o3 : Byte)
  /-- ASWAP (R235). Issues a blocking atomic swap on a commons word. -/
  | aswap (i : Site) (o1 o2 o3 : Byte)
  /-- RSEND (R292). Sends a data message on a bound binding and spends one credit. -/
  | rsend (i : Site) (o1 : Byte) (imm : W32)
  /-- RSENDT (R292). Sends a control token on a bound binding. -/
  | rsendt (i : Site) (imm : W32)
  /-- RRD (R288). Pops the oldest ring slot into a destination and a predicate, and returns a credit. -/
  | rrd (i : Site) (o1 o2 : Byte) (imm : W32)
  /-- ROUTE (R214). After its claims are answered and credit is held, sends the token row to the granted experts and drops or defers the refused ones. -/
  | route (i : Site) (o1 o2 o3 : Byte)
  /-- FILL (R225). Queues a fill of local memory with a 64-bit value. -/
  | fill (i : Site) (o1 o2 o3 : Byte)
  /-- COPY (R225). Queues a copy within local memory. -/
  | copy (i : Site) (o1 o2 o3 : Byte)
  /-- IN (R97). Reads a 64-bit I/O register. -/
  | inp (i : Site) (o1 : Byte) (imm : W32)
  /-- OUT (R97). Writes a 64-bit I/O register. -/
  | outp (i : Site) (o1 : Byte) (imm : W32)
  /-- ILOAD (R135). Queues a copy from local memory into the instruction store. -/
  | iload (i : Site) (o1 o2 o3 : Byte)
  /-- IVERIFY (R135). Queues a CRC-32C over a range of the instruction store. -/
  | iverify (i : Site) (o1 o2 : Byte)
  /-- FC_OP_COMPLETE (R227). A FILL, COPY, ILOAD or IVERIFY operation completes and posts its DSYNC record. -/
  | fcOpComplete (core : BitVec 14)
  /-- WAIT (R136). Issues once an arrival counter reaches the awaited value. -/
  | wait (i : Site) (o1 : Byte) (imm : W32)
  /-- MSYNC (R137). Issues once at most n matrix operations of the thread are incomplete, and writes the status record. -/
  | msync (i : Site) (o1 : Byte) (imm : W32)
  /-- DSYNC (R138). Pops a completion record from the thread's DSYNC port. -/
  | dsync (i : Site) (o1 : Byte)
  /-- BAR (R296). Arrives at a barrier slot and waits for its completion. -/
  | bar (i : Site) (imm : W32)
  /-- WAIT_TIMEOUT (R81). A wait lasts TIMEOUT_US, and the thread faults; a BAR withdraws its arrival and a ROUTE releases its grants. -/
  | waitTimeout (core : BitVec 14) (thr : BitVec 2) (now : BitVec 64)
  /-- THR_START (R108). A START in THR_CTLn starts a thread once the thread's earlier ME and DE work is complete, resetting its state. -/
  | thrStart (core : BitVec 14) (thr : BitVec 2) (startPc : BitVec 16)
  /-- THR_PARK (R106). A PARK in THR_CTLn parks a running or waiting thread. -/
  | thrPark (core : BitVec 14) (thr : BitVec 2)
  /-- THR_UNPARK (R107). An UNPARK in THR_CTLn resumes the state the thread held before PARK. -/
  | thrUnpark (core : BitVec 14) (thr : BitVec 2)
  /-- THR_STOP (R106). A STOP in THR_CTLn stops the thread and abandons any wait. -/
  | thrStop (core : BitVec 14) (thr : BitVec 2)
  /-- CORE_QCFG_WRITE (R86). A write rebinds queue ports and empties each changed port that no thread waits on. -/
  | coreQcfgWrite (core : BitVec 14) (val : BitVec 64)
  /-- THR_WAITTO_WRITE (R103). A write sets the wait timeout, clamped to the range 1 to 1,000,000. -/
  | thrWaittoWrite (core : BitVec 14) (thr : BitVec 2) (val : BitVec 64)
  /-- THR_RNG_WRITE (R51). A write sets RNG-S or RNG-M state, replacing zero with the constant. -/
  | thrRngWrite (core : BitVec 14) (thr : BitVec 2) (matrix : Bool) (val : BitVec 64)
  /-- REGISTER_WRITE (R10). A write to a register without a row of its own acts by its field access codes. -/
  | registerWrite (reg : RegRef) (val : BitVec 64)
  /-- DMA_START (R243). A START begins the descriptor at DMA_CHn_DESC in IDLE. -/
  | dmaStart (core : BitVec 14) (thr : BitVec 2) (ch : BitVec 3)
  /-- DMA_STOP (R243). A STOP makes an ACTIVE channel issue no new packet and enter STOPPING. -/
  | dmaStop (core : BitVec 14) (ch : BitVec 3)
  /-- DMA_RESUME (R243). A RESUME continues the current descriptor from POS. -/
  | dmaResume (core : BitVec 14) (ch : BitVec 3)
  /-- DMA_ABORT (R243). An ABORT returns a stopped or halted channel to IDLE. -/
  | dmaAbort (core : BitVec 14) (ch : BitVec 3)
  /-- DMA_PACKET (R237). A channel gains a grant and issues a 64 B read or write packet. -/
  | dmaPacket (core : BitVec 14) (ch : BitVec 3) (read : Bool)
  /-- DMA_PACKET_ERROR (R250). A packet or descriptor word fails, and the channel retries it or halts with BUS_ERROR. -/
  | dmaPacketError (core : BitVec 14) (ch : BitVec 3)
  /-- DMA_DESCRIPTOR_COMPLETE (R249). Every write and increment of a descriptor completes, a record is posted, and the channel follows NEXT or goes IDLE. -/
  | dmaDescriptorComplete (core : BitVec 14) (ch : BitVec 3)
  /-- DMA_STOP_DRAINED (R243). The in-flight packets of a stopping channel complete, and it enters STOPPED with a CANCELLED record. -/
  | dmaStopDrained (core : BitVec 14) (ch : BitVec 3)
  /-- WRITE_ACK_ARRIVE (R230). A write acknowledgement reaches the issuing core and raises its named counter. -/
  | writeAckArrive (pkt : Nat)
  /-- REMOTE_WRITE_ARRIVE (R319). A remote store or DMA write packet lands in a core's local memory and raises the named counter. -/
  | remoteWriteArrive (pkt : Nat)
  /-- RING_MESSAGE_ARRIVE (R287). A channel message or ROUTE header and row is written to a ring and WR advances, or it is discarded. -/
  | ringMessageArrive (pkt : Nat) (crcOk : Bool)
  /-- BIND_REQUEST_ARRIVE (R291). A bind request reaches its target ring, which answers BOUND with credit or REFUSED with a reason. -/
  | bindRequestArrive (pkt : Nat)
  /-- BIND_ANSWER_ARRIVE (R291). The answer to a bind request sets the binding BOUND or REFUSED. -/
  | bindAnswerArrive (pkt : Nat)
  /-- UNBIND_ARRIVE (R290). An unbind that follows the binding's last message frees the target ring. -/
  | unbindArrive (pkt : Nat)
  /-- CREDIT_RETURN_ARRIVE (R288). A returned credit reaches the sender and increments CREDIT. -/
  | creditReturnArrive (pkt : Nat)
  /-- ROUTE_CLAIM_ARRIVE (R211). A ROUTE claim reaches the expert core and is granted or refused against ROUTE_CAPn and free slots. -/
  | routeClaimArrive (pkt : Nat)
  /-- ROUTE_CLAIM_ANSWER (R214). The answer to a claim reaches the sending core. -/
  | routeClaimAnswer (pkt : Nat)
  /-- COMMONS_REQUEST_ARRIVE (R235). A load, store or atomic reaches a commons slice and is performed in arrival order. -/
  | commonsRequestArrive (pkt : Nat)
  /-- HBM_REQUEST_ARRIVE (R335). A read or write reaches an HBM controller, with the written-page bitmap, encryption and ECC applied. -/
  | hbmRequestArrive (pkt : Nat)
  /-- FAR_RESPONSE_ARRIVE (R82). Load data or an atomic result reaches the requester and satisfies its wait, or a stale reply is discarded. -/
  | farResponseArrive (pkt : Nat)
  /-- FENCED_ANSWER_ARRIVE (R430). A FENCED answer completes the request it belongs to with an error. -/
  | fencedAnswerArrive (pkt : Nat)
  /-- MESH_FLIT_FORWARD (R257). An output link sends one flit under class and port arbitration. -/
  | meshFlitForward (router : BitVec 14) (out : Port) (crcOk : Bool)
  /-- FLIT_CRC_FAIL (R265). A received flit fails its CRC and is discarded, and the sender replays. -/
  | flitCrcFail (router : BitVec 14) (out : Port)
  /-- BRIDGE_SPARE_SWITCH (R266). A bridge edge completes its switch to a spare link. -/
  | bridgeSpareSwitch (router : BitVec 14) (out : Port)
  /-- CAIRN_HOLD_EXPIRY (R277). A locally injected cairn packet's hold of CAIRN_HOLD cycles ends. -/
  | cairnHoldExpiry (pkt : Nat)
  /-- CAIRN_FINAL_COMBINE (R278). A cairn packet reaches its target block, which is combined, and the counter rises by CONTRIB. -/
  | cairnFinalCombine (pkt : Nat) (crcOk : Bool)
  /-- RING_CTL_WRITE (R286). A write to RING_CTLn is applied or refused as a whole. -/
  | ringCtlWrite (core : BitVec 14) (n : BitVec 6) (val : BitVec 64)
  /-- CHAN_BIND_WRITE (R290). A write to CHAN_BINDn requests, changes or drops a binding according to its state. -/
  | chanBindWrite (core : BitVec 14) (n : BitVec 6) (val : BitVec 64)
  /-- ROUTE_CAP_WRITE (R218). A write to ROUTE_CAPn sets its fields, and a write of USED ends the routing round. -/
  | routeCapWrite (core : BitVec 14) (n : BitVec 3) (val : BitVec 64)
  /-- BAR_THRMASK_WRITE (R296). A write to THRMASK takes effect now, or at the next phase while a thread waits. -/
  | barThrmaskWrite (core : BitVec 14) (slot : BitVec 4) (val : BitVec 64)
  /-- BARRIER_ARRIVAL (R296). A core's arrival reaches the barrier plane. -/
  | barrierArrival (core : BitVec 14) (slot : BitVec 4)
  /-- BARRIER_RELEASE (R296). A slot completes, and each member core clears ARRIVED, increments PHASE and releases its waiting threads. -/
  | barrierRelease (place : Nat) (slot : BitVec 4)
  /-- ALARM_FIRE (R529). Package time reaches ALARM_NS, and the alarm clears ALARM_EN and raises its counter. -/
  | alarmFire (core : BitVec 14) (thr : BitVec 2) (now : BitVec 64)
  /-- INT_LOGCLR (R348). LOGCLR invalidates every log entry and clears LOGN and LOGOVF. -/
  | intLogclr (mem : MemRef)
  /-- WRITE_RAW (R352). The ECC test command stores raw data and check bits to a word. -/
  | writeRaw (mem : MemRef)
  /-- READ_RAW (R352). The ECC test command reads a word raw, without correction, count or log. -/
  | readRaw (mem : MemRef)
  /-- RAW_ACCESS_COMPLETE (R353). A raw test access completes within 64 cycles and clears BUSY. -/
  | rawAccessComplete (mem : MemRef)
  /-- INT_REMAP_WRITE (R356). A write to a remap entry copies a word in, serves it, or writes it back. -/
  | intRemapWrite (mem : MemRef) (n : BitVec 3) (val : BitVec 64)
  /-- SCRUB_READ (R360). A patrol scrubber reads a location in a free cycle, corrects it or poisons it. -/
  | scrubRead (mem : MemRef) (off : Nat)
  /-- ECC_WRITEBACK (R342). A corrected value is written back at the memory's next free write cycle. -/
  | eccWriteback (mem : MemRef) (off : Nat)
  /-- SUBMIT (R491). A serving request entry is fetched, opened if sealed, checked and passed to admission. -/
  | submit (h : HostCmd)
  /-- CANCEL (R384). Cancels a request according to its dispatch state. -/
  | cancel (h : HostCmd)
  /-- HOLD (R490). Adds the pause cause HELD to a request. -/
  | hold (h : HostCmd)
  /-- RELEASE (R490). Removes the pause cause HELD from a request. -/
  | release (h : HostCmd)
  /-- READ_CTX (R364). Writes a request context to host memory, with sealed fields zeroed. -/
  | readCtx (h : HostCmd)
  /-- RUN (R492). Starts a direct command on every core of a placement. -/
  | run (h : HostCmd)
  /-- CAST (R302). The host requests a cast of a placement. -/
  | castCmd (h : HostCmd)
  /-- READ_CAST (R490). Copies a placement's cast area to host memory. -/
  | readCast (h : HostCmd)
  /-- CREATE_QP (R495). Creates a queue pair within the function's limit. -/
  | createQp (h : HostCmd)
  /-- DELETE_QP (R495). Deletes a queue pair, refused with live requests unless forced. -/
  | deleteQp (h : HostCmd)
  /-- CFG_WRITE (R500). Applies a configuration block field by field with clamping. -/
  | cfgWrite (h : HostCmd)
  /-- CFG_READ (R500). Returns the applied values of a configuration block. -/
  | cfgRead (h : HostCmd)
  /-- SLOT_LOAD (R493). Writes one segment of a slot's weights and, at WEIGHT_LEN, records WEIGHTS. -/
  | slotLoad (h : HostCmd)
  /-- SLOT_UNLOAD (R374). Unloads a slot, refused with live requests unless forced. -/
  | slotUnload (h : HostCmd)
  /-- PLACE_CREATE (R502). Creates a placement from its block and core list, zeroes its memory and applies its load images. -/
  | placeCreate (h : HostCmd)
  /-- PLACE_DESTROY (R490). Ends a placement and frees its cast area. -/
  | placeDestroy (h : HostCmd)
  /-- ZERO_RANGE (R337). Clears the written-page bits of an HBM range, or zeroes its blocks. -/
  | zeroRange (h : HostCmd)
  /-- ZERO_RANGE_COMPLETE (R337). Every controller has applied the clear, and the command completes. -/
  | zeroRangeComplete (id : Nat)
  /-- SQ_TAIL_DOORBELL (R486). A write of a submission tail lets the Plinth fetch the new entries, or is counted as a doorbell error. -/
  | sqTailDoorbell (fn : FnRef) (q : BitVec 12) (val : BitVec 64)
  /-- CQ_HEAD_DOORBELL (R486). A write of a completion head frees ring entries for the notices held. -/
  | cqHeadDoorbell (fn : FnRef) (q : BitVec 12) (val : BitVec 64)
  /-- BAR4_READ (R483). A host read through the BAR4 window reaches data space, or is refused with all ones. -/
  | bar4Read (fn : FnRef) (off : BitVec 36) (len : BitVec 7)
  /-- BAR4_WRITE (R483). A host write through the BAR4 window reaches data space, or is dropped. -/
  | bar4Write (fn : FnRef) (off : BitVec 36) (bytes : List Byte)
  /-- HST_AQEN_WRITE (R482). A write enables the admin queue, or abandons its entries when it disables it. -/
  | hstAqenWrite (fn : FnRef) (val : BitVec 64)
  /-- MSIX_COALESCE_TIMER (R498). TIME µs pass since the first unsignalled entry, and an MSI-X message is sent. -/
  | msixCoalesceTimer (q : QRef) (now : BitVec 64)
  /-- STEP_COMMAND_COMPLETE (R396). A step command completes, and the Plinth commits or replays it, then preempts, runs an admission pass and forms the next step. -/
  | stepCommandComplete (part : BitVec 3) (slot : BitVec 4) (now : BitVec 64)
  /-- STEP_FORMATION (R397). Forms a batch, writes the step area and dispatches the step once a request of the slot is ready. -/
  | stepFormation (part : BitVec 3) (slot : BitVec 4) (now : BitVec 64)
  /-- STEP_LIMIT_EXPIRY (R395). A step attempt runs for STEP_LIMIT, and the Plinth stops it with TIMEOUT. -/
  | stepLimitExpiry (part : BitVec 3) (slot : BitVec 4) (now : BitVec 64)
  /-- DEFER_EXPIRY (R366). A deferred request passes T_ARRIVE + MAX_DEFER and ends FAILED. -/
  | deferExpiry (ctx : BitVec 21) (now : BitVec 64)
  /-- BUCKET_REFILL (R370). A contract's token bucket rises by one token at RATE. -/
  | bucketRefill (part : BitVec 3) (contract : BitVec 8)
  /-- TOKEN_SEAL (R415). The crypto engine seals committed tokens and writes an output chunk, moving DRAINING requests to DONE. -/
  | tokenSeal (ctx : BitVec 21) (sealable : Bool) (now : BitVec 64)
  /-- CONTEXT_FREE (R366). A final notice is written, and the context returns to FREE. -/
  | contextFree (ctx : BitVec 21) (now : BitVec 64)
  /-- SCH_SNOW_CFG_WRITE (R390). A write that sets EN clears STAT and arms the snowline. -/
  | schSnowCfgWrite (part : BitVec 3) (n : BitVec 5) (val : BitVec 64)
  /-- SCH_SNOW_STAT_WRITE (R391). Writing 1 to CROSSED clears CROSSED and COUNT and rearms the snowline. -/
  | schSnowStatWrite (part : BitVec 3) (n : BitVec 5) (val : BitVec 64)
  /-- SCH_MEAS_GO (R421). GO starts a histogram snapshot, with CLEAR optionally zeroing it afterwards. -/
  | schMeasGo (part : BitVec 3) (val : BitVec 64)
  /-- SCH_MEAS_SNAPSHOT_DONE (R420). The snapshot completes and the percentile registers are written. -/
  | schMeasSnapshotDone (part : BitVec 3)
  /-- ERR_UNIT_SET (R449). SET changes a unit's management state, draining and fencing the placements that use it. -/
  | errUnitSet (by_ : Requester) (unit : BitVec 32) (state : BitVec 4) (pass : Bool) (now : BitVec 64)
  /-- ERR_UNIT_RECONCILE (R450). RECONCILE accepts the data-path state or retests the unit, and clears DISPUTED. -/
  | errUnitReconcile (by_ : Requester) (unit : BitVec 32) (arg : BitVec 4) (pass : Bool) (now : BitVec 64)
  /-- ERR_POLICY_WRITE (R448). A write sets the fault policy, loading 1 for a zero REPLAY_MAX or HARD_N. -/
  | errPolicyWrite (by_ : Requester) (val : BitVec 64)
  /-- SEC_HPKE_ROTATE (R468). ROTATE generates a new seal key pair and destroys the old previous key. -/
  | secHpkeRotate (part : BitVec 3) (val : BitVec 64) (now : BitVec 64)
  /-- HPKE_AUTO_ROTATE (R468). The ROTATE_S interval expires, and the seal keys rotate. -/
  | hpkeAutoRotate (part : BitVec 3) (now : BitVec 64)
  /-- CHALLENGE (R464). Answers the SPDM CHALLENGE request. -/
  | challenge (by_ : Requester) (nonce : List Byte)
  /-- GET_MEASUREMENTS (R465). Returns the measurements visible to the requester. -/
  | getMeasurements (by_ : Requester) (index : Byte) (nonce : List Byte)
  /-- KEY_EXCHANGE (R464). Answers the SPDM KEY_EXCHANGE request. -/
  | keyExchange (by_ : Requester) (data : List Byte)
  /-- GET_VERSION (R464). Answers the SPDM GET_VERSION request. -/
  | getVersion (by_ : Requester)
  /-- GET_CAPABILITIES (R464). Answers the SPDM GET_CAPABILITIES request. -/
  | getCapabilities (by_ : Requester)
  /-- NEGOTIATE_ALGORITHMS (R464). Answers the SPDM NEGOTIATE_ALGORITHMS request. -/
  | negotiateAlgorithms (by_ : Requester)
  /-- GET_DIGESTS (R464). Answers the SPDM GET_DIGESTS request. -/
  | getDigests (by_ : Requester)
  /-- GET_CERTIFICATE (R464). Answers the SPDM GET_CERTIFICATE request. -/
  | getCertificate (by_ : Requester) (slot : Byte)
  /-- FINISH (R464). Answers the SPDM FINISH request. -/
  | finish (by_ : Requester) (data : List Byte)
  /-- END_SESSION (R464). Answers the SPDM END_SESSION request. -/
  | endSession (by_ : Requester)
  /-- PQ_SIGN (R464). Returns an ML-DSA-87 signature over the preceding MEASUREMENTS transcript. -/
  | pqSign (by_ : Requester) (vendor : BitVec 16)
  /-- DEBUG_UNLOCK (R457). A valid token cancels requests, destroys partitions, zeroises keys and opens debug. -/
  | debugUnlock (token : List Byte) (now : BitVec 64)
  /-- LIFECYCLE_TRANSITION (R456). A lifecycle command moves the part to PROVISIONED, DEPLOYED or RMA. -/
  | lifecycleTransition (target : BitVec 2) (token : List Byte) (now : BitVec 64)
  /-- MCTP_CONTROL (R505). An MCTP control message discovers the endpoint or assigns its ID. -/
  | mctpControl (eid : Option Byte)
  /-- PLDM_FIRMWARE_UPDATE (R455). Management writes a new firmware image through PLDM. -/
  | pldmFirmwareUpdate (image : FwImage)
  /-- PLDM_ACTIVATE (R454). Activates an update, advancing the fused SVN when the commit option is given. -/
  | pldmActivate (commit : Bool)
  /-- NV_STORE (R521). STORE starts a snapshot of the persistent settings into MRAM, or is refused at the limit. -/
  | nvStore (by_ : Requester) (now : BitVec 64)
  /-- PWR_CAP_WRITE (R533). A write sets the sustained cap, clamped, from the next evaluation. -/
  | pwrCapWrite (by_ : Requester) (val : BitVec 64)
  /-- PWR_DIE_CTL_WRITE (R533). A write sets a die's FMAX ceiling, clamped and rounded. -/
  | pwrDieCtlWrite (by_ : Requester) (die : BitVec 3) (val : BitVec 64)
  /-- COMMAND_END (R298). All threads have stopped and no packet is in flight, and the command completes without realignment. -/
  | commandEnd (place : Nat) (now : BitVec 64)
  /-- REALIGNMENT (R299). At step or command end, compares channel state with baselines and resets it. -/
  | realignment (place : Nat) (now : BitVec 64)
  /-- CAST_COMPLETE (R302). Every core record of a cast has been written, and VALID is set. -/
  | castComplete (place : Nat) (now : BitVec 64)
  /-- CMD_LIMIT_EXPIRY (R494). A RUN exceeds CMD_LIMIT, takes a cast and is ended with TIMEOUT. -/
  | cmdLimitExpiry (place : Nat) (now : BitVec 64)
  /-- DRAIN (R307). Suspends a placement, scans out its state and writes a sealed image. -/
  | drain (place : Nat)
  /-- DRAIN_COMPLETE (R307). The sealed drain image has been written. -/
  | drainComplete (place : Nat)
  /-- RESTORE (R308). Restores a drained placement from its sealed image, or fails with AUTH_FAILED. -/
  | restore (place : Nat)
  /-- FAULT_REPORT (R427). A fault report reaches the Plinth and becomes a fault record. -/
  | faultReport (rep : FaultRep) (now : BitVec 64)
  /-- STEP_CANCEL (R436). A fault touches a running attempt, which is parked, drained, reset and completed with a status. -/
  | stepCancel (place : Nat) (status : Byte) (now : BitVec 64)
  /-- RESERVED_OPCODE (R123). A thread issues an opcode byte that no reference table lists, and it raises ILLEGAL_ENCODING. -/
  | reservedOpcode (i : Site) (opc : Byte)
  /-- FENCE_NOTICE (R430). A fence notice reaches a requester, which completes its outstanding requests to the unit as FENCED. -/
  | fenceNotice (unit : BitVec 32) (core : BitVec 14)
  /-- LOST_ANSWER_TIMEOUT (R434). A request stays unanswered for 500 µs and is completed as FENCED. -/
  | lostAnswerTimeout (core : BitVec 14) (slot : Nat) (now : BitVec 64)
  /-- ROUTER_SILENT_TIMEOUT (R426). A neighbour receives neither flit nor idle marker for 64 cycles. -/
  | routerSilentTimeout (router : BitVec 14) (now : BitVec 64)
  /-- ENGINE_WATCHDOG (R426). An engine holding work makes no progress for 4,096 cycles. -/
  | engineWatchdog (core : BitVec 14) (now : BitVec 64)
  /-- HEARTBEAT_TIMEOUT (R426). No heartbeat arrives on a management link for 10 µs. -/
  | heartbeatTimeout (unit : BitVec 32) (now : BitVec 64)
  /-- SELF_TEST_COMPLETE (R435). A fenced unit's self-test ends, and the unit is unfenced or replaced by a spare. -/
  | selfTestComplete (unit : BitVec 32) (pass : Bool) (now : BitVec 64)
  /-- SPARE_SUBSTITUTION (R269). A spare takes a failed core's place, its row is held and rewritten, and its memory and load image are set. -/
  | spareSubstitution (core : BitVec 14) (now : BitVec 64)
  /-- SPARE_SUBSTITUTION_COMPLETE (R442). The spare's local memory zeroing and load image finish, and the core is IN_SERVICE, so the replayed step can be redispatched. -/
  | spareSubstitutionComplete (core : BitVec 14) (now : BitVec 64)
  /-- LOCKSTEP_MISMATCH (R439). The twin controllers disagree, stop and restart from the verified image. -/
  | lockstepMismatch (now : BitVec 64)
  /-- SCHEDULER_MISMATCH (R440). The duplicated scheduler hardware disagrees and reloads its state. -/
  | schedulerMismatch (now : BitVec 64)
  /-- LOCKSTEP_CHECKER_TEST (R441). A mismatch is injected into each comparator at least every 10 ms; bit 0 of `detected` says whether that of the
  twin controllers detects it, bit 1 that of the scheduler and admission hardware. -/
  | lockstepCheckerTest (detected : BitVec 2) (now : BitVec 64)
  /-- CONTROLLER_WATCHDOG (R529). The 100 ms firmware watchdog expires and is handled as a lockstep mismatch. -/
  | controllerWatchdog (now : BitVec 64)
  /-- CAPACITY_LOSS (R444). A unit or placement is marked LOST or failed, and the affected slots are suspended. -/
  | capacityLoss (unit : BitVec 32) (now : BitVec 64)
  /-- ALT_PLACEMENT_TIMEOUT (R445). No alternative placement succeeds within 5 s, and the requests end FAILED. -/
  | altPlacementTimeout (part : BitVec 3) (slot : BitVec 4) (now : BitVec 64)
  /-- ENTROPY_FAIL_TIMEOUT (R461). A health-test failure lasts 10 ms and is reported as a crypto engine fault. -/
  | entropyFailTimeout (now : BitVec 64)
  /-- ENTROPY_HEALTH_TEST_FAIL (R461). The entropy source's continuous health test starts failing, ENTROPY reads 1 and every DRBG draw waits. -/
  | entropyHealthTestFail (now : BitVec 64)
  /-- ENTROPY_HEALTH_TEST_PASS (R461). The health test passes again, ENTROPY clears and waiting DRBG draws proceed. -/
  | entropyHealthTestPass (now : BitVec 64)
  /-- TDI_LEAVE_RUN (R463). A TDI leaves RUN, and its partition is suspended. -/
  | tdiLeaveRun (part : BitVec 3) (now : BitVec 64)
  /-- TDI_ENTER_RUN (R463). A TDI returns to RUN, its held output is written and its requests resume. -/
  | tdiEnterRun (part : BitVec 3) (now : BitVec 64)
  /-- IDE_TLP_RECEIVE (R462). A TLP arrives for a TDI and is accepted on its bound IDE stream, or dropped. -/
  | ideTlpReceive (fn : FnRef) (stream : Byte) (tbit : Bool) (tagOk : Bool)
  /-- TDI_CONFIG_LOCK (R462). A TDISP request moves a TDI between CONFIG_UNLOCKED and CONFIG_LOCKED, or into ERROR. -/
  | tdiConfigLock (part : BitVec 3) (req : TdispReq)
  /-- IDE_KM_KEY_PROGRAMMING (R462). The host's trusted security manager programs IDE stream keys through IDE_KM over an SPDM session. -/
  | ideKmKeyProgramming (fn : FnRef) (stream : Byte) (inSession : Bool)
  /-- I3C_ADDRESS_TIMEOUT (R504). No dynamic address is assigned within 1 s, and the part falls back to SMBus. -/
  | i3cAddressTimeout (now : BitVec 64)
  /-- DYNAMIC_ADDRESS_ASSIGNMENT (R504). The I3C bus controller assigns the part a dynamic address on the management bus. -/
  | dynamicAddressAssignment (addr : BitVec 7)
  /-- NV_STORE_COMPLETE (R521). The snapshot has been written and read back, or FAIL is set. -/
  | nvStoreComplete (readBackOk : Bool)
  /-- NV_STORE_WINDOW_EXPIRY (R522). The 3,600 s window of the long timer advances, restoring STOREs still accepted. -/
  | nvStoreWindowExpiry (now : BitVec 64)
  /-- POWER_EVALUATION (R530). Every 1 ms, the power manager adjusts each die's frequency and the stretch. -/
  | powerEvaluation (power : BitVec 32) (tj : List (BitVec 16)) (now : BitVec 64)
  /-- FREQUENCY_SWITCH (R524). A die's PLL switches frequency after its rail settles. -/
  | frequencySwitch (die : BitVec 3)
  /-- COOLANT_OUT_OF_RANGE (R532). Coolant is out of range for 1 s, and the cap is forced to 1,500 W. -/
  | coolantOutOfRange (now : BitVec 64)
  /-- COOLANT_RECOVERED (R532). Coolant is in range for 10 s, and the forced cap is lifted. -/
  | coolantRecovered (now : BitVec 64)
  /-- TELEMETRY_REFRESH (R507). Every 1 ms, the telemetry registers are refreshed. -/
  | telemetryRefresh (smp : Telemetry) (now : BitVec 64)
  /-- PACKAGE_TIME_RESYNC (R526). Every 1 ms, the die replicas of package time are resynchronised. -/
  | packageTimeResync (now : BitVec 64)
  /-- COLD_RESET (R514). PWRGOOD asserts, and the part boots through its stages to READY. -/
  | coldReset (now : BitVec 64)
  /-- WARM_RESET (R515). PERST# on both ports or the management reset command reboots the part. -/
  | warmReset (now : BitVec 64)
  /-- PORT_RESET (R511). PERST#, a hot reset or link down on one port resets that port's functions and queue pairs. -/
  | portReset (port : BitVec 1)
  /-- FLR (R511). A Function Level Reset resets one function's queue pairs and MSI-X table. -/
  | flr (fn : FnRef)
  /-- BOOT_STAGE_COMPLETE (R514). A boot stage completes, and at stage 6 HST_STATUS READY becomes 1 and full service begins. -/
  | bootStageComplete (boot : BootInput) (now : BitVec 64)
  /-- PERST_DEASSERTION (R480). PERST# deasserts on a port, and configuration space must answer within 100 ms. -/
  | perstDeassertion (port : BitVec 1)
  /-- CURRENT_STRETCH (R531). The current estimate exceeds 4.6 kW or a fast alert asserts, and every die's clock is stretched. -/
  | currentStretch
  /-- THERMTRIP (R532). A junction reaches 125 °C, every clock stops and THERMTRIP# asserts. -/
  | thermtrip
  /-- EMERGENCY_STOP (R509). PWRGOOD deasserts or a rail sags, and every die clock stops. -/
  | emergencyStop
  /-- VDD_AON_APPLIED (R526). VDD_AON is applied, and package time starts from 0. -/
  | vddAonApplied
  /-- VDD_AON_REMOVED (R526). VDD_AON is removed, package time stops and THERMTRIP# is released. -/
  | vddAonRemoved
  /-- CONTROLLER_RESTART_DONE (R439). The controllers finish replaying their journal and run the held commands. -/
  | controllerRestartDone
  /-- SCHEDULER_RELOAD_COMPLETE (R440). The duplicated step scheduler and admission hardware finishes reloading its state and resumes. -/
  | schedulerReloadComplete
deriving DecidableEq, Repr

end Sys2Proof
end

