-- ==== Sys2Proof/Decode.lean ====
section
/-! DEFINITION. The word decoder of the block. spec/opcode_table.json gives no row any bits: a command of this block arrives as an
event, not as a word, so no word spells a command. -/

namespace Sys2Proof

/-- The command that a word of `nbits` bits spells by the table's bits: none, since no row of the table has bits. -/
def decodeTableWord (_nbits _w : Nat) : Option Instr := none

end Sys2Proof
end

