-- ==== Sys2Proof/Config.lean ====
section
/-! DEFINITION. What the part fixes without saying how, and the values the spec leaves open: opaque constants, so that no proof can
see a value the spec does not give. -/

namespace Sys2Proof.Config

/-- The `n`-th free value, of `w` bits: any value the spec leaves open (TRNG draws, stale reads, unstated results). DESIGN CHOICE: log 8. -/
opaque freeBits (w : Nat) (n : Nat) : BitVec w

/-- The check byte that SEC-DED stores with a 64-bit word (R219, R342); the spec does not give the code. DESIGN CHOICE: log 11. -/
opaque secded (data : BitVec 64) : BitVec 8

/-- The parity bit that the tile file stores with a byte (R342); the spec does not give its sense. DESIGN CHOICE: log 11. -/
opaque tileParity (data : BitVec 8) : Bool

/-- The 16 B code of a 64 B HBM unit as stored (R342). DESIGN CHOICE: log 11. -/
opaque hbmCode (stored : BitVec 512) : BitVec 128

/-- The stored unit and the DRAM device that an HBM code corrects to, when the errors lie in one device (R342). DESIGN CHOICE: log 11. -/
opaque hbmCorrect (stored : BitVec 512) (code : BitVec 128) : Option (BitVec 512 × BitVec 7)

/-- The stored pattern of a poisoned HBM unit and its code (R343); the spec gives neither. DESIGN CHOICE: log 11. -/
opaque hbmPoison : BitVec 512 × BitVec 128

/-- AES-256-XTS of a 64 B unit under key `k` with tweak `t` (R340). DESIGN CHOICE: log 10. -/
opaque xtsEnc (k : Nat) (t : BitVec 64) (plain : BitVec 512) : BitVec 512

/-- The inverse of `xtsEnc` (R340). DESIGN CHOICE: log 10. -/
opaque xtsDec (k : Nat) (t : BitVec 64) (cipher : BitVec 512) : BitVec 512

/-- Whether the spare rows and columns of memory instance `inst` suffice for failing locations at byte offsets `cells` (R354, R358); the spec gives
no number of spares. DESIGN CHOICE: log 136. -/
opaque sparesSuffice (inst : Nat) (cells : List Nat) : Bool

/-- The `n`-th sealed drain image that the part writes: its offset in the save area and its bytes, for placement `place` under key number `key`
(R307); the spec gives neither the form of an image nor its place in the area. DESIGN CHOICE: log 137. -/
opaque drainSeal (key place n : Nat) : Nat × List (BitVec 8)

/-- VEXP2, VLOG2, VRCP, VRSQRT, VTANH, VSIGM (0 to 5) on an FP32 operand: which of the values inside the error bound of R196 the unit
gives. DESIGN CHOICE: log 9. -/
opaque sfu (f : Nat) (x : BitVec 32) : BitVec 32

/-- Opening an HPKE envelope of R467 with key number `k`, KEY_ID, and associated data: the plaintext and E (R472, R474). DESIGN CHOICE: log 10. -/
opaque hpkeOpen (k : Nat) (info aad enc ct : List Byte) : Option (List Byte × List Byte)

/-- Sealing an output chunk: HKDF-SHA256 of SALT and E, then AES-256-GCM with nonce, associated data and tokens (R474, R475). DESIGN CHOICE: log 10. -/
opaque chunkSeal (salt secret nonce aad plain : List Byte) : List Byte

/-- SHA-256 (R412, R472). DESIGN CHOICE: log 10. -/
opaque sha256 (x : List Byte) : List Byte

/-- SHA-384 (R453, R466). DESIGN CHOICE: log 10. -/
opaque sha384 (x : List Byte) : List Byte

/-- Whether both signatures of an image verify under the key pair of a slot (R453). DESIGN CHOICE: log 10. -/
opaque imageVerifies (slot : Nat) (bytes : List Byte) (svn : BitVec 64) : Bool

/-- Whether a debug unlock token verifies for this part and this nonce (R457). DESIGN CHOICE: log 10. -/
opaque debugTokenOk (nonce token : List Byte) : Bool

/-- Whether a lifecycle command or token satisfies the Requires column of R456 for the target state. DESIGN CHOICE: log 10. -/
opaque lifecycleOk (target : Nat) (token : List Byte) : Bool

/-- An SPDM response to request number `r` with payload `p`, over the transcript so far, by the Alias keys of inputs `alias` (R451, R464). DESIGN
CHOICE: log 10. -/
opaque spdmReply (alias_ : List Byte) (r : Nat) (p transcript : List Byte) : List Byte

/-- The public seal keys of key number `k`, as R465 lists them. DESIGN CHOICE: log 10. -/
opaque sealPublic (k : Nat) : List Byte

/-- The ROM's measurement and the device programs' measurement (R465 indices 1 and 4). DESIGN CHOICE: log 10. -/
opaque fixedMeasurement (index : Nat) : List Byte

/-- The TDI identifiers of both ports of a partition (R465). DESIGN CHOICE: log 10. -/
opaque tdiIds (p : Nat) : List Byte

end Sys2Proof.Config
end

