-- ==== Sys2Proof/Machine/State.lean ====
section
/-! DEFINITION. The state of the part as plain data: every register, queue, memory, mode and table that the spec names, the commands
waiting, and the value of each after reset (the field defaults below are the reset values; `State.reset` collects them). -/

namespace Sys2Proof.Machine

/-- A finite table by number, its keys strictly rising; a key that is not listed reads as the table's default. -/
abbrev Tab (α : Type) := List (Nat × α)

/-- Why the machine stops. -/
inductive Fault where
  /-- Raised by every command whose `core`, `thr` or router names a core_id with column 48 to 63, which names no core (R19):
  no such command can be sent. Safe: the model stops where nothing exists that could go on. -/
  | noSuchCore
deriving DecidableEq, Repr

/-- Why the model has no meaning for a command. -/
inductive Refusal where
  /-- Raised by an arm of `exec` that has no meaning yet. Safe. -/
  | notModelled (mnemonic : String)
deriving DecidableEq, Repr

/-! ## A thread (R71) -/

/-- Thread states, with their CORE_THRSTAT codes 0 to 4 in this order (R100). -/
inductive ThSt where
  | stopped | running | waiting | parked | faulted
deriving DecidableEq, Repr

/-- A destination that a synchronous result is held back for (R77, R85). -/
inductive Dst where
  | g (n : Nat) | sh (n : Nat) | q (port ticket : Nat) | p (n : Nat) | v (n : Nat) | lc (n : Nat)
deriving DecidableEq, Repr

/-- A result held until the tick reaches `due` (R78), with the PC of its instruction, the flags it sets and the RNG-S
state before it, which a failed check restores (R198). -/
structure Pend where
  due  : W64
  dst  : Dst
  val  : W512
  pc   : W16
  sovf : Bool := false
  vovf : Bool := false
  rng  : W64 := 0
deriving DecidableEq, Repr

/-- A wait: its object (R305), package time when it began or last resumed, ns waited before that, whether its event has come,
and the reply of a far load or atomic (R80, R81, R107). -/
structure Wait where
  kind  : Nat
  index : Nat
  arg   : Nat
  begun : W64
  spent : W64 := 0
  done  : Bool := false
  reply : W512 := 0
  err   : Bool := false
  cause : Nat := 0          -- why it is an error: 1 a FENCED answer (R437), 2 a fresh uncorrectable error that its memory reports (R426)
  slot  : Option (Nat × BitVec 4) := none   -- the request slot that a far load or atomic waits on, with its epoch (R431)
deriving DecidableEq, Repr

/-- An active loop: its counter, the first instruction of the body, the body's last instruction, and for a
token-terminated loop its ring and whether END_LOOP has been popped in the pass (R88, R91, R128). -/
structure Loop where
  lc    : BitVec 2
  head  : W16
  last  : Nat
  ring  : Option (BitVec 6)
  ended : Bool := false
deriving DecidableEq, Repr

/-- A ROUTE record and the answer to its claim: 0 none, 1 granted, 2 refused, 3 FENCED (R211, R214, R430). -/
structure Claim where
  j      : Nat
  expert : W16
  core   : CoreId
  ring   : BitVec 6
  weight : W32
  answer : Nat := 0
deriving DecidableEq, Repr

/-- An asynchronous fault on its way to a thread (R110): the issue it belongs to by the thread's count of issues, package time when it
was found, and the tick at which the thread has taken it at the latest, for a load of own local memory (R223). -/
structure AsyncFault where
  code : Byte
  pc   : W16
  addr : W64
  ord  : Nat := 0
  at_  : W64 := 0
  due  : Option W64 := none
deriving DecidableEq, Repr

/-- What a thread owns (R71), at its values after placement creation. -/
structure Thread where
  st        : ThSt := .stopped           -- R100
  parkedFrom : ThSt := .stopped          -- state held before PARK (R106)
  pc        : W16 := 0                   -- R71
  past      : Bool := false              -- the PC has run one past 0xFFFF (R93)
  tick      : W64 := 0                   -- THR_TICK (R76, R104)
  g         : Tab W64 := []              -- g0 to g31 (R71)
  p         : Byte := 1                  -- p0 to p7; p0 reads 1 (R71)
  v         : Tab W512 := []             -- v0 to v31 (R71)
  lc        : Tab W32 := []              -- lc0 to lc3 (R71)
  pend      : List Pend := []            -- results held back (R78)
  loops     : List Loop := []            -- active loops, latest started first (R128)
  arith     : W64 := 8                   -- THR_ARITH: SAT 1, RND 0 (R56)
  rngS      : W64 := 0                   -- THR_RNGS (R58); 0 before the first START is the model's choice (log 7)
  rngM      : W64 := 0                   -- THR_RNGM (R58); 0 before the first START is the model's choice (log 7)
  rngEpoch  : Nat := 0                   -- writes of THR_RNGM so far (R51)
  rngOld    : Tab W64 := []              -- sequences that queued operations continue with (R51)
  waitTo    : BitVec 20 := 2000          -- THR_WAITTO (R103)
  wait      : Option Wait := none        -- R80
  dsync     : List W64 := []             -- DSYNC port, at most 16 records (R138)
  dsyncHeld : List W64 := []             -- records that engines hold behind the full port (R138)
  clamped   : Bool := false              -- a matrix operation clamped since the previous MSYNC (R137)
  fault     : W64 := 0                   -- THR_FAULTn (R105)
  faddr     : W64 := 0                   -- THR_FADDRn (R104)
  startPc   : W16 := 0                   -- START_PC of THR_CTLn (R102)
  priv      : Bool := false              -- PRIV (R102)
  startHeld : Bool := false              -- a START held for earlier ME and DE work (R108)
  intSel    : BitVec 3 := 0              -- INT_SEL (R347)
  alarm     : W64 := 0                   -- TMR_ALARM (R528)
  claims    : List Claim := []           -- claims of the ROUTE in progress (R214)
  async     : List AsyncFault := []      -- asynchronous faults not yet delivered (R110)
  issued    : Nat := 0                   -- issues since placement creation, for the order of R110 (the model's own)
deriving DecidableEq, Repr

/-! ## Memories under a code (R342) -/

/-- A memory of bytes under SEC-DED, 8 B a word: its bytes, and the stored check byte of each word whose check byte is not the
code of its data (R342, R343, R352). -/
structure EccMem where
  data : Tab Byte := []
  chk  : Tab Byte := []
deriving DecidableEq, Repr

/-- A remap entry (R355). Its own storage (R356) lies behind the words or units of its memory: word 0x100_0000 + n of a SEC-DED memory
(`remapWord`), unit `hbmSpare` + 8 × channel + n of HBM, and for the tile file the word that it serves. -/
structure Remap where
  v    : Bool := false
  ign  : Bool := false
  addr : BitVec 48 := 0
deriving DecidableEq, Repr

/-- The integrity registers of one memory instance (R346 to R361). -/
structure Inst where
  ce      : W16 := 0                       -- INT_ECNT CE (R348)
  ue      : W16 := 0                       -- INT_ECNT UE
  prd     : W16 := 0                       -- INT_ECNT PRD
  logovf  : Bool := false                  -- INT_ECNT LOGOVF
  log     : List (Nat × Nat) := []         -- INT_LOGn: bit and address, entry 0 first (R349)
  ueV     : Bool := false                  -- INT_UEADDR V (R350)
  ueAddr  : BitVec 48 := 0
  testEn  : Bool := false                  -- INT_TEST EN (R352)
  busy    : Nat := 0                       -- INT_TEST command in progress: 0 none, 1 WRITE_RAW, 2 READ_RAW
  tdata   : W512 := 0                      -- INT_TDATA (64 bits of it outside HBM)
  tchk    : BitVec 128 := 0                -- INT_TCHK
  taddr   : W64 := 0                       -- INT_TADDR
  remap   : Tab Remap := []                -- INT_REMAPn (R355)
  rstat   : Byte := 0                      -- INT_RSTAT (R357)
  late    : Bool := false                  -- INT_SCRUB LATE (R361)
  passes  : W32 := 0                       -- INT_SCRUB PASSES
  passed  : Option W64 := none             -- package time at which the latest pass ended (R361)
  wb      : Tab W64 := []                  -- corrected values waiting for a free write cycle (R342)
deriving DecidableEq, Repr

/-! ## The tile file and the matrix queue (R141 to R188) -/

/-- One tile: the configuration word as issue checks see it (R145), the one the engine has applied (R144), the
in-use flag and fence (R153, R180), operand bytes and exponents, and accumulator elements at 32 × row + column. -/
structure Tile where
  cfg   : W64
  live  : W64
  inUse : Bool := false
  fence : Bool := false
  bytes : Tab Byte := []
  exps  : Tab Byte := []
  acc   : Tab (BitVec 40) := []
deriving DecidableEq, Repr

/-- The work of a matrix-queue entry, with the operands taken at issue (R131, R132). -/
inductive MeKind where
  | tcfg (tile : Nat) (word : W64) (reassign : Bool)
  | tfree (mask : BitVec 24)
  | tld (tile : Nat) (addr : W64) (rows cols : Nat) (cfg : W64)
  | tldc (tile : Nat) (base : W64) (parm : W64) (rows cols : Nat) (cfg : W64)
  | tst (tile : Nat) (addr : W64) (rows cols : Nat) (cfg : W64)
  | mma (acc a b m n k : Nat) (zero : Bool) (pattern : Bool) (metaTile : Nat) (stat : BitVec 2)
  | save (addr : W64)
  | rest (addr : W64)
  | trdv (v : Nat) (tile row seg : Nat)
  | twrv (tile row seg : Nat) (val : W512)
deriving DecidableEq, Repr

/-- A matrix-queue entry (R173 to R175, R180). -/
structure MeOp where
  id      : Nat
  thr     : BitVec 2
  pc      : W16
  kind    : MeKind
  mode    : BitVec 3        -- rounding, taken at issue (R59)
  sat     : Bool
  epoch   : Nat             -- generator sequence (R51)
  ord     : Nat := 0        -- the issue it belongs to, by its thread's count (R110)
  started : Bool := false
  entered : Nat := 0        -- steps that have entered the arrays
  checked : Nat := 0        -- steps whose check has passed
  clamped : Bool := false   -- a contribution or addition clamped (R66)
  reuse   : BitVec 4 := 0   -- REUSE of its stationarity prefix (R178)
  moved   : Nat := 0        -- rows or reads of a tile transfer done so far (R311, R317)
  got     : List (List Byte) := []      -- what a TLD or TLDC has read so far
  bads    : List (Nat × Bool) := []     -- words of a transfer that could not be read or merged, in its order
deriving DecidableEq, Repr

/-- An entry of the operand cache: an 8-row block of a tile with its retention class (R177, R178). -/
structure CacheEnt where
  tile  : Nat
  block : Nat
  cls   : Nat
deriving DecidableEq, Repr

/-- An operation of the FILL and COPY unit (R226). -/
inductive FcKind where
  | fill (addr len : W64) (val : W64)
  | copy (dst src len : W64)
  | iload (dst src len : W64)
  | iverify (addr len : W64)
deriving DecidableEq, Repr

/-- A queued FILL, COPY, ILOAD or IVERIFY with its thread and PC, the words it has moved so far and whether one could not be read (R226,
R227, R315). -/
structure FcOp where
  thr  : BitVec 2
  pc   : W16
  kind : FcKind
  moved : Nat := 0
  bad  : Bool := false
deriving DecidableEq, Repr

/-! ## DMA (R237 to R250) -/

/-- DMA channel states, with codes 0 to 5 in this order (R240). -/
inductive ChSt where
  | idle | active | stopping | stopped | haltedBus | haltedInvalid
deriving DecidableEq, Repr

/-- A DMA write in flight: its first destination count, its length and its counter (R230, R249). -/
structure ChOut where
  at_ : Nat
  len : Nat
  ack : Bool := false
deriving DecidableEq, Repr

/-- A read packet of a channel still to be answered: its place in the order of reads, its address and its length. -/
structure ChIn where
  at_  : Nat
  addr : W64
  len  : Nat
deriving DecidableEq, Repr

/-- What compress and expand modes know of a group: whether its E8 is 0x80, once read; with MARK, its element bytes looked at and whether one of
them was not zero (R204, R205). -/
structure GroupInfo where
  absent : Option Bool := none
  seen   : Nat := 0
  any    : Bool := false
deriving DecidableEq, Repr

/-- A DMA channel: its registers, the descriptor it runs, and its share of the buffer. -/
structure Chan where
  st      : ChSt := .idle          -- STATE (R240)
  ign     : Bool := false          -- IGN
  errStat : Byte := 0              -- ERRSTAT
  retries : Byte := 0              -- RETRIES
  desc    : W32 := 0               -- DMA_CHn_DESC (R241)
  pos     : W64 := 0               -- DMA_CHn_POS
  bytes   : W64 := 0               -- DMA_CHn_BYTES
  errAddr : W64 := 0               -- DMA_CHn_ERRADDR
  words   : List Byte := []        -- the 64 B of the current descriptor (R244)
  thr     : BitVec 2 := 0          -- thread that wrote START (R237, R248)
  evthr   : BitVec 2 := 0          -- EVTHR of the last CTRL word read (R248)
  rd      : Nat := 0               -- bytes asked for so far, in the order of reads
  wr      : Nat := 0               -- destination bytes issued so far
  buf     : Tab Byte := []         -- buffered source bytes by source offset (R237)
  gen     : Nat := 0               -- starts and resumptions so far: packets of an earlier one are not this one's
  ins     : List ChIn := []        -- read packets not yet answered with data
  outs    : List ChOut := []       -- write packets in flight
  row     : Option (Nat × W64) := none  -- the gathered row being read: its number and the address its entry gave (R246)
  groups  : Tab GroupInfo := []    -- groups of compress and expand modes
  half    : Bool := false          -- half record posted (R249)
  tries   : Tab (Nat × Nat) := []  -- retries spent on each failing packet and their limit, by 4 × offset + kind (R242, R250)
  bad     : List (W64 × Nat × Nat) := []  -- failed packets to retry: address, offset, kind (0 read, 1 write, 2 descriptor, 3 gather entry)
deriving DecidableEq, Repr

/-! ## Channels and synchronisation (R283 to R301) -/

/-- The identity a request carries and its reply echoes: core, slot, slot epoch and unit epoch (R431). -/
structure ReqTag where
  core   : CoreId
  slot   : Nat
  epoch  : BitVec 4
  uepoch : Byte
deriving DecidableEq, Repr

/-- A ROUTE claim waiting at a shared ring for free slots: who asks, its record and how many slots (R291). -/
structure RingClaim where
  tag   : ReqTag         -- of the claim, for its answer
  thr   : BitVec 2
  j     : Nat
  slots : Nat
  capN  : Option Nat     -- the ROUTE_CAPn that granted it
deriving DecidableEq, Repr

/-- An inbound ring: RING_CTLn (R284), the binding that holds it, the slots promised and the claims waiting (R291). -/
structure Ring where
  wr       : W16 := 0
  rd       : W16 := 0
  mode     : Bool := false
  size     : BitVec 4 := 0
  base     : BitVec 11 := 0
  err      : Bool := false
  en       : Bool := false
  holder   : Option (CoreId × BitVec 6) := none
  grants   : List RingClaim := []     -- granted claims with the slots still promised to each
  claims   : List RingClaim := []     -- claims waiting for free slots, in arrival order
deriving DecidableEq, Repr

/-- A send binding: CHAN_BINDn (R289). -/
structure Bind where
  en     : Bool := false
  state  : BitVec 3 := 0
  rsn    : BitVec 3 := 0
  ign    : Bool := false
  credit : BitVec 11 := 0
  cntEn  : Bool := false
  acnt   : BitVec 5 := 0
  ring   : BitVec 6 := 0
  target : CoreId := 0
deriving DecidableEq, Repr

/-- A barrier slot at a core: BAR_SLOTs (R295), a THRMASK held for the next phase, and whether the core's arrival
stands on the barrier plane (R296). -/
structure BarSlot where
  phase    : W32 := 0
  member   : Bool := false
  arrived  : BitVec 4 := 0
  mask     : BitVec 4 := 0
  maskNext : Option (BitVec 4) := none
  plane    : Bool := false
deriving DecidableEq, Repr

/-- ROUTE_CAPn (R217). -/
structure RouteCap where
  en      : Bool := false
  mm      : Bool := false
  ring    : BitVec 6 := 0
  limit   : W16 := 0
  used    : W16 := 0
  refused : W16 := 0
deriving DecidableEq, Repr

/-- An entry of a queue port: reserved at issue, its value entered at the write's completion tick (R85). -/
structure QEntry where
  ticket : Nat
  val    : Option W64
deriving DecidableEq, Repr

/-- What an outstanding request of a core is for (R431). -/
inductive SlotKind where
  | load | atomic | store | send | claim (j : Nat) | bindReq (n : BitVec 6) | dmaRead (ch : BitVec 3) (gen off : Nat) | dmaWrite (ch : BitVec 3) (gen off : Nat)
deriving DecidableEq, Repr

/-- A request slot with its 4-bit epoch (R431): closed slots keep their epoch. -/
structure ReqSlot where
  isOpen : Bool
  epoch  : BitVec 4
  kind   : SlotKind
  thr    : BitVec 2
  pc     : W16
  addr   : W64
  ord    : Nat := 0              -- the issue that made the request, by its thread's count (R110)
  unit   : W32                   -- target unit (R424)
  target : Option CoreId         -- target core, for the ordering of R274
  cls    : Nat                   -- traffic class (R252): 0 request, 1 response, 2 channel data, 3 cairn
  cnt    : Option (BitVec 5)     -- counter to raise when a local-side write completes (R230)
  sent   : W64                   -- package time of injection (R426)
deriving DecidableEq, Repr

/-! ## A core -/

/-- Channel, counter and barrier state of a core (R228, R283 to R301, R215). -/
structure Sync where
  acnt     : Tab W64 := []          -- ACNT_VALn: WRAP in [63], VAL in [31:0] (R228)
  rings    : Tab Ring := []         -- R284
  binds    : Tab Bind := []         -- R289
  bars     : Tab BarSlot := []      -- R295
  alignMask : W32 := 0              -- ALIGN_MASK (R301)
  alignBase : BitVec 19 := 0        -- ALIGN_BASE
  alignStat : W64 := 0              -- ALIGN_STAT
  failRings : W64 := 0              -- rings that failed the last realignment (R304)
  failBinds : W64 := 0              -- bindings that failed the last realignment (R304)
  cairnSat : W64 := 0               -- CAIRN_SAT (R280)
  clampCmd : Bool := false          -- a CLAMP bit was set during the command (R281)
  sent     : W64 := 0               -- ROUTE_SENT (R216)
  drop     : W64 := 0               -- ROUTE_DROP with DEFOVF in [63]
  defer    : W64 := 0               -- ROUTE_DEFER
  caps     : Tab RouteCap := []     -- ROUTE_CAPn (R217)
deriving DecidableEq, Repr

/-- The matrix engine of a core (R141 to R188). -/
structure Me where
  tiles  : Tab Tile := []           -- R141
  queue  : List MeOp := []          -- R173
  nextId : Nat := 0
  width  : W64 := 8                 -- MX_WIDTH (R185)
  aovf   : Byte := 0                -- TILE_AOVF (R57)
  parity : Tab Bool := []           -- stored parity bit of tile-file bytes written raw, by offset; of a word that a remap entry serves,
                                    -- its stored check byte, bit by bit (R342, R351, R352, R356)
  cache  : List CacheEnt := []      -- operand cache, least recently used first, at most 8 entries (R177)
  latchA : Option (Nat × Nat) := none  -- A row-block in its reuse latch: tile and block (R178)
  latchB : Option (Nat × Nat) := none  -- B column-block in its reuse latch: tile and n-block (R178)
deriving DecidableEq, Repr

/-- What the threads of a core share (R72), the core's I/O registers (R98) and its router. -/
structure Core where
  place    : Option Nat := none     -- the placement that holds the core (R502)
  altitude : Byte := 0              -- CORE_ID ALTITUDE (R99)
  part     : BitVec 3 := 0          -- CORE_ID PARTITION
  threads  : Tab Thread := []       -- threads 0 to 3
  sh       : Tab W64 := []          -- sh0 to sh15 (R72)
  qcfg     : W32 := 0x11111111      -- CORE_QCFG (R101)
  ports    : Tab (List QEntry) := []  -- q0 to q7 (R72)
  ticket   : Nat := 0               -- next queue-port reservation
  istore   : EccMem := {}           -- instruction store, every byte 0xFF (R72)
  lm       : EccMem := {}           -- local memory (R219)
  ptrS     : BitVec 2 := 0          -- slot priority pointers (R75)
  ptrV     : BitVec 2 := 0
  ptrM     : BitVec 2 := 0
  ptrX     : BitVec 2 := 0
  granted  : List (BitVec 2 × Nat) := []  -- threads granted in the present cycle, each with its slot (R74, R75; log 121)
  me       : Me := {}
  fcq      : List FcOp := []        -- FILL and COPY unit, 4 entries (R226)
  chans    : Tab Chan := []         -- DMA channels 0 to 7 (R237)
  dmaRetry : BitVec 3 := 3          -- DMA_RETRY (R242)
  sync     : Sync := {}
  insts    : Tab Inst := []         -- integrity registers of instances 0 to 3 (R346)
  e2e      : W64 := 0               -- INT_E2E (R347)
  stale    : W64 := 0               -- INT_STALE (R434)
  cycle    : W64 := 0               -- TMR_CYCLE as last written (R528)
  perf     : Tab W64 := []          -- performance counters by I/O address (R188, R282)
  cairnHold : Byte := 8             -- MESH_CFG CAIRN_HOLD (R261)
  dorhal   : Bool := false          -- MESH_CFG ARB
  slots    : Tab ReqSlot := []      -- outstanding requests (R431)
  rotCls   : Tab Nat := []          -- rotating class of each output (R257)
  rotPort  : Tab Nat := []          -- rotating input port of each output and class (R258)
  group    : Tab Nat := []          -- flit slots that one-hop packets (2 × output) and all others (2 × output + 1) have used of their group of four (R259)
  crcFails : Tab Nat := []          -- replays of the flit at the head of each output's link (R266)
  replay   : Tab Nat := []          -- the packet that each output's link has to replay before any other (R265)
deriving DecidableEq, Repr

/-! ## Packets in transit (R252) -/

/-- What a packet does where it arrives. -/
inductive Body where
  | load (tag : ReqTag) (addr : W64) (len : Nat)
  | atomic (tag : ReqTag) (op : Nat) (addr : W64) (val : W64)
  | store (tag : ReqTag) (addr : W64) (bytes : List Byte) (cnt : Option (BitVec 5))
  | reply (tag : ReqTag) (val : W512) (err : Bool)
  | ack (tag : ReqTag) (err : Bool)
  | fenced (tag : ReqTag)
  | msg (tag : ReqTag) (ring : BitVec 6) (isTok : Bool) (code : Byte) (len : Nat) (payload : W512) (cnt : Option (BitVec 5)) (claim : Option (BitVec 2 × Nat))
  | credit (n ring : BitVec 6)
  | bindReq (tag : ReqTag) (n ring : BitVec 6) (altitude : Byte)
  | bindAns (tag : ReqTag) (n : BitVec 6) (rsn : BitVec 3) (credit : BitVec 11)
  | unbind (n ring : BitVec 6)
  | claim (tag : ReqTag) (thr : BitVec 2) (ring : BitVec 6) (j slots : Nat)
  | claimAns (tag : ReqTag) (thr : BitVec 2) (j : Nat) (granted : Bool)
  | unclaim (thr : BitVec 2) (ring : BitVec 6) (j : Nat)
  | cairn (addr : W64) (id contrib : W16) (op : BitVec 2) (f16 sat : Bool) (cnt : BitVec 5) (vals : List (BitVec 40)) (clamped wrapped : Bool)
deriving DecidableEq, Repr

/-- Where a packet is going: a core, a commons slice of a die, an HBM channel of a die (R256). -/
inductive Dest where
  | core (c : CoreId)
  | slice (die : BitVec 3) (s : BitVec 5)
  | hbm (die : BitVec 3) (h : BitVec 6)
  | test (y : BitVec 6)               -- the test tile of a row of CD3 or CD7 (R24, R27)
deriving DecidableEq, Repr

/-- A packet in transit: its class, source and destination, the router that holds it and the input port it came in by,
its flits (R252), and for a cairn packet whether its hold has ended (R277). -/
structure Packet where
  id   : Nat
  cls  : Nat
  src  : CoreId
  dst  : Dest
  at_  : CoreId
  inp  : Port
  body : Body
  free : Bool := true
  after : List (Nat × BitVec 4) := []   -- slots of the sender that must close before it leaves its router (R274)
  out  : Bool := false                  -- in the output buffer of its router, for a cairn packet (R276, R277)
  tile : Bool := false                  -- injected by a memory or an edge tile, not by the router's own core (R259)
  fresh : Bool := false                 -- an error answer that a fresh uncorrectable error caused (R426)
  late : Bool := false                  -- addressed to a core before a spare took its place (R269)
deriving DecidableEq, Repr

/-- A write that a commons slice or HBM controller has accepted and not yet performed (R321). -/
structure QWrite where
  src   : CoreId
  addr  : W64
  bytes : List Byte
deriving DecidableEq, Repr

/-- HBM of the package by home address: the bytes, the written-page bits (R334), poisoned 64 B units, and units whose stored
code was written raw (R342, R352). -/
structure Hbm where
  data   : Tab Byte := []
  pages  : Tab Bool := []
  poison : Tab Bool := []
  raw    : Tab (W512 × BitVec 128) := []
  lost   : Tab Nat := []            -- pages whose bitmap unit was uncorrectable, with the units written so far of a rewriting of the page (R339)
deriving DecidableEq, Repr

/-! ## Configuration blocks and placements (R499, R502) -/

/-- TYPE 1, partition (R499). -/
structure PartCfg where
  dies    : Byte := 0
  plain   : Bool := false
  qps     : W16 := 64
  vectors : W16 := 64
  ir      : List W64 := [0, 0, 0, 0, 0, 0, 0, 0]
deriving DecidableEq, Repr

/-- TYPE 2, contract (R368). -/
structure ContractCfg where
  cls        : Byte := 2
  slots      : W16 := 0xFFFF
  rate       : W32 := 0
  burst      : W32 := 1
  conc       : W32 := 1024
  kvReserve  : W32 := 0
  ttftP50    : W32 := 1000000
  ttftP99    : W32 := 1000000
  itlP99     : W32 := 100000
  itlP999    : W32 := 100000
  maxDefer   : W32 := 1000000
  deferDepth : W16 := 64
deriving DecidableEq, Repr

/-- TYPE 3, slot (R393, R499). -/
structure SlotCfg where
  tpp          : W16 := 16
  poolBase     : W64 := 0
  poolPages    : W32 := 1
  stepBase     : W64 := 0
  stepSize     : W32 := 0x4000000
  maxBatch     : W16 := 256
  maxTokens    : W32 := 8192
  prefillChunk : W32 := 2048
  specDepth    : Byte := 0
  prefixMax    : W16 := 1024
  stepLimit    : W32 := 10000
  placement    : W16 := 0
  alts         : List W16 := [0xFFFF, 0xFFFF, 0xFFFF, 0xFFFF]
  weightBase   : W64 := 0
  weightLen    : W64 := 0
deriving DecidableEq, Repr

/-- TYPE 4, placement (R499). -/
structure PlaceCfg where
  coreList  : W64 := 0
  cores     : W16 := 0
  dorhal    : Bool := false
  cairnHold : Byte := 8
  realignN  : W16 := 1
  cmdLimit  : W32 := 600000
deriving DecidableEq, Repr

/-- The persistent settings (R520): configuration blocks as applied, by 256 × partition + object for contracts and
placements and 16 × partition + object for slots; CAP_W, FMAX, ERR_POLICY and ROTATE_S. -/
structure Settings where
  parts     : Tab PartCfg := []
  contracts : Tab ContractCfg := []
  slots     : Tab SlotCfg := []
  places    : Tab PlaceCfg := []
  cap       : W16 := 1500
  fmax      : Tab W16 := []
  policy    : W64 := 0x3C00203      -- WINDOW_S 60, HARD_N 2, REPLAY_MAX 3 (R448)
  rotateS   : Tab W32 := []
deriving DecidableEq, Repr

/-- A core-list entry (R502). -/
structure CoreEntry where
  core       : CoreId
  altitude   : Byte
  istoreLen  : W32
  preloadLen : W32
  image      : W64
  startPc    : List W16
  w          : Nat := 8             -- W of the core, as the placement tables record it (R183)
deriving DecidableEq, Repr

/-- The command a placement runs: a RUN of a queue pair, or one attempt of a serving step of a slot (R394, R492). -/
structure Command where
  q       : Option QRef
  hostTag : W64
  retried : Bool := false
  step    : Option Nat            -- serving step of this slot (16 × partition + slot)
  began   : W64
  status  : Option Byte := none   -- completion status once decided
  cast    : Bool := false         -- a cast was taken in the command (R302)
  touched : List Byte := []       -- statuses of the faults that touched the attempt (R437)
  arg     : W32 := 0              -- ARG (R492)
deriving DecidableEq, Repr

/-- A cast being written (R302, R303). -/
structure Cast where
  cause   : Nat
  trigC   : Nat := 0xFFFF
  trigT   : Nat := 0xFF
  started : W64
  q       : Option (QRef × W64) := none  -- the CAST command to complete
  parked  : List (CoreId × BitVec 2) := []  -- threads that the cast parked
deriving DecidableEq, Repr

/-- A drain image: what it holds of each core, the number of the save key that sealed it, and where in the save area its sealed bytes were written
(R307). -/
structure DrainImage where
  cores : Tab Core
  key   : Nat
  at_   : W64
  bytes : List Byte
deriving DecidableEq, Repr

/-- A placement (R298 to R308, R492 to R494, R502). -/
structure Place where
  cores     : List CoreEntry := []
  cfg       : PlaceCfg := {}
  area      : W64 := 0            -- cast area (R303)
  seq       : W32 := 0            -- casts since creation
  later     : W32 := 0            -- further triggers in the command
  cast      : Option Cast := none
  running   : Option Command := none
  waiting   : List Command := []  -- commands sent while one runs
  sinceAlign : W16 := 0           -- commands since the last realignment (R298)

  drained   : Bool := false       -- R307
  draining  : Bool := false
  drainedThr : List (CoreId × BitVec 2) := []  -- threads that the drain parked (R307)
  drainedCh : List (CoreId × Nat) := []        -- channels that the drain stopped
  image     : Option DrainImage := none  -- R307, R308
  failed    : Bool := false       -- replays exhausted or capacity lost (R444)
  loading   : Bool := false       -- a spare of the placement is being zeroed and loaded (R442)
deriving DecidableEq, Repr

/-! ## Requests, contracts, slots and steps -/

/-- Request states, with codes 0 to 9 in this order (R366). -/
inductive RqSt where
  | free | admitted | prefill | decode | spec | paused | draining | done | cancelled | failed
deriving DecidableEq, Repr

/-- A request context (R364), with the scheduler's private fields. -/
structure Ctx where
  gen       : BitVec 11 := 0
  st        : RqSt := .free
  status    : Byte := 0
  reason    : Byte := 0
  cause     : Byte := 0
  contract  : Byte := 0
  slot      : Byte := 0
  part      : BitVec 3 := 0
  q         : QRef := ⟨⟨0, 0⟩, 0⟩
  resume    : RqSt := .free
  prior     : Option (Byte × RqSt) := none  -- pause cause and RESUME that a suspension stands over (R366)
  sealedRq  : Bool := false       -- FLAGS [0]
  specOk    : Bool := false       -- FLAGS [1]
  cancelRx  : Bool := false       -- FLAGS [2]
  replayed  : Bool := false       -- FLAGS [3]
  publish   : Bool := false
  prefixKey : W64 := 0
  promptLen : W32 := 0
  maxNew    : W32 := 0
  emitted   : W32 := 0
  deferPos  : W32 := 0
  tArrive   : W64 := 0
  tDispatch : W64 := 0
  tFirst    : W64 := 0
  tLast     : W64 := 0
  tEst      : W64 := 0
  hostTag   : W64 := 0
  pages     : List Nat := []      -- page list
  pos       : W32 := 0            -- input processed into KV; TAIL (R409)
  pending   : W32 := 0
  tokens    : List W32 := []      -- prompt
  history   : List W32 := []      -- emitted tokens, for the input stream of R397
  sample    : List Byte := []
  outAddr   : W64 := 0
  outLen    : W32 := 0
  outOff    : W32 := 0            -- offset of the next output chunk (R491)
  keyId     : Byte := 0           -- SEAL: key that opened the envelope (R476)
  secret    : List Byte := []     -- SEAL: output secret E (R474)
  salt      : List Byte := []     -- drawn at opening (R474)
  chunkNext : W32 := 0            -- SEAL NEXT
  chunks    : W32 := 0            -- SEAL CHUNKS
  unsealed  : List (List W32) := []  -- committed tokens not yet written, one list for each commit (R415, R475)
  short     : Nat := 0            -- refusal reason of the resource that a deferred request waits for (R376)
  inStep    : Bool := false       -- written into a step descriptor (R384)
deriving DecidableEq, Repr

/-- The live state of a contract (R369, R370, R376, R387). -/
structure Contract where
  bucket   : Int := 0
  started  : Bool := false        -- the bucket has been set to BURST
  defers   : List Nat := []       -- defer queue, head first
  counters : Tab W64 := []        -- SCH_ADMIT .. SCH_DEMOTED by offset (R387)
  done_    : List W64 := []       -- times of the contract's last request completions (R376)
  refills  : List W64 := []       -- times of the bucket's last refills (R376)
deriving DecidableEq, Repr

/-- A histogram of one metric of a contract (R418, R419). -/
structure Hist where
  bins   : Tab W64 := []
  missLo : W32 := 0
  missHi : W32 := 0
deriving DecidableEq, Repr

/-- An entry of a slot's prefix table (R412, R413). -/
structure PrefixEnt where
  key      : W64
  contract : Byte
  count    : Nat
  hash     : List Byte
  pages    : List Nat
  hit      : Nat              -- order of the last hit
deriving DecidableEq, Repr

/-- An entry of a step (R401). -/
structure StepEnt where
  ctx     : Nat
  handle  : W32
  kind    : Nat
  depth   : Nat
  pos     : Nat
  nIn     : Nat
  seed    : W64
deriving DecidableEq, Repr

/-- The step in flight of a slot (R394, R400). -/
structure Step where
  attempt  : W32 := 0
  fails    : Nat := 0             -- attempts failed in a row (R436)
  entries  : List StepEnt := []
  outOff   : Nat := 0
  inEnts   : List Byte := []      -- the Plinth's copy of the input part: entries (R407)
  inParts  : List Byte := []      -- and what stands behind the output records
  limit    : W32 := 10000         -- STEP_LIMIT when the step was formed (R393, R395)
  dispatch : W64 := 0
  result   : Option Byte := none  -- status of the attempt, once it has completed
  ended    : W64 := 0
deriving DecidableEq, Repr

/-- A model slot (R372, R393, R423, R466). -/
structure Slot where
  ready    : Bool := false
  loaded   : Nat := 0              -- weight bytes loaded so far (R493)
  weights  : Option (List Byte) := none
  programs : Option (List Byte) := none
  wbytes   : List Byte := []       -- bytes of the partial load, for WEIGHTS
  loadSeq  : W64 := 0
  place    : Option Nat := none
  refs     : Tab Nat := []         -- requests that hold each page (R413)
  prefixes : List PrefixEnt := []
  prefixMax : Nat := 0             -- PREFIX_MAX since the last batch formation (R393, R412)
  hits     : Nat := 0
  sealQ    : List Nat := []        -- requests with output for the crypto engine, one for each commit, in entry order (R415)
  step     : Option Step := none
  stepSeq  : W64 := 0              -- SCH_STEPSEQ (R423)
  replay   : W64 := 0              -- SCH_REPLAY
  badrec   : W64 := 0              -- SCH_BADREC
  draft    : W64 := 0              -- SCH_DRAFT
  accept   : W64 := 0              -- SCH_ACCEPT
  stepNs   : W64 := 0              -- SCH_STEPNS
  rels     : List W64 := []        -- times of the slot's last request completions (R376)
  lostAt   : Option W64 := none    -- when the slot lost its placement (R445)
deriving DecidableEq, Repr

/-- A snowline (R389 to R392). -/
structure Snow where
  cfg     : W64 := 0
  armed   : Bool := false
  live    : Bool := false
  count   : Byte := 0
  crossed : Bool := false
deriving DecidableEq, Repr

/-- The histogram readout (R421, R422). -/
structure Meas where
  busy     : Bool := false
  clear    : Bool := false
  metric   : BitVec 2 := 0
  contract : Byte := 0
  pending  : Hist := {}
  p50      : W64 := 0
  p90      : W64 := 0
  p99      : W64 := 0
  p999     : W64 := 0
  cnt      : W64 := 0
  snap     : Hist := {}
deriving DecidableEq, Repr

/-- TDISP states (R462). -/
inductive TdiSt where
  | configUnlocked | configLocked | run | error
deriving DecidableEq, Repr

/-- A partition that exists (R459): its keys by number (no key is readable), seal keys, replay set, TDI and held output. -/
structure Part where
  memKey   : Nat := 0
  saveKey  : Nat := 0
  curId    : Byte := 1             -- SEC_HPKE CUR_ID (R468)
  prevId   : Byte := 0             -- PREV_ID
  curKey   : Nat := 0
  prevKey  : Nat := 0
  rotated  : W64 := 0              -- package time of the last rotation
  sealFail : W64 := 0              -- SEC_SEAL_FAIL (R473)
  replay   : W64 := 0              -- SEC_REPLAY
  seen     : List (List Byte) := []  -- hashes of the ENC of envelopes opened, latest first (R472)
  multi    : Bool := false         -- MULTI_MATCH (R332)
  sealedAt : List (Nat × Nat) := [] -- step areas that have held plaintext of a sealed request: address and bytes (R30)
  tdi      : TdiSt := .configUnlocked
  suspended : Bool := false        -- R463
  heldOut  : List Nat := []        -- requests whose sealed output is held, one for each chunk (R463)
  snows    : Tab Snow := []
  meas     : Meas := {}
deriving DecidableEq, Repr

/-! ## Host side -/

/-- A completion entry (R496). -/
structure Completion where
  handle  : W32
  status  : Byte
  reason  : Byte
  kind    : Byte
  phase   : Bool
  hostTag : W64
  sqHead  : W16
  info1   : W32
  info2   : W64
deriving DecidableEq, Repr

/-- A queue pair (R484 to R488, R495, R498). -/
structure Qp where
  sqAddr  : W64 := 0
  cqAddr  : W64 := 0
  sqSize  : Nat := 2               -- entries
  cqSize  : Nat := 2
  sqHead  : Nat := 0
  sqTail  : Nat := 0
  cqHead  : Nat := 0
  cqTail  : Nat := 0
  phase   : Bool := true           -- 1 in the first pass (R485)
  held    : List Completion := []  -- notices held while the ring is full (R488)
  vector  : W16 := 0xFFFF
  count   : Byte := 0              -- coalescing count
  timeUs  : Byte := 0
  unsig   : Nat := 0               -- entries posted since the last message
  since   : Option W64 := none     -- package time of the first entry not yet signalled
deriving DecidableEq, Repr

/-- The per-function registers (R482) and the bound IDE stream (R462). -/
structure Fn where
  winBase : W64 := 0
  winErr  : W64 := 0
  dbErr   : W64 := 0
  aqSq    : W64 := 0
  aqCq    : W64 := 0
  aqSqs   : W16 := 0
  aqCqs   : W16 := 0
  aqEn    : Bool := false
  stream  : Option Byte := none    -- IDE stream with keys programmed
  tlpErr  : W64 := 0               -- TLPs dropped (R462)
  tlpOk   : W64 := 0               -- TLPs accepted
deriving DecidableEq, Repr

/-- What the part sends out: MSI-X messages, management events, answers to requests, BAR4 read data. -/
inductive Out where
  | msix (fn : FnRef) (vec : W16)
  | event (kind : Nat) (arg : W64)
  | reply (dest : Requester) (bytes : List Byte)
  | readData (fn : FnRef) (bytes : List Byte)
  | mctp (bytes : List Byte)
deriving DecidableEq, Repr

/-! ## Faults, security, power -/

/-- A unit of R424: its two states (R425), unit epoch (R431), fault count and times, and the operations under way on it. -/
structure Unit where
  dpath    : BitVec 4 := 0
  mgmt     : BitVec 4 := 0
  uepoch   : Byte := 0
  fcount   : W16 := 0
  times    : List W64 := []        -- package times of its faults, latest first (R435)
  disputed : Bool := false
  setTo    : Option (BitVec 4) := none  -- state of a SET that waits for drains: ERR_UNIT_STAT BUSY (R448, R449)
  recovering : Bool := false       -- a recovery of R436 is in progress
  hard     : Bool := false         -- its fault is hard whatever its self-test says (R435)
  testing  : Bool := false         -- built-in self-test running
  records  : List Nat := []        -- its pending fault records
deriving DecidableEq, Repr

/-- A fault record (R447). -/
structure FRec where
  time   : W64
  cls    : Byte
  code   : Byte
  action : Byte
  part   : Byte
  unit   : W32
  phys   : W32
  slot   : W16
  attempt : W16
  detail : W64
deriving DecidableEq, Repr

/-- The ERR_ block and the Plinth's own health (R439 to R441, R448). -/
structure Err where
  units    : Tab Unit := []
  log      : List FRec := []         -- ring of 4,096 records, oldest first (R447)
  flogWr   : W32 := 0                -- ERR_FLOG_WR
  vec      : W16 := 0                -- ERR_VEC
  stale    : W64 := 0                -- ERR_STALE
  unitSel  : W32 := 0                -- ERR_UNIT_SEL
  memSel   : BitVec 9 := 0           -- ERR_MEM_SEL (R503)
  lcf      : Byte := 0               -- ERR_SAFETY LCF
  degraded : Bool := false           -- ERR_SAFETY MODE
  ctlRestart : Bool := false         -- twin controllers restarting (R439)
  ctlStopped : Bool := false         -- a second mismatch within 1 s
  lastMismatch : Option W64 := none
  schReload : Bool := false          -- scheduler hardware reloading (R440)
  heldCmds : List Instr := []        -- host and management commands held in the restart (R439)
  heldSch  : List Instr := []        -- serving commands held while the scheduler hardware reloads (R440)
  epochBase : Byte := 0              -- what resets have added to every UEPOCH (R432)
  latest   : Tab W64 := []           -- time of each checker's last passing test (R441)
  deadIdx  : Tab Bool := []          -- dies whose contexts admission refuses (R446)
  reports  : List FaultRep := []     -- faults detected whose report has not reached the Plinth (R427, R428)
deriving DecidableEq, Repr

/-- Security state (R451 to R476). -/
structure Sec where
  lifecycle : BitVec 2 := 0          -- fused (R458)
  debug     : Bool := false
  recovery  : Bool := false
  entropyBad : Option W64 := none    -- when the health test began to fail (R461)
  heldDraw  : List Instr := []       -- commands whose DRBG draw waits (R461)
  svn       : Byte := 0              -- fused SVN of the firmware class (R454)
  runSvn    : W64 := 0               -- SVN of the running image
  revoked   : BitVec 4 := 0          -- revocation fuses (R453)
  flash     : List FwImage := []     -- copies A and B (R455)
  running   : List Byte := []        -- measurement of the running firmware (R465)
  staged    : Option FwImage := none -- image written by PLDM and not yet activated (R506)
  activated : Bool := false          -- an update takes effect at the next reset (R506)
  udsLock   : Bool := false          -- R451
  alias_    : List Byte := []        -- inputs of the Alias keys (R451)
  certs     : Bool := false          -- DeviceID certificates in MRAM (R452)
  nonce     : List Byte := []        -- last debug nonce issued (R457)
  used      : List (List Byte) := [] -- debug tokens used (R457)
  nextKey   : Nat := 8               -- next key number; 0 to 7 are the device keys of the dies (R340)
  sessions  : List Requester := []   -- SPDM sessions established (R464)
  opening   : List Requester := []   -- KEY_EXCHANGE answered, FINISH awaited
  meas      : List (Requester × List Byte) := []  -- preceding MEASUREMENTS responses (R464)
  testInert : Bool := false          -- test tiles inert (R27)
deriving DecidableEq, Repr

/-- Power, clock and telemetry registers (R507, R517, R530 to R533). -/
structure Pwr where
  plim     : W16 := 1500             -- PWR_LIMIT PLIM
  absent   : Bool := false           -- CAUSE bits
  corrupt  : Bool := false
  coolant  : Bool := false
  curlim   : Bool := false           -- PWR_STAT
  floor    : Bool := false
  capped   : Bool := false
  overN     : Nat := 0
  stretched : Bool := false          -- a stretch since the last evaluation
  stretch  : Bool := false           -- the stretch is in force
  freq     : Tab W16 := []           -- FCUR of each die, 2,000 when not listed
  target   : Tab W16 := []           -- frequency a die's PLL is to switch to
  tjHot    : Bool := false           -- some die at or above 105 °C
  tel      : Telemetry := ⟨0, 0, [], [], 0, [], 0, 0, 0⟩
  bootEnd  : Option W64 := none      -- MGT_UPTIME starts (R514)
  uptime   : W64 := 0                -- MGT_UPTIME as last refreshed (R507)
  tInletMax : W16 := 320             -- limits in force for the coolant (R544)
  flowMin  : W32 := 4000
  outSince : Option W64 := none      -- coolant out of range since
  inSince  : Option W64 := none      -- coolant back in range since
  thermtrip : Bool := false          -- THERMTRIP# asserted
deriving DecidableEq, Repr

/-- MRAM and MGT_NVCTL (R519 to R523). -/
structure Nv where
  copyA   : Option (Settings × W32) := none
  copyB   : Option (Settings × W32) := none
  lastB   : Bool := false            -- copy B is the one last committed
  snap    : Option Settings := none  -- snapshot being written
  snapRep : Tab Nat := []
  snapTrain : Bool := false
  repair  : Tab Nat := []            -- repair map in MRAM: keys of spared locations (R354, R358)
  busy    : Bool := false
  limit   : Bool := false
  fail    : Bool := false
  bootdef : Bool := false
  stores  : List W64 := []           -- accepted STOREs in the window (R522)
  seq     : W32 := 0
  training : Bool := false           -- committed HBM training parameters (R519)
  trainNew : Bool := false           -- training parameters of this boot, not yet stored
deriving DecidableEq, Repr

/-- Where the part stands between power-off and service (R508 to R515). -/
inductive Phase where
  | noPower | held | boot | ready | stopped
deriving DecidableEq, Repr

/-- A clear or zeroing that the controllers have still to apply (R337). -/
structure ZeroJob where
  id      : Nat
  q       : QRef
  hostTag : W64
  status  : Byte := 0
  info2   : W64 := 0
deriving DecidableEq, Repr

/-- The whole state. -/
structure State where
  pending   : List Instr := []        -- commands waiting, first in, first out (the model's own)
  freeCtr   : Nat := 0                -- draws of free values so far (the model's own)
  pktCtr    : Nat := 0                -- packets injected so far (the model's own)
  part384   : Bool := false           -- part number LYS-8H384-B0 (R1)
  phase     : Phase := .boot
  stage     : Nat := 0                -- boot stages completed (R514)
  warm      : Bool := false           -- the boot in progress is a warm one (R515)
  aon       : Bool := true            -- VDD_AON applied (R526)
  time      : W64 := 0                -- package time in ns (R526)
  cores     : Tab Core := []
  net       : List Packet := []       -- packets in transit, in injection order
  commons   : Tab EccMem := []        -- commons slices, 32 × die + slice, by offset in the slice (R233)
  sliceInst : Tab Inst := []          -- integrity registers of commons slices, 32 × die + slice
  hbm       : Hbm := {}
  hbmInst   : Tab Inst := []          -- integrity registers of HBM channels (R503)
  writeQ    : Tab (List QWrite) := [] -- accepted writes: slices 32 × die + s, HBM 256 + 64 × die + h (R321)
  set       : Settings := {}          -- configuration as applied (R500, R520)
  parts     : Tab Part := []          -- partitions that exist
  places    : Tab Place := []         -- placements that exist, 256 × partition + number
  slots     : Tab Slot := []          -- model slots, 16 × partition + number
  ctrEff    : Tab ContractCfg := []   -- contract fields in force since the last admission pass, 256 × partition + number (R371)
  contracts : Tab Contract := []      -- 256 × partition + number
  ctxs      : Tab Ctx := []           -- request table (R362)
  hists     : Tab Hist := []          -- 4 × (256 × partition + contract) + metric
  zeroJobs  : List ZeroJob := []
  jobCtr    : Nat := 0
  fns       : Tab Fn := []            -- functions, 16 × port + fn
  qps       : Tab Qp := []            -- queue pairs, 4096 × (16 × port + fn) + q
  hostMem   : Tab Byte := []          -- host memory as the part has written it
  out       : List Out := []          -- what the part has sent, latest first
  err       : Err := {}
  sec       : Sec := {}
  pwr       : Pwr := {}
  nv        : Nv := {}
  spares    : Tab Nat := []           -- core_id of the core that each segment's spare was switched in for: 64 × die + 2 × row + segment (R267)
  bypass    : Tab Byte := []          -- BYPASS of physical positions from the fuse and repair maps, 2048 × die + 64 × row + position (R182)
  fuseSpares : Tab Nat := []          -- spares that the fuse map has used at manufacture, as `spares` (R269)
  fuseCells : Tab Nat := []           -- failing memory locations of the fuse map, by instance and offset (R354)
  cells     : Tab Nat := []           -- locations that spare rows and columns have stood in for since power-up (R354)
  links     : Tab Nat := []           -- spare links used by each bridge edge: 2 × die + (0 east, 1 south) (R266)
  linkHold  : Tab Bool := []          -- links on which traffic is held (R266, R269)
  i3cAddr   : Option (BitVec 7) := none  -- dynamic management address (R504)
  smbus     : Bool := false           -- fallen back to SMBus (R504)
  eid       : Byte := 0               -- MCTP endpoint ID (R504)
  perst     : BitVec 2 := 0           -- PERST# deasserted per port (R480)
deriving DecidableEq, Repr

/-- The part right after PWRGOOD has been asserted with no boot stage completed: every field at its reset value. -/
def State.reset : State := {}

end Sys2Proof.Machine
end

