-- ==== Sys2Proof/Machine/Tab.lean ====
section
/-! DEFINITION. The operations on finite tables (`Tab`): one sorted list form for memories, register files and tables of objects.
A memory keeps no entry equal to what an unlisted address reads as, so equal memories are equal lists. -/

namespace Sys2Proof.Machine

/-- The entry of key `k`, if listed. -/
def tabLook {α : Type} : Tab α → Nat → Option α
  | [], _ => none
  | (k', v) :: r, k => if k' = k then some v else tabLook r k

/-- The value of key `k`, `d` when it is not listed. -/
def tabGet {α : Type} (d : α) (t : Tab α) (k : Nat) : α := (tabLook t k).getD d

/-- Put `v` at key `k`, keeping the keys strictly rising. -/
def tabPut {α : Type} : Tab α → Nat → α → Tab α
  | [], k, v => [(k, v)]
  | (k', v') :: r, k, v =>
    if k < k' then (k, v) :: (k', v') :: r
    else if k = k' then (k, v) :: r
    else (k', v') :: tabPut r k v

/-- Remove key `k`. -/
def tabDel {α : Type} : Tab α → Nat → Tab α
  | [], _ => []
  | (k', v') :: r, k => if k' = k then r else (k', v') :: tabDel r k

/-- Write `v` at key `k` of a table whose unlisted keys read `d`: a default value is not listed. -/
def tabSet {α : Type} [DecidableEq α] (d : α) (t : Tab α) (k : Nat) (v : α) : Tab α :=
  if v = d then tabDel t k else tabPut t k v

/-- Every listed key is at least `lo`, and the keys rise strictly. -/
def tabRising {α : Type} : Nat → Tab α → Bool
  | _, [] => true
  | lo, (k, _) :: r => decide (lo ≤ k) && tabRising (k + 1) r

/-- The canonical form of a memory whose unlisted addresses read `d`: rising keys, no entry equal to `d`. -/
def tabWf {α : Type} [DecidableEq α] (d : α) (t : Tab α) : Bool := tabRising 0 t && t.all (fun e => decide (e.2 ≠ d))

/-- Write consecutive bytes from address `a`. -/
def putBytes (d : Byte) : Tab Byte → Nat → List Byte → Tab Byte
  | m, _, [] => m
  | m, a, b :: bs => putBytes d (tabSet d m a b) (a + 1) bs

/-- Read `n` consecutive bytes from address `a`. -/
def getBytes (d : Byte) (m : Tab Byte) (a : Nat) : Nat → List Byte
  | 0 => []
  | n + 1 => tabGet d m a :: getBytes d m (a + 1) n

/-- Drop every key in `[lo, hi)`. -/
def tabClear {α : Type} (lo hi : Nat) (t : Tab α) : Tab α := t.filter (fun e => decide (e.1 < lo) || decide (hi ≤ e.1))

/-- The number that bytes hold, least significant first (R9). -/
def leNat : List Byte → Nat
  | [] => 0
  | b :: bs => b.toNat + 256 * leNat bs

/-- The `n` bytes of a number, least significant first (R9). -/
def leBytes : Nat → Nat → List Byte
  | 0, _ => []
  | n + 1, x => BitVec.ofNat 8 x :: leBytes n (x / 256)

/-- Insert into a list sorted by `le`, before the first element that is not smaller. -/
def insertBy {α : Type} (le : α → α → Bool) (x : α) : List α → List α
  | [] => [x]
  | y :: r => if le x y then x :: y :: r else y :: insertBy le x r

/-- Sort a list by `le`. -/
def sortBy {α : Type} (le : α → α → Bool) : List α → List α
  | [] => []
  | x :: r => insertBy le x (sortBy le r)

/-- Lexicographic order of keys. -/
def lexLe : List Nat → List Nat → Bool
  | [], _ => true
  | _ :: _, [] => false
  | a :: r, b :: q => decide (a < b) || (a == b && lexLe r q)

/-- Replace the `i`-th element of a list. -/
def listSet {α : Type} : List α → Nat → α → List α
  | [], _, _ => []
  | _ :: r, 0, v => v :: r
  | x :: r, n + 1, v => x :: listSet r n v

/-- A flag at a bit place. -/
def flagAt (b : Bool) (n : Nat) : Nat := if b then 2 ^ n else 0

end Sys2Proof.Machine
end

