-- ==== Sys2Proof/Machine/Ecc.lean ====
section
/-! DEFINITION. Memories under SEC-DED and their integrity registers (R219, R342 to R357): reading a word, writing it, poison, counts, logs
and remap entries, decided once for local memory, the instruction store and the commons. -/

namespace Sys2Proof.Machine

/-- What a read of a coded word finds (R342, R343). -/
inductive WordRead where
  | ok (d : W64)
  | corr (d : W64) (bit : Nat)   -- corrected; the bit as INT_LOGn numbers it (R349)
  | bad                          -- a fresh uncorrectable error
  | poisoned
deriving DecidableEq, Repr

/-- The stored pattern of a poisoned word: data (R343). -/
def poisonData : W64 := 0xFFFFFFFFFFFFFFFF

/-- The first single-bit change of data among bits `n - 1` down to 0 that makes the check byte agree. -/
def findFlip (d : W64) (c : Byte) : Nat → Option Nat
  | 0 => none
  | n + 1 =>
    match findFlip d c n with
    | some b => some b
    | none => if Config.secded (d ^^^ (1 <<< n)) = c then some n else none

/-- Decode a stored word and its check byte: single errors are corrected, others detected (R342). -/
def secDecode (d : W64) (c : Byte) : WordRead :=
  if d = poisonData ∧ c = 0 then .poisoned
  else if Config.secded d = c then .ok d
  else
    match findFlip d c 64 with
    | some b => .corr (d ^^^ (1 <<< b)) b
    | none =>
      match (List.range 8).find? (fun k => Config.secded d = c ^^^ (1 <<< k)) with
      | some k => .corr d (64 + k)
      | none => .bad

/-- The 8 B of word `w` as stored. -/
def eccData (dflt : Byte) (m : EccMem) (w : Nat) : W64 := BitVec.ofNat 64 (leNat (getBytes dflt m.data (8 * w) 8))

/-- Read word `w` through its code. -/
def eccRead (dflt : Byte) (m : EccMem) (w : Nat) : WordRead :=
  match tabLook m.chk w with
  | none => .ok (eccData dflt m w)
  | some c => secDecode (eccData dflt m w) c

/-- Write a whole word with its code: its poison is cleared (R343). -/
def eccWrite (dflt : Byte) (m : EccMem) (w : Nat) (d : W64) : EccMem :=
  { data := putBytes dflt m.data (8 * w) (leBytes 8 d.toNat), chk := tabDel m.chk w }

/-- Store data and check byte unchanged (WRITE_RAW, R352). -/
def eccRaw (dflt : Byte) (m : EccMem) (w : Nat) (d : W64) (c : Byte) : EccMem :=
  { data := putBytes dflt m.data (8 * w) (leBytes 8 d.toNat), chk := tabPut m.chk w c }

/-- Poison word `w` (R343). -/
def eccPoison (dflt : Byte) (m : EccMem) (w : Nat) : EccMem := eccRaw dflt m w poisonData 0

/-- Saturating increment of a 16-bit count (R348). -/
def satInc (x : W16) : W16 := if x = 0xFFFF then x else x + 1

/-- Count and log a correctable error at byte offset `a` (R348, R349). -/
def instCorr (i : Inst) (a bit : Nat) : Inst :=
  let i := { i with ce := satInc i.ce }
  if i.log.any (fun e => e.2 = a) then i
  else if i.log.length < 8 then { i with log := i.log ++ [(bit, a)] }
  else { i with logovf := true }

/-- Count a fresh uncorrectable error at byte offset `a` and record its address (R344, R350). -/
def instUe (i : Inst) (a : Nat) : Inst := { i with ue := satInc i.ue, ueV := true, ueAddr := BitVec.ofNat 48 a }

/-- The valid remap entries that match byte offset `a`, lowest number first (R357). -/
def remapHits (i : Inst) (a : Nat) : List Nat :=
  (List.range 8).filter (fun n => let r := tabGet ({} : Remap) i.remap n; r.v && r.addr.toNat / 8 = a / 8)

/-- Set INT_RSTAT for every higher entry that also matched (R357). -/
def instMulti (i : Inst) (hits : List Nat) : Inst :=
  { i with rstat := hits.tail.foldl (fun x n => x ||| (1 <<< n)) i.rstat }

/-- Word number at which a memory holds remap entry 0's own storage: past every word of the largest memory (R356). -/
def remapWord : Nat := 0x1000000

/-- Where word `w` is stored: in the lowest valid entry that matches it, or at its own place (R356, R357). -/
def wordSlot (i : Inst) (w : Nat) : Nat :=
  match remapHits i (8 * w) with
  | n :: _ => remapWord + n
  | [] => w

/-- An access to word `w`: INT_RSTAT shows the entries that matched besides the one that serves it (R357). -/
def instHit (i : Inst) (w : Nat) : Inst := instMulti i (remapHits i (8 * w))

/-- A word read as a requester makes it: served by a remap entry when one matches, counted and logged, a fresh uncorrectable word
poisoned, a corrected value left for write-back (R342 to R350, R356). -/
def memRead (dflt : Byte) (m : EccMem) (i : Inst) (w : Nat) : WordRead × EccMem × Inst :=
  let i := instHit i w
  match eccRead dflt m (wordSlot i w) with
  | .ok d => (.ok d, m, i)
  | .corr d b => (.corr d b, m, { instCorr i (8 * w) b with wb := tabPut i.wb w d })
  | .bad => (.bad, eccPoison dflt m (wordSlot i w), instUe i (8 * w))
  | .poisoned => (.poisoned, m, { i with prd := satInc i.prd })

/-- A whole-word write as a requester makes it: it cancels a pending write-back of the word (R342, R356). -/
def memWrite (dflt : Byte) (m : EccMem) (i : Inst) (w : Nat) (d : W64) : EccMem × Inst :=
  (eccWrite dflt m (wordSlot i w) d, { instHit i w with wb := tabDel i.wb w })

/-- Poison a word as an engine writes it (R227, R278). -/
def memPoison (dflt : Byte) (m : EccMem) (i : Inst) (w : Nat) : EccMem × Inst :=
  (eccPoison dflt m (wordSlot i w), { instHit i w with wb := tabDel i.wb w })

/-- Copy a word as stored, with its check byte. -/
def copyWord (dflt : Byte) (m : EccMem) (src dst : Nat) : EccMem :=
  match tabLook m.chk src with
  | some c => eccRaw dflt m dst (eccData dflt m src) c
  | none => eccWrite dflt m dst (eccData dflt m src)

/-- A memory with what its remap entries hold in the places they serve, the lowest entry's above the others' (R356, R357). -/
def gatherWords (dflt : Byte) (m : EccMem) (i : Inst) : EccMem :=
  (List.range 8).reverse.foldl (fun m n =>
    let r := tabGet ({} : Remap) i.remap n
    if r.v then copyWord dflt m (remapWord + n) (r.addr.toNat / 8) else m) m

/-- A memory whose remap entries hold what stands in the places they serve. -/
def spreadWords (dflt : Byte) (m : EccMem) (i : Inst) : EccMem :=
  (List.range 8).foldl (fun m n =>
    let r := tabGet ({} : Remap) i.remap n
    if r.v then copyWord dflt m (r.addr.toNat / 8) (remapWord + n) else m) m

/-- An instance whose memory has been written whole: no write-back waits (R342). -/
def filledInst (i : Inst) : Inst := { i with wb := [] }

/-- Replace bytes `[lo, lo + bs.length)` of a word (R222). -/
def mergeWord (old : W64) (lo : Nat) (bs : List Byte) : W64 :=
  BitVec.ofNat 64 (leNat ((leBytes 8 old.toNat).take lo ++ bs ++ (leBytes 8 old.toNat).drop (lo + bs.length)))

/-- Read the words `w, w + 1, …` of a range: their data (a word that cannot be read as 0), and the word number of each word
that cannot be read, with whether the error is fresh. -/
def readWords (dflt : Byte) : EccMem → Inst → Nat → Nat → List W64 × List (Nat × Bool) × EccMem × Inst
  | m, i, _, 0 => ([], [], m, i)
  | m, i, w, n + 1 =>
    let (r, m, i) := memRead dflt m i w
    let (ds, bads, m, i) := readWords dflt m i (w + 1) n
    match r with
    | .ok d => (d :: ds, bads, m, i)
    | .corr d _ => (d :: ds, bads, m, i)
    | .bad => (0 :: ds, (w, true) :: bads, m, i)
    | .poisoned => (0 :: ds, (w, false) :: bads, m, i)

/-- Read `len` bytes from byte address `a`: the bytes, and the words that cannot be read. -/
def readBytes (dflt : Byte) (m : EccMem) (i : Inst) (a len : Nat) : List Byte × List (Nat × Bool) × EccMem × Inst :=
  let w := a / 8
  let n := if len = 0 then 0 else (a + len - 1) / 8 + 1 - w
  let (ds, bads, m, i) := readWords dflt m i w n
  (((ds.flatMap (fun d => leBytes 8 d.toNat)).drop (a % 8)).take len, bads, m, i)

/-- Write bytes from byte address `a`, word by word: whole words are written, partial words merge, and a word that cannot be
read for its merge is not written and is reported (R222). `fuel` bounds the words touched. -/
def writeBytesAux (dflt : Byte) : Nat → EccMem → Inst → Nat → List Byte → List (Nat × Bool) × EccMem × Inst
  | 0, m, i, _, _ => ([], m, i)
  | fuel + 1, m, i, a, bs =>
    if bs.isEmpty then ([], m, i)
    else
      let lo := a % 8
      let part := bs.take (8 - lo)
      let rest := bs.drop (8 - lo)
      let w := a / 8
      if lo = 0 ∧ part.length = 8 then
        let (m, i) := memWrite dflt m i w (BitVec.ofNat 64 (leNat part))
        writeBytesAux dflt fuel m i (8 * (w + 1)) rest
      else
        let (r, m, i) := memRead dflt m i w
        match r with
        | .ok d =>
          let (m, i) := memWrite dflt m i w (mergeWord d lo part)
          writeBytesAux dflt fuel m i (8 * (w + 1)) rest
        | .corr d _ =>
          let (m, i) := memWrite dflt m i w (mergeWord d lo part)
          writeBytesAux dflt fuel m i (8 * (w + 1)) rest
        | .bad =>
          let (bads, m, i) := writeBytesAux dflt fuel m i (8 * (w + 1)) rest
          ((w, true) :: bads, m, i)
        | .poisoned =>
          let (bads, m, i) := writeBytesAux dflt fuel m i (8 * (w + 1)) rest
          ((w, false) :: bads, m, i)

/-- Write bytes from byte address `a`. -/
def writeBytes (dflt : Byte) (m : EccMem) (i : Inst) (a : Nat) (bs : List Byte) : List (Nat × Bool) × EccMem × Inst :=
  writeBytesAux dflt (bs.length + 1) m i a bs

end Sys2Proof.Machine
end

