-- ==== Sys2Proof/Machine/Flags.lean ====
section
/-! DEFINITION. Rounding, saturation, overflow flags and the random generators of fraction arithmetic (R31 to R69): every computation of
a flag (SOVF, VOVF, TILE_AOVF, SATURATED) rests on `satWrap`. -/

namespace Sys2Proof.Machine

/-- A generator state of zero is replaced by this constant (R51). -/
def rngFix (x : W64) : W64 := if x = 0 then 0x9E3779B97F4A7C15 else x

/-- One draw: the new state and its 16-bit value u (R49). -/
def rngDraw (x : W64) : W64 × Nat :=
  let x := x ^^^ (x <<< 13)
  let x := x ^^^ (x >>> 7)
  let x := x ^^^ (x <<< 17)
  (x, bits x 63 48)

/-- The amount RSR adds before it drops `d` bits (R48). -/
def rsrAdd (u d : Nat) : Nat := if d ≤ 16 then u / 2 ^ (16 - d) else u * 2 ^ (d - 16)

/-- Drop the `d` low bits of an exact integer under a rounding code (R45, R48); `u` is the draw of RSR. -/
def roundShift (mode u : Nat) (x : Int) (d : Nat) : Int :=
  let q := x / (2 ^ d : Nat)
  let r := x % (2 ^ d : Nat)
  let twice := 2 * r
  let one : Int := (2 ^ d : Nat)
  if d = 0 then x
  else match mode with
    | 0 => if twice > one ∨ (twice = one ∧ q % 2 = 1) then q + 1 else q
    | 1 => if twice > one ∨ (twice = one ∧ 0 ≤ x) then q + 1 else q
    | 2 => if x < 0 ∧ r ≠ 0 then q + 1 else q
    | 3 => q
    | _ => (x + (rsrAdd u d : Nat)) / (2 ^ d : Nat)

/-- `x × 2 ^ e`, exact when `e` is 0 or more and rounded otherwise. Under RSR a value that drops bits takes exactly one draw
(R43, R50). -/
def scaleRound (mode : Nat) (rng : W64) (x e : Int) : Int × W64 :=
  if 0 ≤ e then (x * (2 ^ e.toNat : Nat), rng)
  else if mode = 4 then
    let (rng, u) := rngDraw rng
    (roundShift mode u x (-e).toNat, rng)
  else (roundShift mode 0 x (-e).toNat, rng)

/-- Least code of a `w`-bit fraction or A40 value (R31, R37). -/
def codeMin (w : Nat) : Int := -(2 ^ (w - 1) : Nat)
/-- Greatest code of a `w`-bit fraction or A40 value (R31, R37). -/
def codeMax (w : Nat) : Int := (2 ^ (w - 1) : Nat) - 1

/-- Bring an exact integer into `w` bits: clamp with SAT 1, wrap with SAT 0; and whether it was clamped or wrapped (R52, R54). -/
def satWrap (sat : Bool) (w : Nat) (x : Int) : Int × Bool :=
  if x < codeMin w then (if sat then codeMin w else toSigned w (ofSigned w x), true)
  else if codeMax w < x then (if sat then codeMax w else toSigned w (ofSigned w x), true)
  else (x, false)

/-- A sum of two codes in the A40 range, and whether it was clamped or wrapped (R44). -/
def accAdd (sat : Bool) (a b : Int) : Int × Bool := satWrap sat 40 (a + b)

/-- THR_ARITH VOVF and SOVF set as sticky flags (R54, R55). -/
def arithSet (arith : W64) (sovf vovf : Bool) : W64 :=
  arith ||| (if sovf then 0x40 else 0) ||| (if vovf then 0x80 else 0)

/-- A software write of THR_ARITH: VOVF and SOVF are W1C, SAT is RW, RND keeps its value on a reserved code (R13, R47, R56). -/
def arithWrite (arith val : W64) : W64 :=
  let flags := (arith &&& 0xC0) &&& ~~~val
  let rnd := if bits val 2 0 ≤ 4 then val &&& 7 else arith &&& 7
  flags ||| (val &&& 8) ||| rnd

end Sys2Proof.Machine
end

