-- ==== Sys2Proof/Machine/Ops.lean ====
section
/-! DEFINITION. The named operations over the state: cores, threads, registers, queue ports, units, free values, time, faults of threads,
and what the part sends out. -/

namespace Sys2Proof.Machine

/-- What a command answers. -/
abbrev Res := Host.Outcome State Fault Refusal

/-! ## Coordinates and units -/

/-- A core_id names a core when its column is 0 to 47 (R18, R19). -/
def isCore (c : CoreId) : Bool := decide (bits c 5 0 < 48)

/-- Global X of a core (R20). -/
def coreX (c : CoreId) : Nat := bits c 13 11 % 4 * 48 + bits c 5 0
/-- Global Y of a core (R20). -/
def coreY (c : CoreId) : Nat := bits c 13 11 / 4 * 32 + bits c 10 6
/-- The core at global coordinates (R20). -/
def coreAt (x y : Nat) : CoreId := BitVec.ofNat 14 ((y / 32 * 4 + x / 48) * 2048 + y % 32 * 64 + x % 48)
/-- The die of a core. -/
def dieOf (c : CoreId) : Nat := bits c 13 11

/-- Unit identifiers of R424, by kind and index. -/
def unitId (kind index : Nat) : W32 := BitVec.ofNat 32 (kind * 2 ^ 28 + index)
/-- The unit of a core's logic, local memory and instruction store. -/
def unitCore (c : CoreId) : W32 := unitId 0 c.toNat
/-- Unit of a Plinth block (R424). -/
def unitPlinth (n : Nat) : W32 := unitId 9 n

/-- A unit, IN_SERVICE when nothing is recorded of it. -/
def State.unit (s : State) (u : W32) : Unit := tabGet {} s.err.units u.toNat
/-- Replace a unit. -/
def State.setUnit (s : State) (u : W32) (x : Unit) : State :=
  { s with err := { s.err with units := tabPut s.err.units u.toNat x } }
/-- UEPOCH of a unit: what its own events and every reset have added to it (R431, R432). DEDUCED: log 156. -/
def State.uepoch (s : State) (u : W32) : Byte := (s.unit u).uepoch + s.err.epochBase
/-- Effective state of a unit: the higher of its two states (R425). -/
def State.effective (s : State) (u : W32) : Nat := max (s.unit u).dpath.toNat (s.unit u).mgmt.toNat
/-- Whether a unit answers every request with FENCED (R425). -/
def State.fenced (s : State) (u : W32) : Bool := decide (2 ≤ s.effective u)
/-- Whether a core is fenced: its logic, its router or its die (R424, R429). -/
def State.coreFenced (s : State) (c : CoreId) : Bool :=
  s.fenced (unitCore c) || s.fenced (unitId 1 c.toNat) || s.fenced (unitId 7 (dieOf c))

/-! ## Cores, threads -/

/-- The core of a core_id, at its placement-creation values when nothing has touched it. -/
def State.core (s : State) (c : CoreId) : Core := tabGet {} s.cores c.toNat
/-- Replace a core. -/
def State.setCore (s : State) (c : CoreId) (k : Core) : State := { s with cores := tabPut s.cores c.toNat k }
/-- A thread of a core. -/
def Core.thread (k : Core) (t : BitVec 2) : Thread := tabGet {} k.threads t.toNat
/-- Replace a thread. -/
def Core.setThread (k : Core) (t : BitVec 2) (th : Thread) : Core := { k with threads := tabPut k.threads t.toNat th }
/-- A thread of a core of the part. -/
def State.thread (s : State) (c : CoreId) (t : BitVec 2) : Thread := (s.core c).thread t
/-- Replace a thread of a core of the part. -/
def State.setThread (s : State) (c : CoreId) (t : BitVec 2) (th : Thread) : State := s.setCore c ((s.core c).setThread t th)
/-- The four threads. -/
def allThreads : List (BitVec 2) := [0, 1, 2, 3]
/-- Change the matrix engine of a core. -/
def Core.setMe (k : Core) (m : Me) : Core := { k with me := m }
/-- Change the synchronisation state of a core. -/
def Core.setSync (k : Core) (y : Sync) : Core := { k with sync := y }
/-- An integrity instance of a core (R346). -/
def Core.inst (k : Core) (n : Nat) : Inst := tabGet {} k.insts n
/-- Replace an integrity instance. -/
def Core.setInst (k : Core) (n : Nat) (i : Inst) : Core := { k with insts := tabPut k.insts n i }

/-! ## Free values and time -/

/-- Draw a free value of `w` bits. -/
def State.freeVal (s : State) (w : Nat) : BitVec w × State := (Config.freeBits w s.freeCtr, { s with freeCtr := s.freeCtr + 1 })

/-- Let package time reach `now`: an event never lies before the time already reached (R526, R527). -/
def State.atTime (s : State) (now : W64) : State := if s.time.toNat < now.toNat then { s with time := now } else s

/-- ns of package time from `a` to the present. -/
def State.since (s : State) (a : W64) : Nat := s.time.toNat - a.toNat

/-- Whether the clocks of the compute dies run: the part is booted far enough and not stopped (R509, R514, R532). -/
def State.clocked (s : State) : Bool := s.phase == .ready
/-- Whether the Plinth runs: the part is booting or in service (R509, R514). -/
def State.up (s : State) : Bool := s.phase == .boot || s.phase == .ready

/-! ## Registers (R71, R72) -/

/-- Read g `n`; g0 reads zero. -/
def Thread.readG (th : Thread) (n : Nat) : W64 := if n = 0 then 0 else tabGet 0 th.g n
/-- Write g `n`; a write to g0 is discarded. -/
def Thread.writeG (th : Thread) (n : Nat) (v : W64) : Thread := if n = 0 then th else { th with g := tabSet 0 th.g n v }
/-- Read p `n`; p0 reads 1. -/
def Thread.readP (th : Thread) (n : Nat) : Bool := n == 0 || th.p.getLsbD n
/-- Write p `n`; a write to p0 is discarded. -/
def Thread.writeP (th : Thread) (n : Nat) (b : Bool) : Thread :=
  if n = 0 then th else { th with p := if b then th.p ||| ((1 : Byte) <<< n) else th.p &&& ~~~((1 : Byte) <<< n) }
/-- Read v `n`. -/
def Thread.readV (th : Thread) (n : Nat) : W512 := tabGet 0 th.v n
/-- Write v `n`. -/
def Thread.writeV (th : Thread) (n : Nat) (x : W512) : Thread := { th with v := tabSet 0 th.v n x }
/-- Read lc `n`. -/
def Thread.readLc (th : Thread) (n : Nat) : W32 := tabGet 0 th.lc n
/-- Write lc `n`. -/
def Thread.writeLc (th : Thread) (n : Nat) (x : W32) : Thread := { th with lc := tabSet 0 th.lc n x }

/-! ## Queue ports (R84 to R86, R101) -/

/-- Writer thread of port `p`. -/
def Core.portWr (k : Core) (p : Nat) : Nat := bits k.qcfg (4 * p + 3) (4 * p + 2)
/-- Reader thread of port `p`. -/
def Core.portRd (k : Core) (p : Nat) : Nat := bits k.qcfg (4 * p + 1) (4 * p)
/-- A port whose writer number is not less than its reader number is disabled (R84). -/
def Core.portOn (k : Core) (p : Nat) : Bool := decide (k.portWr p < k.portRd p)
/-- The entries of a port, oldest first. -/
def Core.port (k : Core) (p : Nat) : List QEntry := tabGet [] k.ports p
/-- Replace the entries of a port. -/
def Core.setPort (k : Core) (p : Nat) (es : List QEntry) : Core := { k with ports := tabSet [] k.ports p es }

/-- The value that a read of a port would pop, if it has entered (R85). -/
def Core.portHead (k : Core) (p : Nat) : Option W64 :=
  match k.port p with
  | e :: _ => e.val
  | [] => none

/-- Whether a port has a free entry (R72, R85). -/
def Core.portFree (k : Core) (p : Nat) : Bool := decide ((k.port p).length < 16)

/-- Enter a value in the entry that issue reserved (R85). -/
def Core.portEnter (k : Core) (p ticket : Nat) (v : W64) : Core :=
  k.setPort p ((k.port p).map (fun e => if e.ticket = ticket then { e with val := some v } else e))

/-! ## Completing results (R77 to R79) -/

/-- Make one held-back result visible. -/
def completePend (k : Core) (t : BitVec 2) (w : Pend) : Core :=
  let th := k.thread t
  let th := { th with arith := arithSet th.arith w.sovf w.vovf }
  let k := k.setThread t th
  match w.dst with
  | .g n => k.setThread t (th.writeG n (w.val.truncate 64))
  | .p n => k.setThread t (th.writeP n (w.val.getLsbD 0))
  | .v n => k.setThread t (th.writeV n w.val)
  | .lc n => k.setThread t (th.writeLc n (w.val.truncate 32))
  | .sh n => { k with sh := tabSet 0 k.sh n (w.val.truncate 64) }
  | .q p ticket => k.portEnter p ticket (w.val.truncate 64)

/-- Insert by completion tick, after every entry of the same or an earlier tick: of equal ticks the later-issued stands later (R79). -/
def pendInsert (w : Pend) : List Pend → List Pend
  | [] => [w]
  | x :: r => if w.due.toNat < x.due.toNat then w :: x :: r else x :: pendInsert w r

/-- Complete every result whose completion tick has been reached (R77, R78); `ws` is ordered by completion tick. -/
def retireList (t : BitVec 2) (tick : Nat) : Core → List Pend → Core × List Pend
  | k, [] => (k, [])
  | k, w :: r => if w.due.toNat ≤ tick then retireList t tick (completePend k t w) r else (k, w :: r)

/-- Complete the results due at the thread's present tick. -/
def retire (k : Core) (t : BitVec 2) : Core :=
  let th := k.thread t
  let (k, rest) := retireList t th.tick.toNat (k.setThread t { th with pend := [] }) th.pend
  k.setThread t { (k.thread t) with pend := rest }

/-- Complete every result held back: what a fault or a stop does to earlier synchronous instructions (R109). -/
def flushPend (k : Core) (t : BitVec 2) : Core :=
  let th := k.thread t
  th.pend.foldl (fun k w => completePend k t w) (k.setThread t { th with pend := [] })

/-! ## Sending out -/

/-- Add to what the part has sent. -/
def State.emit (s : State) (o : Out) : State := { s with out := o :: s.out }

/-- A fault detected: its report is on its way to the Plinth (R427). -/
def State.report (s : State) (r : FaultRep) : State := { s with err := { s.err with reports := s.err.reports ++ [r] } }

/-- The class of R426 that a thread fault code falls in. -/
def faultClass (code : Nat) : Byte := if code = 0x0B then 1 else if code = 0x0C then 5 else 10

/-! ## Thread faults (R105, R109, R110) -/

/-- The fault record after a fault: the first is recorded, any further one sets MULTI (R105, R110). -/
def faultRecord (th : Thread) (code : Nat) (pc : W16) (addr : W64) (async : Bool) : Thread :=
  if bits th.fault 7 0 = 0 then
    { th with fault := BitVec.ofNat 64 (code + (if async then 0x200 else 0) + pc.toNat * 2 ^ 32), faddr := addr }
  else { th with fault := th.fault ||| 0x100 }

/-- Whether a fresh uncorrectable error has been reported since the first `n` reports. -/
def freshUes (s : State) (n : Nat) : Bool := (s.err.reports.drop n).any (fun r => r.cls == 2)
/-- The reports of fresh uncorrectable errors made since the first `n` reports, each with the thread fault code that it raises and the placement
of the thread: that fault is reported by them and not once more (R426). -/
def stampUes (s : State) (n : Nat) (place : Option Nat) : State :=
  { s with err := { s.err with reports := s.err.reports.take n ++ (s.err.reports.drop n).map (fun r => if r.cls = 2 then { r with code := 9, place := place } else r) } }

/-- The report that a core makes of a thread fault (R109, R427). `cause` of a BUS_ERROR: 1 a FENCED answer (R437), 2 a fresh uncorrectable
error, which its memory has reported with the fault's code (R426). -/
def faultReport (s : State) (c : CoreId) (code : Nat) (addr : W64) (cause : Nat := 0) : State :=
  if cause = 2 then s
  else s.report { unit := unitCore c, cls := faultClass code, code := BitVec.ofNat 8 code, place := (s.core c).place, detail := addr, fenced := cause = 1 }

/-- An asynchronous fault is reported and sets out towards its thread (R110, R427). `ord` is the issue that it belongs to; `due` is the tick at
which the thread has taken it at the latest, where the spec gives one (R223). -/
def raiseAsync (s : State) (c : CoreId) (t : BitVec 2) (code : Nat) (pc : W16) (addr : W64) (ord : Nat) (due : Option W64 := none)
    (cause : Nat := 0) : State :=
  let th := s.thread c t
  faultReport (s.setThread c t { th with async := th.async ++ [{ code := BitVec.ofNat 8 code, pc := pc, addr := addr, ord := ord, at_ := s.time, due := due }] })
    c code addr cause

/-- The cause of a BUS_ERROR that an access raises, when the first `n` reports were made before it. -/
def ueCause (s : State) (n : Nat) : Nat := if freshUes s n then 2 else 0
/-- An access of a thread has met a word that cannot be read: BUS_ERROR sets out towards it (R222, R223, R426). The first `n` reports were made
before the access. -/
def raiseUe (s : State) (n : Nat) (c : CoreId) (t : BitVec 2) (pc : W16) (addr : W64) (ord : Nat) (due : Option W64 := none) : State :=
  raiseAsync (stampUes s n (s.core c).place) c t 9 pc addr ord due (ueCause s n)

/-- The asynchronous fault that reaches a thread next: of those found first, the one of the earliest issue. Faults found at one package time
count as reaching it in the same cycle (R110; log 122). -/
def nextAsync : List AsyncFault → Option AsyncFault
  | [] => none
  | f :: r => match nextAsync r with
    | none => some f
    | some g => if f.at_.toNat < g.at_.toNat ∨ f.at_ = g.at_ ∧ f.ord ≤ g.ord then some f else some g

/-- Whether a thread has an asynchronous fault that it takes before it issues again (R223). -/
def Thread.asyncDue (th : Thread) : Bool := th.async.any (fun f => match f.due with | some d => decide (d.toNat ≤ th.tick.toNat) | none => false)

/-- Pick the lowest code among faults raised at issue (R110). -/
def lowestFault : List (Nat × W64) → Option (Nat × W64)
  | [] => none
  | f :: r => match lowestFault r with
    | none => some f
    | some g => if f.1 ≤ g.1 then some f else some g

/-! ## Local memory of a core (R219 to R224) -/

/-- Bytes of local memory (R22). -/
def lmSize : Nat := 0x60000

/-- Report each fresh uncorrectable error of a core's memory to the Plinth (R344). -/
def reportUes (s : State) (c : CoreId) (bads : List (Nat × Bool)) : State :=
  (bads.filter (·.2)).foldl (fun s b => s.report
    { unit := unitCore c, cls := 2, code := 0, place := (s.core c).place, detail := BitVec.ofNat 64 (8 * b.1) }) s

/-- Read local memory: the bytes and the words that cannot be read. -/
def lmRead (s : State) (c : CoreId) (a len : Nat) : List Byte × List (Nat × Bool) × State :=
  let k := s.core c
  let (bs, bads, m, i) := readBytes 0 k.lm (k.inst 0) a len
  (bs, bads, reportUes (s.setCore c ({ k with lm := m }.setInst 0 i)) c bads)

/-- Write local memory: the words that a partial write could not be merged into. -/
def lmWrite (s : State) (c : CoreId) (a : Nat) (bs : List Byte) : List (Nat × Bool) × State :=
  let k := s.core c
  let (bads, m, i) := writeBytes 0 k.lm (k.inst 0) a bs
  (bads, reportUes (s.setCore c ({ k with lm := m }.setInst 0 i)) c bads)

/-- Poison a word of local memory (R227, R278). -/
def lmPoison (s : State) (c : CoreId) (w : Nat) : State :=
  let k := s.core c
  let (m, i) := memPoison 0 k.lm (k.inst 0) w
  s.setCore c ({ k with lm := m }.setInst 0 i)

/-- Whether a byte range lies in a core's own local memory (R94). -/
def inLm (a : W64) (len : Nat) : Bool := decide (a.toNat + len ≤ lmSize)

/-- First byte of a range outside own local memory (R549). -/
def lmFirstOut (a : W64) : W64 := if a.toNat < lmSize then BitVec.ofNat 64 lmSize else a

/-! ## Arrival counters (R228 to R232) -/

/-- An arrival counter: WRAP in [63], VAL in [31:0]. -/
def Core.acnt (k : Core) (n : Nat) : W64 := tabGet 0 k.sync.acnt n

/-- Raise a counter by `by_`; passing 0xFFFF_FFFF sets WRAP (R228). -/
def acntAdd (x : W64) (by_ : Nat) : W64 :=
  let v := bits x 31 0 + by_
  BitVec.ofNat 64 (v % 2 ^ 32 + (if v ≥ 2 ^ 32 ∨ x.getLsbD 63 then 2 ^ 63 else 0))

/-- Raise arrival counter `n` of a core. -/
def Core.raise (k : Core) (n by_ : Nat) : Core := k.setSync { k.sync with acnt := tabSet 0 k.sync.acnt n (acntAdd (k.acnt n) by_) }

/-- Raise a named arrival counter of a core of the part, if one is named. -/
def State.raiseCnt (s : State) (c : CoreId) (cnt : Option (BitVec 5)) : State :=
  match cnt with
  | none => s
  | some n => s.setCore c ((s.core c).raise n.toNat 1)

/-- Add to a performance counter of a core (R188, R282). -/
def State.perfAdd (s : State) (c : CoreId) (addr by_ : Nat) : State :=
  let k := s.core c
  s.setCore c { k with perf := tabSet 0 k.perf addr (tabGet 0 k.perf addr + BitVec.ofNat 64 by_) }

/-! ## DSYNC ports (R138) -/

/-- A completion record (R138). -/
def dsyncRec (value source event status : Nat) : W64 :=
  BitVec.ofNat 64 (status + event * 2 ^ 8 + source * 2 ^ 16 + value % 2 ^ 32 * 2 ^ 32)

/-- Post a record to a thread's DSYNC port; behind a full port, and behind records already held, the engine holds it. -/
def postDsync (s : State) (c : CoreId) (t : BitVec 2) (r : W64) : State :=
  let th := s.thread c t
  s.setThread c t (if th.dsync.length < 16 ∧ th.dsyncHeld = [] then { th with dsync := th.dsync ++ [r] } else { th with dsyncHeld := th.dsyncHeld ++ [r] })

/-- The records a thread will pop, oldest first: those of its port, then those that engines hold for it. -/
def Thread.records (th : Thread) : List W64 := th.dsync ++ th.dsyncHeld

/-- The thread with `rs` as the records it will pop: held records enter as entries free. -/
def Thread.setRecords (th : Thread) (rs : List W64) : Thread := { th with dsync := rs.take 16, dsyncHeld := rs.drop 16 }

/-! ## START held for earlier work (R108) -/

/-- Whether an ME or DE operation that the thread issued is incomplete (R108, R237). -/
def Core.busyFor (k : Core) (t : BitVec 2) : Bool :=
  k.me.queue.any (fun o => o.thr == t) || k.fcq.any (fun o => o.thr == t)
    || k.chans.any (fun e => (e.2.st == .active || e.2.st == .stopping) && e.2.thr == t)

end Sys2Proof.Machine
end

