-- ==== Sys2Proof/Machine/Local.lean ====
section
/-! DEFINITION. Bulk accesses to a core's own local memory by its engines (R222, R311), and the start of a thread that the engines release
(R51, R71, R108). -/

namespace Sys2Proof.Machine

/-- Bytes to be written by address, for words that several pieces may cover. -/
abbrev Pieces := Tab Byte

/-- Add consecutive bytes to the pieces. -/
def addPieces : Pieces → Nat → List Byte → Pieces
  | m, _, [] => m
  | m, a, b :: bs => addPieces (tabPut m a b) (a + 1) bs

/-- The word numbers that pieces touch, rising, each once. -/
def pieceWords : Pieces → List Nat
  | [] => []
  | (a, _) :: r =>
    match pieceWords r with
    | w :: ws => if w = a / 8 then w :: ws else a / 8 :: w :: ws
    | [] => [a / 8]

/-- The bytes of word `w` with the pieces laid over `old`. -/
def overlay (m : Pieces) (w : Nat) (old : W64) : W64 :=
  BitVec.ofNat 64 (leNat ((List.range 8).map (fun j => tabGet (BitVec.ofNat 8 (old.toNat / 256 ^ j)) m (8 * w + j))))

/-- Whether the pieces cover a word whole. -/
def coversWord (m : Pieces) (w : Nat) : Bool := (List.range 8).all (fun j => (tabLook m (8 * w + j)).isSome)

/-- Write the words of the pieces: a word covered whole is written, another merges; a word that cannot be read for its merge is not
written and is reported with its number (R159, R222). -/
def writePieces (dflt : Byte) (p : Pieces) : List Nat → EccMem → Inst → List (Nat × Bool) × EccMem × Inst
  | [], m, i => ([], m, i)
  | w :: ws, m, i =>
    if coversWord p w then
      let (m, i) := memWrite dflt m i w (overlay p w 0)
      writePieces dflt p ws m i
    else
      let (r, m, i) := memRead dflt m i w
      match r with
      | .ok d =>
        let (m, i) := memWrite dflt m i w (overlay p w d)
        writePieces dflt p ws m i
      | .corr d _ =>
        let (m, i) := memWrite dflt m i w (overlay p w d)
        writePieces dflt p ws m i
      | .bad =>
        let (bads, m, i) := writePieces dflt p ws m i
        ((w, true) :: bads, m, i)
      | .poisoned =>
        let (bads, m, i) := writePieces dflt p ws m i
        ((w, false) :: bads, m, i)

/-- Write pieces to local memory. -/
def lmPieces (s : State) (c : CoreId) (p : Pieces) : List (Nat × Bool) × State :=
  let k := s.core c
  let (bads, m, i) := writePieces 0 p (pieceWords p) k.lm (k.inst 0)
  (bads, reportUes (s.setCore c ({ k with lm := m }.setInst 0 i)) c bads)

/-- Read several ranges of local memory in order. -/
def lmReads (s : State) (c : CoreId) : List (Nat × Nat) → List (List Byte) × List (Nat × Bool) × State
  | [] => ([], [], s)
  | (a, n) :: r =>
    let (bs, bads, s) := lmRead s c a n
    let (bss, bads', s) := lmReads s c r
    (bs :: bss, bads ++ bads', s)

/-- The first byte of the ranges that lies outside own local memory (R549). -/
def firstOutside : List (W64 × Nat) → Option W64
  | [] => none
  | (a, n) :: r => if n = 0 ∨ inLm a n then firstOutside r else some (lmFirstOut a)

/-! ## Starting a thread (R71, R106, R108) -/

/-- A thread's state at START: every value of R71, generators from the TRNG with zero replaced (R51), the sticky flags kept (R56).
Records that engines still hold for its DSYNC port are not lost (R138). -/
def startedThread (th : Thread) (a b : W64) : Thread :=
  { th with
    st := .running, pc := th.startPc, past := false, tick := 0, g := [], p := 1, v := [], lc := [], pend := [], loops := [],
    arith := (th.arith &&& 0xC0) ||| 8, rngS := rngFix a, rngM := rngFix b, rngEpoch := th.rngEpoch + 1, rngOld := [],
    waitTo := 2000, wait := none, dsync := [], clamped := false, fault := 0, faddr := 0, priv := false, startHeld := false,
    intSel := 0, claims := [] }

/-- Start a thread now. The TRNG values are free. -/
def startNow (s : State) (c : CoreId) (t : BitVec 2) : State :=
  let (a, s) := s.freeVal 64
  let (b, s) := s.freeVal 64
  s.setThread c t (startedThread (s.thread c t) a b)

/-- A START with its START_PC: it acts in STOPPED and FAULTED, and is held while earlier ME and DE operations of the thread run
(R106, R108). -/
def startThread (s : State) (c : CoreId) (t : BitVec 2) : State :=
  let k := s.core c
  let th := k.thread t
  if th.st == .stopped || th.st == .faulted then
    if k.busyFor t then s.setThread c t { th with startHeld := true } else startNow s c t
  else s

/-- Start every thread of a core whose START was held and whose earlier operations are complete (R108). -/
def releaseHeld (s : State) (c : CoreId) : State :=
  allThreads.foldl (fun s t =>
    let k := s.core c
    if (k.thread t).startHeld && !k.busyFor t then startNow s c t else s) s

end Sys2Proof.Machine
end

