-- ==== Sys2Proof/Machine/Net.lean ====
section
/-! DEFINITION. Data-space addresses (R22, R94 to R96), request slots (R431 to R434), packets and their routes (R252 to R256, R274), and the
answers of fenced targets (R429). -/

namespace Sys2Proof.Machine

/-! ## Data space (R16, R22, R94, R328) -/

/-- Where a data-space address lies. -/
inductive Place94 where
  | own (off : Nat)
  | window (c : CoreId) (off : Nat)
  | commons (die off : Nat)
  | hbm (die off : Nat)
  | unpopulated
  | nowhere
deriving DecidableEq, Repr

/-- Bytes of one die's commons (R233). -/
def commonsSize : Nat := 0x8000000
/-- Bytes of one die's HBM region in data space (R16). -/
def hbmRegion : Nat := 0x1800000000
/-- Populated bytes of one die's HBM region (R94). -/
def State.hbmSize (s : State) : Nat := if s.part384 then 0xC00000000 else hbmRegion
/-- Start of the reserved range within a die region: its last 2 GiB (R96, R333). -/
def State.hbmReserved (s : State) : Nat := if s.part384 then 0xB80000000 else 0x1780000000

/-- The range of a data-space address (R94). -/
def State.classify (s : State) (a : W64) : Place94 :=
  let n := a.toNat
  if n < 0x60000 then .own n
  else if n < 0x400000000 then .nowhere
  else if n < 0x800000000 then
    let c : CoreId := BitVec.ofNat 14 ((n - 0x400000000) / 0x100000)
    let off := n % 0x100000
    if isCore c && decide (off < lmSize) then .window c off else .unpopulated
  else if n < 0x1000000000 then .nowhere
  else if n < 0x1200000000 then
    let off := n % 0x40000000
    if off < commonsSize then .commons ((n - 0x1000000000) / 0x40000000) off else .unpopulated
  else if n < 0x10000000000 then .nowhere
  else if n < 0x1C000000000 then
    let o := n - 0x10000000000
    if o % hbmRegion < s.hbmSize then .hbm (o / hbmRegion) (o % hbmRegion) else .unpopulated
  else .nowhere

/-- The partition that holds a die (R459). -/
def State.diePart (s : State) (die : Nat) : Option Nat :=
  (List.range 8).find? (fun p => (tabLook s.parts p).isSome && (tabGet {} s.set.parts p).dies.getLsbD die)

/-- Whether a die lies in the partition of a core's die (R96). -/
def State.sameAsDie (s : State) (c : CoreId) (die : Nat) : Bool :=
  dieOf c == die || ((s.diePart die).isSome && s.diePart die == s.diePart (dieOf c))

/-- Whether a core lies in another core's placement (R96). -/
def State.samePlace (s : State) (c d : CoreId) : Bool := c == d || ((s.core c).place.isSome && (s.core c).place == (s.core d).place)

/-- The faults of an access to data space: SPACE_VIOLATION, ADDRESS, PRIVILEGE (R94, R96). -/
def State.rangeFaults (s : State) (c : CoreId) (priv : Bool) (a : W64) : List (Nat × W64) :=
  match s.classify a with
  | .own _ => []
  | .nowhere => [(0x0D, a)]
  | .unpopulated => [(8, a)]
  | .window d _ => if priv || s.samePlace c d then [] else [(0x0E, a)]
  | .commons die _ => if priv || s.sameAsDie c die then [] else [(0x0E, a)]
  | .hbm die off => if priv || (s.sameAsDie c die && decide (off < s.hbmReserved)) then [] else [(0x0E, a)]

/-! ## Homes of HBM blocks (R328, R331) -/

/-- The dies of a partition, rising. -/
def PartCfg.dieList (p : PartCfg) : List Nat := (List.range 8).filter (fun d => p.dies.getLsbD d)
/-- Fields of an interleaved region (R330). -/
def irOn (x : W64) : Bool := x.getLsbD 63
def irLen (x : W64) : Nat := bits x 31 16
def irOff (x : W64) : Nat := bits x 15 0
/-- Bytes of a GiB. -/
def gib : Nat := 0x40000000

/-- The interleaved region that covers an offset: the lowest-numbered enabled entry (R332). -/
def PartCfg.region (p : PartCfg) (off : Nat) : Option W64 :=
  p.ir.find? (fun x => irOn x && decide (irOff x * gib ≤ off) && decide (off < (irOff x + irLen x) * gib))

/-- The home die and home offset of an HBM offset under a partition's regions (R331). -/
def homeIn (p : PartCfg) (die off : Nat) : Nat × Nat :=
  match p.region off with
  | none => (die, off)
  | some x =>
    let ds := p.dieList
    let n := ds.length
    match ds.findIdx? (· == die) with
    | none => (die, off)
    | some r =>
      let base := irOff x * gib
      let j := (off - base) / 256
      let q := j / n
      (ds.getD ((r + j % n) % n) die, base + 256 * (q * n + r) + off % 256)

/-- The home of an HBM address (R331). -/
def State.home (s : State) (die off : Nat) : Nat × Nat :=
  match s.diePart die with
  | none => (die, off)
  | some p => homeIn (tabGet {} s.set.parts p) die off

/-- Die channel of an offset (R328). -/
def dieChannel (off : Nat) : Nat := (off / 256 % 64) ^^^ (off / 16384 % 64)
/-- HBM byte key of a home die and offset. -/
def hbmKey (die off : Nat) : Nat := die * hbmRegion + off

/-! ## Destinations (R233, R234, R256, R424) -/

/-- Destination of a far access. -/
def State.destOf (s : State) : Place94 → Option Dest
  | .window c _ => some (.core c)
  | .commons die off => some (.slice (BitVec.ofNat 3 die) (BitVec.ofNat 5 (off / 256)))
  | .hbm die off =>
    let (d, o) := s.home die off
    some (.hbm (BitVec.ofNat 3 d) (BitVec.ofNat 6 (dieChannel o)))
  | _ => none

/-- A core_id from die, row and column. -/
def mkCore (die row col : Nat) : CoreId := BitVec.ofNat 14 (die * 2048 + row * 64 + col)

/-- The router where a packet leaves the mesh (R234, R256). -/
def destRouter : Dest → CoreId
  | .core c => c
  | .slice die sl => mkCore die.toNat (4 * (sl.toNat / 4)) (12 * (sl.toNat % 4))
  | .hbm die h => mkCore die.toNat (if die.toNat < 4 then 0 else 31) (3 * h.toNat / 4)
  | .test y => coreAt 191 y.toNat

/-- The unit that a destination is (R424). -/
def destUnit : Dest → W32
  | .core c => unitCore c
  | .slice die sl => unitId 6 (die.toNat * 32 + sl.toNat)
  | .hbm die h => unitId 4 ((2 * die.toNat + h.toNat / 32) * 32 + h.toNat % 32)
  | .test y => unitCore (coreAt 191 y.toNat)   -- a test tile is no unit of R424; its router stands for it

/-- Whether a destination answers FENCED: its unit, its die, for HBM its stack and controller tile, and a test tile that is inert (R27, R424,
R429). -/
def State.destFenced (s : State) (d : Dest) : Bool :=
  match d with
  | .core c => s.coreFenced c
  | .slice die _ => s.fenced (destUnit d) || s.fenced (unitId 7 die.toNat) || s.fenced (unitId 1 (destRouter d).toNat)
  | .hbm die h =>
    let st := 2 * die.toNat + h.toNat / 32
    s.fenced (destUnit d) || s.fenced (unitId 5 st) || s.fenced (unitId 8 st) || s.fenced (unitId 7 die.toNat)
      || s.fenced (unitId 1 (destRouter d).toNat)
  | .test _ => s.sec.testInert

/-! ## Routes (R24, R25, R251, R253, R256) -/

/-- The neighbour of a router through a port, if there is one. -/
def neighbour (r : CoreId) : Port → Option CoreId
  | .north => if coreY r = 0 then none else some (coreAt (coreX r) (coreY r - 1))
  | .south => if 63 ≤ coreY r then none else some (coreAt (coreX r) (coreY r + 1))
  | .east => if 191 ≤ coreX r then none else some (coreAt (coreX r + 1) (coreY r))
  | .west => if coreX r = 0 then none else some (coreAt (coreX r - 1) (coreY r))
  | .loc => none

/-- The port at the far end of a link. -/
def opposite : Port → Port
  | .north => .south
  | .south => .north
  | .east => .west
  | .west => .east
  | .loc => .loc

/-- Numbers of the ports, in the order of R278. -/
def portNo : Port → Nat
  | .north => 0
  | .east => 1
  | .south => 2
  | .west => 3
  | .loc => 4

/-- The output that a packet takes at a router: the full X distance first, then Y (R253). -/
def outPort (r : CoreId) (d : Dest) : Port :=
  let t := destRouter d
  if coreX r < coreX t then .east
  else if coreX t < coreX r then .west
  else if coreY r < coreY t then .south
  else if coreY t < coreY r then .north
  else .loc

/-- Whether a link crosses a bridge edge, and that edge: 2 × (die on its west or north side) + (0 east-west, 1 north-south). -/
def bridgeEdge (r n : CoreId) (o : Port) : Option Nat :=
  if dieOf r = dieOf n then none
  else match o with
    | .east => some (2 * dieOf r)
    | .west => some (2 * dieOf n)
    | .south => some (2 * dieOf r + 1)
    | .north => some (2 * dieOf n + 1)
    | .loc => none

/-- The bridge edge unit of a link (R424). -/
def bridgeUnit (r : CoreId) (e : Nat) : W32 :=
  unitId 3 (e / 2 * 8 + e % 2 * 4 + (if e % 2 = 0 then bits r 10 6 else bits r 5 0) * 64)

/-- The unit of a link: a bridge edge's link, or the die link named by its west or north end (R424). -/
def linkUnit (r n : CoreId) (o : Port) : W32 :=
  match bridgeEdge r n o with
  | some e => bridgeUnit (if o = .east ∨ o = .south then r else n) e
  | none =>
    match o with
    | .east => unitId 2 r.toNat
    | .west => unitId 2 n.toNat
    | .south => unitId 2 (r.toNat + 0x4000)
    | _ => unitId 2 (n.toNat + 0x4000)

/-- Whether the link of an output is fenced: traffic over it is answered FENCED at the router before it (R425, R429). -/
def State.linkFenced (s : State) (r : CoreId) (o : Port) : Bool :=
  match neighbour r o with
  | some n => s.fenced (linkUnit r n o)
  | none => false

/-- The router at which the control-link tile of a row attaches: column 0 of CD0 or CD4 (R25). -/
def attachPoint (y : Nat) : CoreId := coreAt 0 y

/-- Whether host and command traffic to a destination is answered FENCED on its way: it enters at the control-link tile of the destination's row
and travels east along it (R25, R26, R256). -/
def State.rowFenced (s : State) (d : Dest) : Bool :=
  let t := destRouter d
  let a := attachPoint (coreY t)
  (List.range (coreX t)).any (fun x => s.linkFenced (coreAt (coreX a + x) (coreY a)) .east)

/-! ## Slots (R431 to R433) -/

/-- The lowest slot number that is not open. -/
def freeSlot (slots : Tab ReqSlot) : Nat → Nat → Nat
  | 0, n => n
  | fuel + 1, n =>
    match tabLook slots n with
    | some r => if r.isOpen then freeSlot slots fuel (n + 1) else n
    | none => n

/-- Open a slot for a request and give the tag that the request carries. -/
def openSlot (s : State) (c : CoreId) (kind : SlotKind) (thr : BitVec 2) (pc : W16) (addr : W64) (unit : W32) (target : Option CoreId)
    (cls : Nat) (cnt : Option (BitVec 5)) : State × ReqTag :=
  let k := s.core c
  let n := freeSlot k.slots (k.slots.length + 1) 0
  let ep := match tabLook k.slots n with | some r => r.epoch | none => 0
  let r : ReqSlot := { isOpen := true, epoch := ep, kind := kind, thr := thr, pc := pc, addr := addr, ord := (k.thread thr).issued,
                       unit := unit, target := target, cls := cls, cnt := cnt, sent := s.time }
  (s.setCore c { k with slots := tabPut k.slots n r }, { core := c, slot := n, epoch := ep, uepoch := s.uepoch (unitCore c) })

/-- The open slot that a reply completes, when both epochs agree (R431, R433). -/
def matchSlot (s : State) (tag : ReqTag) : Option ReqSlot :=
  match tabLook (s.core tag.core).slots tag.slot with
  | none => none
  | some r => if r.isOpen && r.epoch == tag.epoch && s.uepoch (unitCore tag.core) == tag.uepoch then some r else none

/-- Close a slot; completed other than by its reply, its epoch increments (R432). -/
def closeSlot (s : State) (c : CoreId) (n : Nat) (byReply : Bool) : State :=
  let k := s.core c
  match tabLook k.slots n with
  | none => s
  | some r => s.setCore c { k with slots := tabPut k.slots n { r with isOpen := false, epoch := if byReply then r.epoch else r.epoch + 1 } }

/-- A stale reply counts in INT_STALE of the requester's core and does nothing else (R433). -/
def staleReply (s : State) (c : CoreId) : State :=
  let k := s.core c
  s.setCore c { k with stale := k.stale + 1 }

/-! ## Packets (R252, R253) -/

/-- Flits of a packet (R252). -/
def flits (p : Packet) : Nat := match p.body with | .cairn _ _ _ _ false _ _ _ _ _ => 2 | _ => 1

/-- Put a packet into its source router; `tile` where a memory behind the router injects it. -/
def inject (s : State) (cls : Nat) (src : CoreId) (dst : Dest) (body : Body) (after : List (Nat × BitVec 4)) (free : Bool) (tile : Bool := false)
    (fresh : Bool := false) : State :=
  let p : Packet := { id := s.pktCtr, cls := cls, src := src, dst := dst, at_ := src, inp := .loc, body := body, free := free, after := after, tile := tile, fresh := fresh }
  { s with pktCtr := s.pktCtr + 1, net := s.net ++ [p] }

/-- Flits of a class that an input port of a router has taken and not yet passed on: what injection has brought beyond 8 waits outside the local
input's buffer (R254). -/
def inputFlits (s : State) (r : CoreId) (i : Port) (cls : Nat) : Nat :=
  ((s.net.filter (fun p => p.at_ == r && p.inp == i && p.cls == cls && !p.out)).map flits).sum

/-- Whether a router's local port has room for `n` more flits of a class (R254, R255). -/
def routerAccepts (s : State) (c : CoreId) (cls n : Nat) : Bool := decide (inputFlits s c .loc cls + n ≤ 8)

/-- Remove a packet. -/
def dropPacket (s : State) (id : Nat) : State := { s with net := s.net.filter (fun p => p.id ≠ id) }

/-- Whether every slot in a packet's waiting list has closed (R274). -/
def afterClear (s : State) (p : Packet) : Bool :=
  p.after.all (fun (n, ep) =>
    match tabLook (s.core p.src).slots n with
    | some r => !(r.isOpen && r.epoch == ep)
    | none => true)

/-- Open slots of earlier writes of one sender to one target core in another class than `cls` (R274); `all` takes every class. -/
def earlierWrites (s : State) (c : CoreId) (target : CoreId) (cls : Nat) (all : Bool) (mine : ReqSlot → Bool) : List (Nat × BitVec 4) :=
  ((s.core c).slots.filter (fun e => e.2.isOpen && mine e.2 && e.2.target == some target && (all || e.2.cls != cls)
    && (match e.2.kind with | .store => true | .send => true | .dmaWrite _ _ _ => true | _ => false))).map (fun e => (e.1, e.2.epoch))

/-- The writes of a thread, as R231 takes its sender. -/
def byThread (t : BitVec 2) (r : ReqSlot) : Bool := r.thr == t && (match r.kind with | .dmaWrite _ _ _ => false | _ => true)
/-- The writes of a DMA channel. -/
def byChannel (ch : BitVec 3) (r : ReqSlot) : Bool := match r.kind with | .dmaWrite n _ _ => n == ch | _ => false

/-- A packet that has arrived, is held no more, and is next of its class, source and destination by injection (R253, R274, R277). -/
def arrived (s : State) (id : Nat) : Option Packet :=
  match s.net.find? (fun p => p.id = id) with
  | none => none
  | some p =>
    if p.at_ == destRouter p.dst && p.free && afterClear s p
        && !(s.net.any (fun q => decide (q.id < id) && q.cls == p.cls && q.src == p.src && q.dst == p.dst))
    then some p else none

/-- The tag of a request, if its sender awaits an answer. -/
def reqTag : Body → Option ReqTag
  | .load t _ _ => some t
  | .atomic t _ _ _ => some t
  | .store t _ _ _ => some t
  | .bindReq t _ _ _ => some t
  | .claim t _ _ _ _ => some t
  | _ => none

/-- Whether a destination lies behind its router: a memory or an edge tile. -/
def Dest.isTile : Dest → Bool
  | .core _ => false
  | _ => true

/-- Answer on the response class, from the router where the request left the mesh. -/
def answer (s : State) (p : Packet) (tag : ReqTag) (body : Body) (fresh : Bool := false) : State :=
  inject s 1 (destRouter p.dst) (.core tag.core) body [] true p.dst.isTile fresh

/-- A packet meets a fenced unit at a router: a request is answered FENCED from there, any other packet is discarded and counted (R269, R429). -/
def fencedAt (s : State) (r : CoreId) (p : Packet) : State :=
  let s := dropPacket s p.id
  if p.cls = 0 then
    match reqTag p.body with
    | some t => inject s 1 r (.core t.core) (.fenced t) [] true p.dst.isTile
    | none => s
  else s.perfAdd r 0x0C68 1

/-- A packet reaches a fenced target. -/
def fencedArrival (s : State) (p : Packet) : State := fencedAt s (destRouter p.dst) p

/-- Whether a packet that has arrived is answered FENCED: its target is fenced, or it was addressed before a spare took the target's place (R269,
R429). -/
def State.turnsAway (s : State) (p : Packet) : Bool := p.late || s.destFenced p.dst

/-! ## Completing requests with an error (R430, R434) -/

/-- Whether a request is a thread's, which takes an error as BUS_ERROR, and not a DMA channel's or a binding's. -/
def ReqSlot.byThread (r : ReqSlot) : Bool :=
  match r.kind with
  | .dmaRead _ _ _ => false
  | .dmaWrite _ _ _ => false
  | .bindReq _ => false
  | _ => true
/-- A memory's answer to a request, when the first `n` reports were made before it: the reports of fresh uncorrectable errors met in it carry the
fault code and the placement of a thread that asked (R426), and the placement of the core that asked (R428). -/
def answerFrom (s : State) (n : Nat) (p : Packet) (tag : ReqTag) (body : Body) : State :=
  let place := (s.core tag.core).place
  let isThread := match matchSlot s tag with | some r => r.byThread | none => false
  let s' := if isThread then stampUes s n place
    else { s with err := { s.err with reports := s.err.reports.take n ++ (s.err.reports.drop n).map (fun r => if r.cls = 2 then { r with place := place } else r) } }
  answer s' p tag body (freshUes s n)

/-- The waiting load or atomic of a slot takes its answer. -/
def answerWait (s : State) (c : CoreId) (r : ReqSlot) (n : Nat) (val : W512) (err : Bool) (cause : Nat := 0) : State :=
  let th := s.thread c r.thr
  match th.wait with
  | some w =>
    if w.slot = some (n, r.epoch) then s.setThread c r.thr { th with wait := some { w with done := true, reply := val, err := err, cause := cause } } else s
  | none => s

/-- A claim of a thread takes its answer: 1 granted, 2 refused, 3 FENCED. -/
def answerClaim (s : State) (c : CoreId) (t : BitVec 2) (j a : Nat) : State :=
  let th := s.thread c t
  s.setThread c t { th with claims := th.claims.map (fun x => if x.j = j && x.answer = 0 then { x with answer := a } else x) }

/-- A failed DMA access: the channel has still to retry it or to halt (R250). Kind 0 is a read, 1 a write. -/
def dmaFailed (s : State) (c : CoreId) (ch : BitVec 3) (gen : Nat) (addr : W64) (off kind : Nat) : State :=
  let k := s.core c
  let x := tabGet {} k.chans ch.toNat
  if x.gen ≠ gen then s else s.setCore c { k with chans := tabPut k.chans ch.toNat { x with bad := x.bad ++ [(addr, off, kind)] } }

/-- Complete the request of a slot with an error (R430); `cause` is that of a thread's BUS_ERROR. -/
def failSlot (s : State) (c : CoreId) (n : Nat) (r : ReqSlot) (cause : Nat := 1) : State :=
  match r.kind with
  | .load => answerWait s c r n 0 true cause
  | .atomic => answerWait s c r n 0 true cause
  | .store => raiseAsync s c r.thr 9 r.pc r.addr r.ord none cause
  | .send =>
    -- the spec names no address for a channel send: a free value (R111, log 123)
    let (a, s) := s.freeVal 64
    raiseAsync s c r.thr 9 r.pc a r.ord none cause
  | .claim j => answerClaim s c r.thr j 3
  | .bindReq b =>
    let k := s.core c
    let x := tabGet ({} : Bind) k.sync.binds b.toNat
    if x.state = 1 then s.setCore c (k.setSync { k.sync with binds := tabPut k.sync.binds b.toNat { x with state := 3, rsn := 5 } }) else s
  | .dmaRead ch g off => dmaFailed s c ch g r.addr off 0
  | .dmaWrite ch g off => dmaFailed s c ch g r.addr off 1

/-- Complete every open request of a core to a unit as FENCED, in the order of the issues that made them; the slots' epochs increment (R110,
R430, R432). -/
def fenceSlots (s : State) (c : CoreId) (hit : ReqSlot → Bool) : State :=
  (sortBy (fun a b => decide (a.2.ord ≤ b.2.ord)) ((s.core c).slots.filter (fun e => e.2.isOpen && hit e.2))).foldl (fun s e => failSlot (closeSlot s c e.1 false) c e.1 e.2) s

end Sys2Proof.Machine
end

