-- ==== Sys2Proof/Machine/Operands.lean ====
section
/-! DEFINITION. Instruction layout and operand forms (R112 to R122): the opcode table with each operand's permitted files, the prefix rules,
immediates, the static checks that raise ILLEGAL_ENCODING, PREFIX_CONFLICT and LENGTH_OVERFLOW, and the decoder of an instruction's
bytes, which a LOOP of count zero needs (R128). -/

namespace Sys2Proof.Machine

/-- Operand forms (R121). -/
inductive Form where
  | A | I | H | B | C | D | J | E | F | G
deriving DecidableEq, Repr

/-- The issue slots (R73). -/
inductive Slot4 where
  | S | V | M | X
deriving DecidableEq, Repr

/-- Which files a register operand permits (R119): S-dst, S-src, one file, S-dst or v, S-src or v, g or sh. -/
inductive Kind where
  | dst | src | g | v | p | lc | t | a | tile | dstV | srcV | gSh
deriving DecidableEq, Repr

/-- The register file of an operand byte (R118). -/
def fileOf (b : Byte) : Nat := bits b 7 5
/-- The index of an operand byte (R118). -/
def indexOf (b : Byte) : Nat := bits b 4 0

/-- Whether an operand byte names a valid index of a file that the position permits (R118, R119). -/
def kindOk (k : Kind) (b : Byte) : Bool :=
  let f := fileOf b
  let n := indexOf b
  match k with
  | .dst => f == 0 || (f == 4 && decide (n < 16)) || (f == 5 && decide (n < 8))
  | .src => f == 0 || (f == 3 && decide (n < 4)) || (f == 4 && decide (n < 16)) || (f == 5 && decide (n < 8))
  | .g => f == 0
  | .v => f == 1
  | .p => f == 2 && decide (n < 8)
  | .lc => f == 3 && decide (n < 4)
  | .t => f == 6 && decide (n < 16)
  | .a => f == 6 && decide (16 ≤ n) && decide (n < 24)
  | .tile => f == 6 && decide (n < 24)
  | .dstV => f == 0 || f == 1 || (f == 4 && decide (n < 16)) || (f == 5 && decide (n < 8))
  | .srcV => f == 0 || f == 1 || (f == 3 && decide (n < 4)) || (f == 4 && decide (n < 16)) || (f == 5 && decide (n < 8))
  | .gSh => f == 0 || (f == 4 && decide (n < 16))

/-- The form and operand kinds of every opcode of the reference tables (R124, R126, R130, R131, R133, R136); none is a reserved
opcode (R123). -/
def opSig (op : Nat) : Option (Form × List Kind) :=
  if op = 0x00 then some (.A, [])
  else if op ≤ 0x0F then some (.B, [.dst, .src, .src])
  else if op ≤ 0x17 then some (.C, [.dst, .src])
  else if op = 0x18 then some (.D, [.dst])
  else if op = 0x19 then some (.D, [.gSh])
  else if op ≤ 0x1C then some (.H, [.dst, .src])
  else if op < 0x20 then none
  else if op ≤ 0x25 then some (.B, [.p, .src, .src])
  else if op < 0x28 then none
  else if op ≤ 0x2D then some (.C, [.p, .src])
  else if op < 0x30 then none
  else if op ≤ 0x32 then some (.B, [.p, .p, .p])
  else if op = 0x33 then some (.H, [.p, .p])
  else if op < 0x40 then none
  else if op ≤ 0x4D then some (.E, [.v, .v, .v])
  else if op < 0x50 then none
  else if op ≤ 0x55 then some (.F, [.v, .v])
  else match op with
    | 0x58 => some (.G, [.v, .v])
    | 0x59 => some (.F, [.v, .src])
    | 0x5A => some (.G, [.dst, .v])
    | 0x5B => some (.E, [.v, .v, .v])
    | 0x5C => some (.F, [.v, .v])
    | 0x5D => some (.F, [.v, .v])
    | 0x5E => some (.I, [.v])
    | 0x60 => some (.G, [.v, .v])
    | 0x61 => some (.E, [.v, .v, .v])
    | 0x62 => some (.G, [.v, .v])
    | 0x80 => some (.H, [.tile, .src])
    | 0x81 => some (.J, [])
    | 0x82 => some (.C, [.tile, .g])
    | 0x83 => some (.B, [.t, .g, .src])
    | 0x84 => some (.C, [.tile, .g])
    | 0x85 => some (.B, [.a, .t, .t])
    | 0x86 => some (.B, [.a, .t, .t])
    | 0x87 => some (.D, [.g])
    | 0x88 => some (.D, [.g])
    | 0x89 => some (.C, [.v, .tile])
    | 0x8A => some (.C, [.tile, .v])
    | 0xA0 => some (.C, [.dst, .g])
    | 0xA1 => some (.C, [.dst, .g])
    | 0xA2 => some (.C, [.dst, .g])
    | 0xA3 => some (.C, [.dst, .g])
    | 0xA4 => some (.C, [.dst, .g])
    | 0xA5 => some (.C, [.dst, .g])
    | 0xA6 => some (.C, [.dst, .g])
    | 0xA7 => some (.C, [.v, .g])
    | 0xA8 => some (.C, [.src, .g])
    | 0xA9 => some (.C, [.src, .g])
    | 0xAA => some (.C, [.src, .g])
    | 0xAB => some (.C, [.src, .g])
    | 0xAC => some (.C, [.v, .g])
    | 0xB0 => some (.C, [.srcV, .g])
    | 0xB1 => some (.B, [.v, .g, .src])
    | 0xB2 => some (.B, [.dst, .g, .src])
    | 0xB3 => some (.B, [.dst, .g, .src])
    | 0xB4 => some (.B, [.dst, .g, .src])
    | 0xB5 => some (.B, [.dst, .g, .src])
    | 0xB8 => some (.D, [.srcV])
    | 0xB9 => some (.J, [])
    | 0xBA => some (.C, [.dstV, .p])
    | 0xBB => some (.B, [.v, .v, .src])
    | 0xBC => some (.B, [.g, .g, .src])
    | 0xBD => some (.B, [.g, .g, .g])
    | 0xC0 => some (.D, [.dst])
    | 0xC1 => some (.D, [.src])
    | 0xD0 => some (.J, [])
    | 0xD1 => some (.D, [.dst])
    | 0xD2 => some (.D, [.src])
    | 0xD3 => some (.C, [.lc, .src])
    | 0xD4 => some (.C, [.lc, .src])
    | 0xD5 => some (.A, [])
    | 0xD8 => some (.B, [.g, .g, .g])
    | 0xD9 => some (.H, [.g, .g])
    | 0xDC => some (.D, [.src])
    | 0xDD => some (.D, [.dst])
    | 0xDE => some (.I, [.dst])
    | 0xDF => some (.J, [])
    | _ => none

/-- Bytes after the opcode (R121). -/
def formLen (f : Form) (wide : Bool) : Nat :=
  let w := if wide then 2 else 0
  match f with
  | .A => 0
  | .I => 1
  | .H => 2
  | .B => 3
  | .C => 4 + w
  | .D => 3 + w
  | .J => 2 + w
  | .E => 4
  | .F => 3
  | .G => 4

/-- Bytes of a prefix with its payload (R113). -/
def prefixLen : Prefix → Nat
  | .guard _ _ => 1
  | .wide => 1
  | .shape _ _ _ => 4
  | .sparsity _ => 2
  | .rounding _ => 2
  | .stationarity _ => 2

/-- The bytes of a prefix (R113). -/
def prefixBytes : Prefix → List Byte
  | .guard neg p => [BitVec.ofNat 8 ((if neg then 0xE8 else 0xE0) + p.toNat)]
  | .wide => [0xF0]
  | .shape m n k => [0xF1, m, n, k]
  | .sparsity b => [0xF2, b]
  | .rounding b => [0xF3, b]
  | .stationarity b => [0xF4, b]

/-- The kind number of a prefix: 0xE0 to 0xEF form one kind (R114). -/
def prefixKind : Prefix → Nat
  | .guard _ _ => 0
  | .wide => 1
  | .shape _ _ _ => 2
  | .sparsity _ => 3
  | .rounding _ => 4
  | .stationarity _ => 5

/-- Whether two prefixes of one kind stand on the instruction (R114). -/
def prefixDup : List Prefix → Bool
  | [] => false
  | p :: r => r.any (fun q => prefixKind q == prefixKind p) || prefixDup r

/-- Whether the wide prefix stands on the instruction. -/
def isWide (px : List Prefix) : Bool := px.any (fun p => prefixKind p == 1)

/-- Whether a prefix is allowed on an opcode and its payload is legal (R113, R116, R149): stationarity must be 0 except on
MMA and MMAZ, and the shape bytes have bit 7 clear. -/
def prefixOk (op : Nat) (f : Form) : Prefix → Bool
  | .guard _ _ => true
  | .wide => f == .C || f == .D || f == .J
  | .shape m n k => decide (0x82 ≤ op) && decide (op ≤ 0x86) && !m.getLsbD 7 && !n.getLsbD 7 && !k.getLsbD 7
  | .sparsity b => (op == 0x85 || op == 0x86) && decide (bits b 7 4 ≤ 1)
  | .rounding b => decide (0x01 ≤ op) && decide (op ≤ 0x9F) && bits b 7 4 == 0 && decide (bits b 2 0 ≤ 4)
  | .stationarity b =>
    decide (0x82 ≤ op) && decide (op ≤ 0x86) && bits b 7 6 == 0 && (bits b 5 4 == 0 || op == 0x85 || op == 0x86)

/-- The guard of an instruction, if any: sense and predicate (R113). -/
def guardOf (px : List Prefix) : Option (Bool × BitVec 3) :=
  px.findSome? (fun p => match p with | .guard n q => some (n, q) | _ => none)
/-- The shape prefix, if any. -/
def shapeOf (px : List Prefix) : Option (Byte × Byte × Byte) :=
  px.findSome? (fun p => match p with | .shape m n k => some (m, n, k) | _ => none)
/-- The sparsity payload, 0 (dense) without the prefix. -/
def sparsityOf (px : List Prefix) : Byte :=
  (px.findSome? (fun p => match p with | .sparsity b => some b | _ => none)).getD 0
/-- The rounding payload, if any. -/
def roundingOf (px : List Prefix) : Option Byte :=
  px.findSome? (fun p => match p with | .rounding b => some b | _ => none)
/-- The stationarity payload, 0 without the prefix. -/
def stationarityOf (px : List Prefix) : Byte :=
  (px.findSome? (fun p => match p with | .stationarity b => some b | _ => none)).getD 0

/-- The operand bytes of an instruction: its register and type bytes, then the immediate, little-endian (R120, R121). -/
def operandBytes (f : Form) (wide : Bool) (regs : List Byte) (imm : W32) : List Byte :=
  match f with
  | .C => regs ++ leBytes (if wide then 4 else 2) imm.toNat
  | .D => regs ++ leBytes (if wide then 4 else 2) imm.toNat
  | .J => regs ++ leBytes (if wide then 4 else 2) imm.toNat
  | _ => regs

/-- The immediate as the instruction's bytes hold it: 16 bits, or 32 under the wide prefix, unsigned. -/
def rawImm (px : List Prefix) (imm : W32) : Nat := if isWide px then imm.toNat else imm.toNat % 2 ^ 16

/-- The immediate sign-extended to 64 bits (R120). -/
def immVal (px : List Prefix) (imm : W32) : W64 := if isWide px then sext64 imm else sext64 (imm.truncate 16)

/-- Lane width in bits and lane count of a lane type, by its code (R122). -/
def laneInfo (ty : Nat) : Option (Nat × Nat) :=
  match ty with
  | 0 => some (32, 16)
  | 1 => some (16, 32)
  | 2 => some (4, 128)
  | 3 => some (8, 64)
  | 4 => some (16, 32)
  | 5 => some (32, 16)
  | 6 => some (4, 128)
  | 7 => some (8, 64)
  | 8 => some (16, 32)
  | 9 => some (8, 64)
  | 10 => some (16, 32)
  | 11 => some (32, 16)
  | _ => none

/-- The lane types an opcode of the vector class accepts (R130). -/
def vecTypes (op : Nat) : List Nat :=
  if op ≤ 0x45 then [0, 1, 3, 4, 5, 9, 10, 11]
  else if op ≤ 0x4A then [2, 3, 4, 5, 9, 10, 11]
  else if op ≤ 0x4D then [0, 1, 3, 4, 5, 9, 10, 11]
  else if op ≤ 0x55 then [0, 1]
  else if op ≤ 0x5B then [0, 1, 2, 3, 4, 5, 9, 10, 11]
  else if op ≤ 0x5D then [0, 1, 3, 4, 5, 9, 10, 11]
  else [0, 1]

/-- Whether a type is group-scaled. -/
def isGroup (ty : Nat) : Bool := ty == 6 || ty == 7 || ty == 8
/-- Whether a type is a plain fraction F4, F8, F16 or F32. -/
def isFrac (ty : Nat) : Bool := ty == 2 || ty == 3 || ty == 4 || ty == 5
/-- Whether a type is FP32 or BF16. -/
def isFloat (ty : Nat) : Bool := ty == 0 || ty == 1

/-- Lanes per register of the source of a VCVT: code 11 denotes A40, 8 lanes (R192). -/
def cvtSrcLanes (ty : Nat) : Nat := if ty == 11 then 8 else ((laneInfo ty).map (·.2)).getD 0
/-- Lanes per register of the destination of a VCVT. -/
def cvtDstLanes (ty : Nat) : Nat := ((laneInfo ty).map (·.2)).getD 0

/-- The pairs of R62: source type, destination type (source 11 is A40, R192). -/
def cvtPair (sty dty : Nat) : Bool :=
  if isFloat sty then (dty == 1 && sty == 0) || isFrac dty || isGroup dty
  else if sty == 11 then isFloat dty || isFrac dty
  else if isFrac sty then isFloat dty || (isFrac dty && sty != dty)
  else if isGroup sty then dty == 0
  else false

/-- Registers that one side of a VCVT spans: a pair for a group-scaled side, else n over its lanes (R191). -/
def cvtSpan (n lanes ty : Nat) (g : Bool) : Nat := if g && isGroup ty then 2 else n / lanes

/-- The elements a VCVT converts (R191). -/
def cvtCount (sty dty : Nat) : Nat := max (cvtSrcLanes sty) (cvtDstLanes dty)

/-- The static rules of VCVT: pair, spans, alignment, zero scale beside a group-scaled side (R190 to R192). -/
def cvtOk (ty o1 o2 imm8 : Byte) : Bool :=
  let sty := bits ty 7 4
  let dty := bits ty 3 0
  let n := cvtCount sty dty
  let ss := cvtSpan n (cvtSrcLanes sty) sty (sty != 11)
  let ds := cvtSpan n (cvtDstLanes dty) dty true
  cvtPair sty dty && indexOf o1 % ds == 0 && indexOf o2 % ss == 0 && decide (indexOf o1 + ds ≤ 32) && decide (indexOf o2 + ss ≤ 32)
    && (!(isGroup sty || isGroup dty) || imm8 == 0)

/-- The static rules of an opcode beyond its operand files: types, narrow immediates, register spans, reserved token codes
(R116, R120, R122, R128, R130, R134, R136, R149, R162, R191, R199, R206). `len` is the instruction's length. -/
def extraOk (op : Nat) (px : List Prefix) (ops : List Byte) (imm : W32) (len : Nat) : Bool :=
  let o (n : Nat) : Byte := ops.getD n 0
  let raw := rawImm px imm
  if 0x40 ≤ op ∧ op ≤ 0x55 ∨ 0x59 ≤ op ∧ op ≤ 0x5D ∧ op ≠ 0x5A ∨ op = 0x61 then
    bits (o 0) 7 4 == 0 && (vecTypes op).contains (bits (o 0) 3 0)
  else match op with
    | 0x58 => cvtOk (o 0) (o 1) (o 2) (o 3)
    | 0x5A => bits (o 0) 7 4 == 0 && (vecTypes op).contains (bits (o 0) 3 0)
        && decide ((o 3).toNat < ((laneInfo (bits (o 0) 3 0)).map (·.2)).getD 0)
    | 0x60 =>
      let k := bits (o 3) 5 0
      let h := bits (o 3) 7 6
      bits (o 0) 7 4 == 0 && (vecTypes op).contains (bits (o 0) 3 0) && decide (1 ≤ k)
        && decide (k ≤ ((laneInfo (bits (o 0) 3 0)).map (·.2)).getD 0) && indexOf (o 2) % 2 ^ h == 0 && indexOf (o 1) % 2 == 0
    | 0x62 =>
      let k := bits (o 3) 3 0
      let h := bits (o 3) 5 4
      bits (o 0) 7 4 == 0 && (vecTypes op).contains (bits (o 0) 3 0) && decide (1 ≤ k) && decide (k ≤ 8) && !(o 3).getLsbD 7
        && indexOf (o 2) % 2 ^ h == 0
    | 0x81 => decide (raw < 2 ^ 24)
    | 0x82 | 0x83 | 0x84 =>
      match shapeOf px with
      | none => true
      | some (_, n, k) => if decide (indexOf (o 0) < 16) then n == 0 else k == 0
    | 0x89 => decide (raw < 2 ^ 7) && (decide (16 ≤ indexOf (o 1)) || decide (raw < 32))
    | 0x8A => decide (raw < 2 ^ 7) && (decide (16 ≤ indexOf (o 0)) || decide (raw < 32))
    | 0xB0 => decide (raw < 2 ^ 16) && raw / 32 % 1024 == 0
    | 0xB8 => decide (raw < 64)
    | 0xB9 => decide (raw < 2 ^ 16) && raw / 64 % 4 == 0
        && (decide (0x80 ≤ raw / 256) || (decide (1 ≤ raw / 256) && decide (raw / 256 ≤ 3)))
    | 0xBA => decide (raw < 64)
    | 0xC0 | 0xC1 => decide (raw < 2 ^ 16)
    | 0xD3 | 0xD4 => decide (len ≤ raw)
    | 0xDC => decide (raw < 32)
    | 0xDD => decide (raw ≤ 8)
    | 0xDF => decide (raw < 16)
    | _ => true

/-- Position of the first register operand among the operand bytes: forms with a type byte begin with it (R121). -/
def regBytes (f : Form) (ops : List Byte) : List Byte :=
  match f with
  | .E => ops.drop 1
  | .F => ops.drop 1
  | .G => ops.drop 1
  | _ => ops

/-- Whether every register operand names a valid register of a permitted file (R119). -/
def kindsOk : List Kind → List Byte → Bool
  | [], _ => true
  | k :: ks, b :: bs => kindOk k b && kindsOk ks bs
  | _ :: _, [] => false

/-- Length of an instruction (R112, R117). -/
def insnLen (px : List Prefix) (f : Form) : Nat := (px.map prefixLen).sum + 1 + formLen f (isWide px)

/-- The encoding faults of an instruction, lowest code first: 1 ILLEGAL_ENCODING, 2 PREFIX_CONFLICT, 3 LENGTH_OVERFLOW; each is
detected independently (R110, R113 to R123). -/
def encFaults (op : Nat) (px : List Prefix) (ops : List Byte) (imm : W32) : List Nat :=
  match opSig op with
  | none => [1]
  | some (f, ks) =>
    let len := insnLen px f
    (if kindsOk ks (regBytes f ops) && px.all (prefixOk op f) && extraOk op px ops imm len then [] else [1])
      ++ (if prefixDup px then [2] else []) ++ (if len > 16 then [3] else [])

/-- Whether the payload of a prefix holds no reserved value (R47, R116, R149). -/
def payloadOk : Prefix → Bool
  | .shape m n k => !m.getLsbD 7 && !n.getLsbD 7 && !k.getLsbD 7
  | .sparsity b => decide (bits b 7 4 ≤ 1)
  | .rounding b => bits b 7 4 == 0 && decide (bits b 2 0 ≤ 4)
  | .stationarity b => bits b 7 6 == 0
  | _ => true

/-- The prefixes that begin within the first `n` bytes, each with whether it also ends there. -/
def prefixesWithin : Nat → List Prefix → List (Prefix × Bool)
  | _, [] => []
  | n, p :: r => if n = 0 then [] else (p, decide (prefixLen p ≤ n)) :: prefixesWithin (n - prefixLen p) r

/-- Whether an opcode byte is found: at most 15 prefix bytes stand before it and it lies within the first `avail` bytes (R73). -/
def opFound (avail : Nat) (px : List Prefix) : Bool :=
  decide ((px.map prefixLen).sum ≤ 15) && decide ((px.map prefixLen).sum < avail)

/-- Operand register bytes of a form among its operand bytes: all of them but an immediate of 2 or 4 bytes (R121). -/
def regCount (f : Form) : Nat :=
  match f with
  | .C => 2
  | .D => 1
  | .J => 0
  | _ => formLen f false

/-- Whether the first `n` operand bytes, those that the store holds, leave some legal encoding: each register byte among them names a register
that its operand permits, and the static rules hold for some value of the bytes that are missing. Every rule of `extraOk` that admits any
value of missing bytes admits register index 0 and, in the last register byte or the first missing byte of the immediate, one of 0, 1 and 0xFF
over zeros (R110, R117). -/
def partOk (op : Nat) (f : Form) (ks : List Kind) (px : List Prefix) (ops : List Byte) (imm : W32) (n : Nat) : Bool :=
  let nreg := regCount f
  let nimm := formLen f (isWide px) - nreg
  let regs := ops.take (min n nreg)
  let ims := (leBytes nimm imm.toNat).take (n - nreg)
  decide (n = 0) || (kindsOk (ks.take (regBytes f regs).length) (regBytes f regs)
    && [(0 : Byte), 1, 0xFF].any (fun b =>
      let full := if regs.length < nreg then regs ++ List.replicate (nreg - 1 - regs.length) 0 ++ [if nimm = 0 then b else 0] else regs
      let val := if ims.length < nimm then ims ++ [b] else ims
      extraOk op px full (BitVec.ofNat 32 (leNat val)) (insnLen px f)))

/-- The encoding faults of an instruction of which the store holds the first `avail` bytes: bytes past 0xFFFF raise none of their own, those
that the store holds are looked at, and without an opcode byte the prefixes alone can fault (R73, R93, R110, R117). -/
def fetchedFaults (avail op : Nat) (px : List Prefix) (ops : List Byte) (imm : W32) : List Nat :=
  if opFound avail px then
    match opSig op with
    | none => [1]
    | some (f, ks) =>
      if insnLen px f ≤ avail then encFaults op px ops imm
      else (if px.all (prefixOk op f) && partOk op f ks px ops imm (avail - ((px.map prefixLen).sum + 1)) then [] else [1]) ++ (if prefixDup px then [2] else []) ++ (if insnLen px f > 16 then [3] else [])
  else
    let ps := prefixesWithin avail px
    (if ps.all (fun e => !e.2 || payloadOk e.1) then [] else [1]) ++ (if prefixDup (ps.map (·.1)) then [2] else [])
      ++ (if 15 < (px.map prefixLen).sum ∧ 15 < avail then [3] else [])

/-- The slot of an opcode (R73). -/
def opSlot (op : Nat) : Slot4 :=
  if op < 0x40 then .S else if op < 0x80 then .V else if op < 0xA0 then .M else if op < 0xD0 then .X
  else if op < 0xD8 then .S else if op = 0xDD then .M else .X

/-- Read the prefixes at the head of a byte string: the prefixes and the rest; none when a reserved prefix stands there or the bytes
end (R73, R113). -/
def takePrefixes : Nat → List Byte → Option (List Prefix × List Byte)
  | 0, _ => none
  | _ + 1, [] => none
  | fuel + 1, b :: r =>
    if b.toNat < 0xE0 then some ([], b :: r)
    else if b.toNat < 0xE8 then (takePrefixes fuel r).map (fun (ps, q) => (.guard false (b.truncate 3) :: ps, q))
    else if b.toNat < 0xF0 then (takePrefixes fuel r).map (fun (ps, q) => (.guard true (b.truncate 3) :: ps, q))
    else match b.toNat, r with
      | 0xF0, r => (takePrefixes fuel r).map (fun (ps, q) => (.wide :: ps, q))
      | 0xF1, m :: n :: k :: r => (takePrefixes fuel r).map (fun (ps, q) => (.shape m n k :: ps, q))
      | 0xF2, x :: r => (takePrefixes fuel r).map (fun (ps, q) => (.sparsity x :: ps, q))
      | 0xF3, x :: r => (takePrefixes fuel r).map (fun (ps, q) => (.rounding x :: ps, q))
      | 0xF4, x :: r => (takePrefixes fuel r).map (fun (ps, q) => (.stationarity x :: ps, q))
      | _, _ => none

/-- The length of the instruction that the bytes begin with, when it decodes without ILLEGAL_ENCODING, PREFIX_CONFLICT and
LENGTH_OVERFLOW and does not run past the bytes given (R128). -/
def decodeLen (bs : List Byte) : Option Nat :=
  match takePrefixes 17 bs with
  | none => none
  | some (_, []) => none
  | some (px, op :: r) =>
    match opSig op.toNat with
    | none => none
    | some (f, _) =>
      let n := formLen f (isWide px)
      let nreg := match f with | .C => 2 | .D => 1 | .J => 0 | _ => n
      let ops := r.take nreg
      let imm : W32 := BitVec.ofNat 32 (leNat ((r.take n).drop nreg))
      if r.length < n then none
      else if (encFaults op.toNat px ops imm).isEmpty then some (insnLen px f) else none

end Sys2Proof.Machine
end

