-- ==== Sys2Proof/Machine/Waits.lean ====
section
/-! DEFINITION. Abandoning a wait (R81, R106, R139, R214) and entering FAULTED (R105, R106, R109, R110). -/

namespace Sys2Proof.Machine

/-- Whether ARRIVED covers THRMASK (R296). -/
def BarSlot.covered (b : BarSlot) : Bool := b.arrived &&& b.mask == b.mask

/-- A barrier slot of a core. -/
def Core.bar (k : Core) (n : Nat) : BarSlot := tabGet {} k.sync.bars n
/-- Replace a barrier slot. -/
def Core.setBar (k : Core) (n : Nat) (b : BarSlot) : Core := k.setSync { k.sync with bars := tabPut k.sync.bars n b }

/-- Ring `n` of a core. -/
def Core.ring (k : Core) (n : Nat) : Ring := tabGet {} k.sync.rings n
/-- Binding `n` of a core. -/
def Core.bind (k : Core) (n : Nat) : Bind := tabGet {} k.sync.binds n
/-- Matrix operations of a thread still incomplete (R137). -/
def Core.meCount (k : Core) (t : BitVec 2) : Nat := (k.me.queue.filter (fun o => o.thr == t)).length

/-- Whether the condition that a thread waits for holds (R80, R139). -/
def waitHolds (s : State) (c : CoreId) (t : BitVec 2) (w : Wait) : Bool :=
  let k := s.core c
  match w.kind with
  | 1 => (k.portHead w.index).isSome
  | 2 => k.portFree w.index
  | 3 => decide (k.meCount t ≤ w.index)
  | 4 => !(k.thread t).records.isEmpty
  | 5 => (k.ring w.index).wr != (k.ring w.index).rd
  | 6 => let b := k.bind w.index; b.state != 1 && (b.state != 2 || b.credit != 0)
  | 7 => decide (w.arg ≤ bits (k.acnt w.index) 31 0)
  | 8 => w.done
  | 9 => w.done
  | 10 => (k.thread t).claims.all (fun x => x.answer != 0)
  | _ => true

/-- Withdraw a thread's arrival at a barrier slot: its ARRIVED bit clears. The barrier plane learns of it with the core's next BARRIER_ARRIVAL
(R139). -/
def withdrawArrival (s : State) (c : CoreId) (t : BitVec 2) (n : Nat) : State :=
  let k := s.core c
  let b := k.bar n
  let b := { b with arrived := b.arrived &&& ~~~((1 : BitVec 4) <<< t.toNat) }
  s.setCore c (k.setBar n b)

/-- Withdraw the claims of a ROUTE: each target that may have granted one is told, and the slots of unanswered claims close by timeout
(R214, R432). -/
def withdrawClaims (s : State) (c : CoreId) (t : BitVec 2) : State :=
  let claims := (s.thread c t).claims
  let s := ((s.core c).slots.filter (fun e => e.2.isOpen && e.2.thr == t
      && (match e.2.kind with | .claim _ => true | _ => false))).foldl (fun s e => closeSlot s c e.1 false) s
  let s := (claims.filter (fun x => x.answer < 2)).foldl (fun s x => inject s 0 c (.core x.core) (.unclaim t x.ring x.j) [] true) s
  s.setThread c t { s.thread c t with claims := [] }

/-- Abandon the wait of a thread. A timeout also closes the slot of a far load or atomic (R432). -/
def abandonWait (s : State) (c : CoreId) (t : BitVec 2) (timeout : Bool) : State :=
  match (s.thread c t).wait with
  | none => s
  | some w =>
    let s :=
      if w.kind = 8 then (if w.done then s else withdrawArrival s c t w.index)
      else if w.kind = 10 then withdrawClaims s c t
      else if w.kind = 9 && timeout && !w.done then
        match w.slot with
        | some (n, _) => closeSlot s c n false
        | none => s
      else s
    s.setThread c t { s.thread c t with wait := none, claims := [] }

/-- A thread enters FAULTED: any wait is abandoned, earlier synchronous instructions complete, and the fault is recorded (R105, R106,
R109, R110). -/
def enterFaulted (s : State) (c : CoreId) (t : BitVec 2) (code : Nat) (pc : W16) (addr : W64) (async : Bool) : State :=
  let s := abandonWait s c t false
  let k := flushPend (s.core c) t
  let th := faultRecord (k.thread t) code pc addr async
  s.setCore c (k.setThread t { th with st := .faulted, wait := none, claims := [] })

/-- A fault of the thread reaches it at a boundary: recorded with ASYNC = 1, or MULTI when one stands. -/
def deliverFault (s : State) (c : CoreId) (t : BitVec 2) (code : Nat) (pc : W16) (addr : W64) : State :=
  if (s.thread c t).st == .faulted then s.setThread c t (faultRecord (s.thread c t) code pc addr true)
  else enterFaulted s c t code pc addr true

/-- The thread takes the asynchronous fault that reaches it next (R110). -/
def deliverNext (s : State) (c : CoreId) (t : BitVec 2) : State :=
  let th := s.thread c t
  match nextAsync th.async with
  | none => s
  | some f => deliverFault (s.setThread c t { th with async := th.async.erase f }) c t f.code.toNat f.pc f.addr

/-- A fault raised at issue: the thread enters FAULTED and the core reports it (R109). -/
def takeFault (s : State) (c : CoreId) (t : BitVec 2) (code : Nat) (pc : W16) (addr : W64) (cause : Nat := 0) : State :=
  faultReport (enterFaulted s c t code pc addr false) c code addr cause

end Sys2Proof.Machine
end

