-- ==== Sys2Proof/Machine/Issue.lean ====
section
/-! DEFINITION. The issue of one instruction by one thread (R73 to R91, R109 to R128): decode faults, guard, waits, effects, ticks, held-back
results, loops and the next PC, said once for every instruction. -/

namespace Sys2Proof.Machine

/-- A register write that an instruction makes, visible `lat` ticks after its issue (R77, R140). -/
structure Wr where
  lat  : Nat
  dst  : Dst
  val  : W512
  sovf : Bool := false
  vovf : Bool := false
deriving DecidableEq, Repr

/-- What an instruction sees at issue. -/
structure Iss where
  s    : State
  c    : CoreId
  t    : BitVec 2
  px   : List Prefix
  imm  : W32
  pc   : W16
  len  : Nat
  mode : Nat          -- rounding code (R59)
  sat  : Bool
deriving DecidableEq, Repr

/-- The issuing core. -/
def Iss.k (x : Iss) : Core := x.s.core x.c
/-- The issuing thread. -/
def Iss.th (x : Iss) : Thread := x.k.thread x.t

/-- What an instruction answers at issue: its effect with its register writes and a branch target; a wait; not ready (a full queue
or a router that accepts nothing, which is no wait); or faults. -/
inductive IssRes where
  | done (s : State) (ws : List Wr) (jump : Option Nat)
  | wait (s : State) (w : Wait)
  | notReady
  | fault (fs : List (Nat × W64))
  | faultAt (s : State) (code : Nat) (addr : W64)   -- a fault found by reading memory, whose counts and logs stand
deriving DecidableEq, Repr

/-! ## Latencies (R140) -/

def latAlu : Nat := 1
def latMul : Nat := 3
def latPred : Nat := 1
def latLoad : Nat := 6
def latValu : Nat := 2
def latVfma : Nat := 4
def latSfu : Nat := 8
def latSel : Nat := 8
def latIord : Nat := 2
def latBlock : Nat := 1

/-! ## Source operands (R118, R84, R85) -/

/-- The ports that source operands name, each once (R85). -/
def srcPorts : List Byte → List Nat
  | [] => []
  | b :: r =>
    let ps := srcPorts r
    if fileOf b = 5 ∧ ¬ ps.contains (indexOf b) then indexOf b :: ps else ps

/-- The value of a scalar source operand; a port gives its head. -/
def srcVal (k : Core) (t : BitVec 2) (b : Byte) : W64 :=
  let th := k.thread t
  match fileOf b with
  | 0 => th.readG (indexOf b)
  | 3 => (th.readLc (indexOf b)).zeroExtend 64
  | 4 => tabGet 0 k.sh (indexOf b)
  | 5 => (k.portHead (indexOf b)).getD 0
  | _ => 0

/-- ALTITUDE for each source port that is disabled or not read by the thread (R84). -/
def srcFaults (k : Core) (t : BitVec 2) (bs : List Byte) : List (Nat × W64) :=
  ((srcPorts bs).filter (fun p => !k.portOn p || k.portRd p != t.toNat)).map (fun p => (0x0A, BitVec.ofNat 64 (0x100 + p)))

/-- The first source port whose head has not entered (R80, R85). -/
def srcWait (k : Core) (bs : List Byte) : Option Nat := (srcPorts bs).find? (fun p => (k.portHead p).isNone)

/-- Pop each source port once. -/
def popPorts (k : Core) (bs : List Byte) : Core := (srcPorts bs).foldl (fun k p => k.setPort p ((k.port p).drop 1)) k

/-- ALIGNMENT of an address (R95). -/
def alignFault (a : W64) (n : Nat) : List (Nat × W64) := if a.toNat % n ≠ 0 then [(7, a)] else []

/-- The address of a memory instruction: O2 g plus the sign-extended immediate (R133). -/
def memAddr (x : Iss) (o2 : Byte) (imm : W32) : W64 := x.th.readG (indexOf o2) + immVal x.px imm

/-! ## Destinations -/

/-- ALTITUDE for a destination port that is disabled or not written by the thread (R84). -/
def dstFaults (k : Core) (t : BitVec 2) (b : Byte) : List (Nat × W64) :=
  if fileOf b = 5 ∧ (!k.portOn (indexOf b) || k.portWr (indexOf b) != t.toNat) then [(0x0A, BitVec.ofNat 64 (0x100 + indexOf b))] else []

/-- The destination port, when it is full (R85). -/
def dstWait (k : Core) (b : Byte) : Option Nat :=
  if fileOf b = 5 ∧ !k.portFree (indexOf b) then some (indexOf b) else none

/-- Take a destination: a port write reserves its entry at issue (R85). -/
def takeDst (k : Core) (b : Byte) : Core × Dst :=
  match fileOf b with
  | 0 => (k, .g (indexOf b))
  | 1 => (k, .v (indexOf b))
  | 2 => (k, .p (indexOf b))
  | 3 => (k, .lc (indexOf b))
  | 4 => (k, .sh (indexOf b))
  | _ =>
    ({ k.setPort (indexOf b) (k.port (indexOf b) ++ [{ ticket := k.ticket, val := none }]) with ticket := k.ticket + 1 },
      .q (indexOf b) k.ticket)

/-- A wait that begins now (R81). -/
def newWait (s : State) (kind index arg : Nat) : Wait := { kind := kind, index := index, arg := arg, begun := s.time }

/-- Read scalar sources and take a scalar destination, or answer the faults or the wait that stand in the way: `extra` are the faults
that the instruction raises whatever its sources hold, `late` those that need their values, which join the others once the values are
there (R110; log 16); the destination list is empty for an instruction without one. -/
def withOpsV (x : Iss) (extra : List (Nat × W64)) (late : List W64 → List (Nat × W64)) (dsts srcs : List Byte)
    (body : Core → List W64 → List Dst → IssRes) : IssRes :=
  let k := x.k
  let faults := extra ++ dsts.flatMap (dstFaults k x.t) ++ srcFaults k x.t srcs
    ++ (if (srcWait k srcs).isNone then late (srcs.map (srcVal k x.t)) else [])
  if !faults.isEmpty then .fault faults
  else
    match srcWait k srcs with
    | some p => .wait x.s (newWait x.s 1 p 0)
    | none =>
      match dsts.findSome? (dstWait k) with
      | some p => .wait x.s (newWait x.s 2 p 0)
      | none =>
        let vals := srcs.map (srcVal k x.t)
        let k := popPorts k srcs
        let (k, ds) := dsts.foldl (fun (kd : Core × List Dst) b => let (k, d) := takeDst kd.1 b; (k, kd.2 ++ [d])) (k, [])
        body k vals ds

/-- `withOpsV` for an instruction none of whose faults needs a value. -/
def withOpsF (x : Iss) (extra : List (Nat × W64)) (dsts srcs : List Byte) (body : Core → List W64 → List Dst → IssRes) : IssRes :=
  withOpsV x extra (fun _ => []) dsts srcs body

/-- `withOpsF` for an instruction without further faults. -/
def withOps (x : Iss) (dsts srcs : List Byte) (body : Core → List W64 → List Dst → IssRes) : IssRes := withOpsF x [] dsts srcs body

/-- An instruction that computes one scalar result from scalar sources. -/
def scalarRes (x : Iss) (lat : Nat) (d : Byte) (srcs : List Byte) (f : List W64 → W64) : IssRes :=
  withOps x [d] srcs (fun k vals ds =>
    .done (x.s.setCore x.c k) (ds.map (fun d => { lat := lat, dst := d, val := (f vals).zeroExtend 512 })) none)

/-! ## Loops (R88, R91, R128, R129) -/

/-- Offer the issue of the instruction at `pc` to the active loops, latest started first: the thread with its counters and loops, and the
loop-back target (R128). -/
def offerLoops (pc : W16) : Thread → List Loop → List Loop → Thread × List Loop × Option W16
  | th, [], kept => (th, kept.reverse, none)
  | th, l :: r, kept =>
    if l.last = pc.toNat then
      match l.ring with
      | none =>
        let n := th.readLc l.lc.toNat - 1
        let th := th.writeLc l.lc.toNat n
        if n ≠ 0 then (th, kept.reverse ++ l :: r, some l.head) else offerLoops pc th r kept
      | some _ =>
        let th := th.writeLc l.lc.toNat (th.readLc l.lc.toNat + 1)
        if l.ended then offerLoops pc th r kept else (th, kept.reverse ++ l :: r, some l.head)
    else offerLoops pc th r (l :: kept)

/-! ## Finishing an issue -/

/-- The number of a slot, for the list of the cycle's grants. -/
def Slot4.no : Slot4 → Nat
  | .S => 0
  | .V => 1
  | .M => 2
  | .X => 3

/-- A slot's priority pointer (R75). -/
def Core.ptr (k : Core) : Slot4 → BitVec 2
  | .S => k.ptrS
  | .V => k.ptrV
  | .M => k.ptrM
  | .X => k.ptrX

/-- The grants of the cycle in which a grant of slot `sl` to thread `t` falls: those listed, or none when the thread or the slot has had its
grant of that cycle already, so that a next cycle has begun (R74, R75; log 121). -/
def Core.cycle4 (k : Core) (sl : Slot4) (t : BitVec 2) : List (BitVec 2 × Nat) :=
  if k.granted.any (fun g => g.1 == t || g.2 == sl.no) then [] else k.granted

/-- The slot's priority pointer moves to the thread after the one granted, and the grant is listed in its cycle (R75). -/
def movePtr (k : Core) (sl : Slot4) (t : BitVec 2) : Core :=
  let k := { k with granted := k.cycle4 sl t ++ [(t, sl.no)] }
  match sl with
  | .S => { k with ptrS := t + 1 }
  | .V => { k with ptrV := t + 1 }
  | .M => { k with ptrM := t + 1 }
  | .X => { k with ptrX := t + 1 }

/-- Complete an issue: the tick advances, results are held back to their completion ticks, the PC moves on or jumps or loops back, and a
waiting thread is RUNNING again (R76 to R79, R106, R127, R128). A thread that its own instruction stopped stays stopped, and one that its own
instruction parked was RUNNING before. A LOOP of count zero that is itself the last instruction of an active loop's body goes on after the skipped
body, and that loop does not go back with it: its jump comes first (DEDUCED, log 125). -/
def finishIssue (s : State) (x : Iss) (sl : Slot4) (ws : List Wr) (jump : Option Nat) : State :=
  let k := movePtr (s.core x.c) sl x.t
  let th := k.thread x.t
  let tick := th.tick
  let pend := ws.foldl (fun ps w => pendInsert
    { due := tick + BitVec.ofNat 64 w.lat, dst := w.dst, val := w.val, pc := x.pc, sovf := w.sovf, vovf := w.vovf, rng := x.th.rngS } ps) th.pend
  let (th, loops, back) := offerLoops x.pc th th.loops []
  let next := match jump with
    | some a => a
    | none => (back.map BitVec.toNat).getD (x.pc.toNat + x.len)
  let st := if th.st = .waiting then .running else th.st
  let from_ := if st = .parked then .running else th.parkedFrom
  let th := { th with tick := tick + 1, pend := pend, loops := loops, pc := BitVec.ofNat 16 next, past := decide (0x10000 ≤ next), st := st,
                      parkedFrom := from_, wait := none, issued := th.issued + 1 }
  s.setCore x.c (retire (k.setThread x.t th) x.t)

/-- Begin or continue a wait: the object may change, the time it began does not (R74, R81). -/
def enterWait (s : State) (c : CoreId) (t : BitVec 2) (w : Wait) : State :=
  let th := s.thread c t
  let w := match th.wait with
    | some o => { w with begun := o.begun, spent := o.spent }
    | none => w
  s.setThread c t { th with st := .waiting, wait := some w }

/-- First 8 bytes of the instruction at `pc` as THR_FADDRn records them: beyond the instruction's own bytes those of the store, and
zero beyond 0xFFFF (R111, R549). -/
def firstBytes (k : Core) (pc : W16) (bytes : List Byte) : W64 :=
  let own := bytes.take 8
  let rest := getBytes 0xFF k.istore.data (pc.toNat + own.length) (8 - own.length)
  BitVec.ofNat 64 (leNat ((own ++ rest).take (0x10000 - pc.toNat)))

/-- The bytes of an instruction. -/
def insnBytes (px : List Prefix) (op : Nat) (ops : List Byte) (imm : W32) : List Byte :=
  px.flatMap prefixBytes ++ [BitVec.ofNat 8 op]
    ++ (match opSig op with | some (f, _) => operandBytes f (isWide px) ops imm | none => ops)

/-- Whether a guard lets the instruction take effect (R113, R115). -/
def guardHolds (th : Thread) (px : List Prefix) : Bool :=
  match guardOf px with
  | none => true
  | some (neg, p) => th.readP p.toNat != neg

/-- The cause of a BUS_ERROR at issue: a fresh uncorrectable error met in it, or why the answer that the thread waited for is an error. -/
def issueCause (s : State) (n : Nat) (th : Thread) : Nat :=
  if freshUes s n then 2
  else match th.wait with
    | some w => if w.kind = 10 then (if th.claims.any (fun c => c.answer == 3) then 1 else 0) else w.cause
    | none => 0

/-- Answer the fault an instruction raises at issue (R109, R110); the first `n` reports were made before it. -/
def issueFault (s : State) (x : Iss) (sl : Slot4) (fs : List (Nat × W64)) (n : Nat := s.err.reports.length) : State :=
  match lowestFault fs with
  | none => s
  | some (code, addr) =>
    let cause := if code = 9 then issueCause s n x.th else 0
    let s := if code = 9 then stampUes s n (s.core x.c).place else s
    let s := s.setCore x.c (movePtr (s.core x.c) sl x.t)
    takeFault s x.c x.t code x.pc addr cause

/-- What `issue` hands an instruction's own meaning. -/
def issCtx (s : State) (i : Site) (op : Nat) (imm : W32) : Iss :=
  let th := s.thread i.core i.thr
  let len := match opSig op with | some (f, _) => insnLen i.px f | none => (i.px.map prefixLen).sum + 1
  let (mode, sat) := match roundingOf i.px with
    | some b => (bits b 2 0, b.getLsbD 3)
    | none => (bits th.arith 2 0, th.arith.getLsbD 3)
  { s := s, c := i.core, t := i.thr, px := i.px, imm := imm, pc := th.pc, len := len, mode := mode, sat := sat }

/-- Fetch the bytes of an instruction from the store: whether a word of them cannot be read, with the counts, logs and reports of the
reads (R342, R344). A store with no word under test and no remap entry reads clean. -/
def fetchBytes (s : State) (c : CoreId) (pc len : Nat) : Bool × State :=
  let k := s.core c
  if k.istore.chk.isEmpty && (k.inst 1).remap.isEmpty then (false, s)
  else
    let (_, bads, m, i) := readBytes 0xFF k.istore (k.inst 1) pc (min len (0x10000 - pc))
    (!bads.isEmpty, reportUes (s.setCore c ({ k with istore := m }.setInst 1 i)) c bads)

/-! ## Slot arbitration (R73 to R75) -/

/-- The prefixes and the opcode that stand at a thread's PC in the instruction store; none where no opcode byte is found (R73). -/
def nextOpcode (k : Core) (th : Thread) : Option (List Prefix × Nat) :=
  let n := if th.past then 0 else 0x10000 - th.pc.toNat
  match takePrefixes 17 (getBytes 0xFF k.istore.data th.pc.toNat (min 17 n)) with
  | some (px, op :: _) => if opFound n px then some (px, op.toNat) else none
  | _ => none

/-- Whether an opcode's unit has no free queue entry: the matrix queue for slot M, the FILL and COPY unit's for its four instructions. A
thread is not ready with such an instruction, which is no wait (R173, R226). -/
def queueFull (k : Core) (op : Nat) : Bool :=
  (decide (0x80 ≤ op) && decide (op ≤ 0x9F) && decide (8 ≤ k.me.queue.length))
    || ((op == 0xBC || op == 0xBD || op == 0xD8 || op == 0xD9) && decide (4 ≤ k.fcq.length))

/-- Whether an opcode may send a packet whose acceptance by the router its issue waits for (R255). -/
def mayPost (op : Nat) : Bool := (decide (0xA8 ≤ op) && decide (op ≤ 0xAC)) || op == 0xB0 || op == 0xB1 || op == 0xB8 || op == 0xB9

/-- Whether a thread is ready for a slot: the instruction at its PC is one of the slot's, and the thread is RUNNING, or WAITING with its
condition holding. One whose instruction finds its queue full, or that may need a router that accepts nothing more, counts as not ready
(R73, R74, R173, R226, R255; log 121). -/
def readyFor (s : State) (c : CoreId) (t : BitVec 2) (sl : Slot4) : Bool :=
  let k := s.core c
  let th := k.thread t
  let op := nextOpcode k th
  (op.map (fun o => opSlot o.2)).getD .S == sl
    && (match th.st with
        | .running => true
        | .waiting => th.wait.any (waitHolds s c t)
        | _ => false)
    && !th.asyncDue
    && (match op with
        | some (_, o) => !queueFull k o && (!mayPost o || (routerAccepts s c 0 1 && routerAccepts s c 2 1 && routerAccepts s c 3 2))
        | none => true)

/-- The threads that a slot's grant looks at before thread `t`: from the pointer upward, from thread 3 on to thread 0 (R75). -/
def ahead (ptr t : BitVec 2) : List (BitVec 2) := ([0, 1, 2, 3].map (fun j => ptr + j)).takeWhile (fun u => u != t)

/-- Whether a slot grants a thread rather than another that is ready for it and stands nearer to the pointer. A thread that has issued in the
present cycle is not ready in it (R74, R75). -/
def slotGrants (s : State) (c : CoreId) (t : BitVec 2) (sl : Slot4) : Bool :=
  let k := s.core c
  (ahead (k.ptr sl) t).all (fun u => (k.cycle4 sl t).any (fun g => g.1 == u) || !readyFor s c u sl)

/-- The slot that an instruction competes for: its opcode's, or S where no opcode byte is found (R73). -/
def issueSlot (th : Thread) (px : List Prefix) (op : Nat) : Slot4 :=
  if opFound (if th.past then 0 else 0x10000 - th.pc.toNat) px then opSlot op else .S

/-- The issue of one instruction: nothing while the thread may not issue; encoding faults whatever the guard; a fetch past 0xFFFF; a
guarded-false instruction consumes its tick and does nothing else; otherwise the instruction's own meaning (R74, R87, R93). A fetch past
0xFFFF and one that cannot be read fault whatever the guard, which no opcode byte need follow: DEDUCED, log 126. An asynchronous fault that the
thread must take before this issue is taken in its place (R223). A thread that the slot does not grant does nothing, but for beginning a wait,
which needs no grant (R74, R75). -/
def issue (s : State) (i : Site) (op : Nat) (ops : List Byte) (imm : W32) (body : Iss → IssRes) : Res :=
  if !isCore i.core then .fault .noSuchCore
  else
    let th := s.thread i.core i.thr
    if !s.clocked || !(th.st == .running || th.st == .waiting) then .next s
    else if th.asyncDue then .next (deliverNext s i.core i.thr)
    else
      let s0 := s
      let x := issCtx s i op imm
      let (bad, s) := fetchBytes s i.core x.pc.toNat x.len
      let x := { x with s := s }
      let avail := if th.past then 0 else 0x10000 - x.pc.toNat
      let sl := issueSlot th i.px op
      let grant : State → Res := fun t => .next (if slotGrants s0 i.core i.thr sl then t else s0)
      let enc := fetchedFaults avail op i.px ops imm
      let bytes := insnBytes i.px op ops imm
      let past := th.past || decide (x.pc.toNat + x.len > 0x10000)
      let faults := if bad && !th.past then [(9, x.pc.zeroExtend 64)] else enc.map (fun code => (code, firstBytes (s.core i.core) x.pc bytes))
        ++ (if past then [(0x0D, (0x10000 : W64))] else [])
      let n := s0.err.reports.length
      if !faults.isEmpty then grant (issueFault s x sl faults n)
      else if !guardHolds th i.px then grant (finishIssue s x sl [] none)
      else if queueFull (s.core i.core) op then .next s0
      else match body x with
        | .done s' ws jump => grant (finishIssue s' x sl ws jump)
        | .wait s' w => .next (enterWait s' i.core i.thr w)
        | .notReady => .next s0
        | .fault fs => grant (issueFault s x sl fs n)
        | .faultAt s' code addr => grant (issueFault s' x sl [(code, addr)] n)

end Sys2Proof.Machine
end

