-- ==== Sys2Proof/Machine/Tiles.lean ====
section
/-! DEFINITION. The tile file (R141 to R148, R153), and the issue of the matrix class (R131, R144 to R165, R173): checks at issue, then one
matrix-queue entry. -/

namespace Sys2Proof.Machine

/-! ## The configuration word (R145, R146) -/

/-- Configuration of a tile at placement creation (R145). -/
def cfgReset (n : Nat) : W64 := if n < 16 then 0x37CF8000 else 0x07CF8000
/-- A tile at placement creation. -/
def tileInit (n : Nat) : Tile := { cfg := cfgReset n, live := cfgReset n }
/-- Tile `n` of an engine. -/
def Me.tile (m : Me) (n : Nat) : Tile := tabGet (tileInit n) m.tiles n
/-- Replace a tile. -/
def Me.setTile (m : Me) (n : Nat) (t : Tile) : Me := { m with tiles := tabPut m.tiles n t }

/-- Tiles 16 to 23 are accumulators (R141). -/
def isAcc (n : Nat) : Bool := decide (16 ≤ n)
def cfgStride (w : W64) : Nat := bits w 63 48
def cfgExpbase (w : W64) : Nat := bits w 47 34
def cfgEo (w : W64) : Int := toSigned 8 (bits w 47 40)
def cfgOwner (w : W64) : Nat := bits w 33 32
def cfgFmt (w : W64) : Nat := bits w 31 28
def cfgCmp (w : W64) : Bool := w.getLsbD 27
def cfgRows (w : W64) : Nat := bits w 26 22 + 1
def cfgCols (w : W64) : Nat := bits w 21 15 + 1

/-- Whether an operand format is group-scaled. -/
def fmtGroup (f : Nat) : Bool := f == 6 || f == 7 || f == 8
/-- Element width of an operand format, 0 when the code is invalid (R146). -/
def fmtW (f : Nat) : Nat :=
  match f with
  | 2 => 4
  | 3 => 8
  | 4 => 16
  | 6 => 4
  | 7 => 8
  | 8 => 16
  | _ => 0
/-- Bits of an element in an accumulator's memory form, 0 when the code is invalid (R146). -/
def formW (f : Nat) : Nat :=
  match f with
  | 0 => 64
  | 2 => 4
  | 3 => 8
  | 4 => 16
  | 5 => 32
  | _ => 0
/-- Bits of an element of tile `n` in local memory. -/
def memW (n : Nat) (w : W64) : Nat := if isAcc n then formW (cfgFmt w) else fmtW (cfgFmt w)
/-- Column capacity of a tile (R147). -/
def colCap (n : Nat) (w : W64) : Nat :=
  let c := if isAcc n then 32 else match fmtW (cfgFmt w) with | 4 => 64 | 8 => 32 | _ => 16
  if cfgCmp w then c / 2 else c
/-- Full-width memory row of a tile (R146). -/
def fullRow (n : Nat) (w : W64) : Nat := if isAcc n then 32 * formW (cfgFmt w) / 8 else if cfgCmp w then 16 else 32
/-- Row pitch in local memory (R145, R159). -/
def pitch (n : Nat) (w : W64) : Nat := if cfgStride w = 0 then fullRow n w else cfgStride w
/-- Bytes that `cols` elements take in a memory row; an odd F4 row ends in half a byte. -/
def rowBytes (n : Nat) (w : W64) (cols : Nat) : Nat := (cols * memW n w + 7) / 8

/-- The checks of R147 on the word alone; `n` is the tile. -/
def cfgOk (n : Nat) (w : W64) : Bool :=
  let f := cfgFmt w
  memW n w != 0 && decide (cfgCols w ≤ colCap n w) && !(cfgCmp w && (isAcc n || fmtW f == 16)) && cfgStride w % 16 == 0
    && (isAcc n || !fmtGroup f || cfgStride w % 32 == 0)
    && (cfgStride w == 0 || decide (rowBytes n w (cfgCols w) ≤ cfgStride w))
    && (isAcc n || fmtGroup f || cfgExpbase w == 0) && bits w 14 0 == 0 && (!isAcc n || bits w 39 34 == 0)
    && !(isAcc n && f == 2 && cfgCols w % 2 == 1)

/-! ## Tile contents (R141 to R143, R153) -/

/-- Byte `j` of row `r` of an operand tile; a tile not in use reads zero. -/
def Tile.byteAt (t : Tile) (r j : Nat) : Byte := if t.inUse then tabGet 0 t.bytes (32 * r + j) else 0
/-- Exponent byte `g` of row `r`. -/
def Tile.expAt (t : Tile) (r g : Nat) : Byte := if t.inUse then tabGet 0 t.exps (2 * r + g) else 0
/-- Accumulator element. -/
def Tile.accAt (t : Tile) (r c : Nat) : BitVec 40 := if t.inUse then tabGet 0 t.acc (32 * r + c) else 0
/-- Element `i` of row `r` of an operand tile as a fraction code (R32, R142). -/
def Tile.elem (t : Tile) (w r i : Nat) : Int :=
  match w with
  | 4 => toSigned 4 ((t.byteAt r (i / 2)).toNat / 16 ^ (i % 2))
  | 8 => toSigned 8 (t.byteAt r i).toNat
  | _ => toSigned 16 ((t.byteAt r (2 * i)).toNat + 256 * (t.byteAt r (2 * i + 1)).toNat)

/-- A tile about to be written: when it was not in use, everything else in it reads zero (R153). -/
def Tile.fresh (t : Tile) : Tile := if t.inUse then t else { t with inUse := true, bytes := [], exps := [], acc := [] }
/-- Write bytes into row `r` of an operand tile. -/
def Tile.putRow (t : Tile) (r : Nat) (bs : List Byte) : Tile := { t with bytes := putBytes 0 t.bytes (32 * r) bs }
/-- Write an exponent byte. -/
def Tile.putExp (t : Tile) (r g : Nat) (b : Byte) : Tile := { t with exps := tabSet 0 t.exps (2 * r + g) b }
/-- Write an accumulator element. -/
def Tile.putAcc (t : Tile) (r c : Nat) (x : BitVec 40) : Tile := { t with acc := tabSet 0 t.acc (32 * r + c) x }

/-- Offset of tile `n` in the tile file (R351). -/
def tileOff (n : Nat) : Nat := if n < 16 then 1088 * n else 17408 + 5120 * (n - 16)
/-- A stored byte of the tile file by offset, whatever the in-use flag holds (R351, R352). -/
def Me.rawByte (m : Me) (off : Nat) : Byte :=
  if off < 17408 then
    let t := m.tile (off / 1088)
    let o := off % 1088
    if o < 1024 then tabGet 0 t.bytes o else tabGet 0 t.exps (o - 1024)
  else
    let t := m.tile (16 + (off - 17408) / 5120)
    let o := (off - 17408) % 5120
    BitVec.ofNat 8 ((tabGet (0 : BitVec 40) t.acc (o / 5)).toNat / 256 ^ (o % 5))
/-- Tile `n` has been written: its entries leave the operand cache, and its latches drop (R177, R178). -/
def Me.wrote (m : Me) (n : Nat) : Me :=
  { m with cache := m.cache.filter (fun e => e.tile != n),
           latchA := m.latchA.filter (fun e => e.1 != n),
           latchB := m.latchB.filter (fun e => e.1 != n) }

/-- Replace a stored byte of the tile file. -/
def Me.setRawByte (m : Me) (off : Nat) (b : Byte) : Me :=
  if off < 17408 then
    let n := off / 1088
    let t := m.tile n
    let o := off % 1088
    (m.setTile n (if o < 1024 then { t with bytes := tabSet 0 t.bytes o b } else { t with exps := tabSet 0 t.exps (o - 1024) b })).wrote n
  else
    let n := 16 + (off - 17408) / 5120
    let t := m.tile n
    let o := (off - 17408) % 5120
    let old := (tabGet (0 : BitVec 40) t.acc (o / 5)).toNat
    let p := 256 ^ (o % 5)
    (m.setTile n { t with acc := tabSet 0 t.acc (o / 5) (BitVec.ofNat 40 (old - old / p % 256 * p + b.toNat * p)) }).wrote n

/-- Word `w` of the tile file as stored. -/
def Me.rawWord (m : Me) (w : Nat) : W64 := BitVec.ofNat 64 (leNat ((List.range 8).map (fun j => m.rawByte (8 * w + j))))
/-- Replace a word of the tile file. -/
def Me.setRawWord (m : Me) (w : Nat) (d : W64) : Me :=
  (List.range 8).foldl (fun (m : Me) j => m.setRawByte (8 * w + j) (BitVec.ofNat 8 (bits d (8 * j + 7) (8 * j)))) m
/-- The eight bits stored raw with word `w`, where all of them are. -/
def Me.rawBits (m : Me) (w : Nat) : Option Byte :=
  if (List.range 8).all (fun j => (tabLook m.parity (8 * w + j)).isSome) then
    some (BitVec.ofNat 8 (((List.range 8).map (fun j => flagAt (tabGet false m.parity (8 * w + j)) j)).sum))
  else none
/-- Store eight bits with word `w`. -/
def Me.setRawBits (m : Me) (w : Nat) (c : Byte) : Me :=
  { m with parity := (List.range 8).foldl (fun p j => tabPut p (8 * w + j) (c.getLsbD j)) m.parity }
/-- The parity bits that belong to a word. -/
def parityBits (d : W64) : Byte :=
  BitVec.ofNat 8 (((List.range 8).map (fun j => flagAt (Config.tileParity (BitVec.ofNat 8 (bits d (8 * j + 7) (8 * j)))) j)).sum)
/-- Read word `w` of the tile file through its code: byte parity detects, and a remap entry that serves the word holds it under SEC-DED (R342,
R356). DEDUCED: log 152. -/
def Me.wordRead (m : Me) (i : Inst) (w : Nat) : WordRead :=
  let d := m.rawWord w
  if (remapHits i (8 * w)).isEmpty then
    if (List.range 8).all (fun j => match tabLook m.parity (8 * w + j) with | some p => Config.tileParity (m.rawByte (8 * w + j)) == p | none => true)
    then .ok d else .bad
  else match m.rawBits w with
    | none => .ok d
    | some c => secDecode d c
/-- Whether a read finds nothing that can be used. -/
def WordRead.lost : WordRead → Bool
  | .bad => true
  | .poisoned => true
  | _ => false
/-- The offset of the first word of tile `n`, in use, that cannot be read (R342). -/
def Me.parityBad (m : Me) (i : Inst) (n : Nat) : Option Nat :=
  if (m.tile n).inUse then
    (m.parity.find? (fun e => decide (tileOff n ≤ e.1) && decide (e.1 < tileOff (n + 1)) && (m.wordRead i (e.1 / 8)).lost)).map
      (fun e => e.1 / 8 * 8)
  else none

/-- Store a word with its own code, over whatever was stored raw. -/
def Me.cleanWord (m : Me) (w : Nat) (d : W64) : Me :=
  let m := m.setRawWord w d
  { m with parity := tabClear (8 * w) (8 * w + 8) m.parity }
/-- An operation that uses tile `n` reaches the words that remap entries serve: INT_RSTAT shows entries that matched besides the one that serves
a word, and an error that SEC-DED corrects is counted, logged and put right (R356, R357). DEDUCED: log 152. -/
def Core.serveTile (k : Core) (n : Nat) : Core :=
  (List.range 8).foldl (fun (k : Core) e =>
    let r := tabGet ({} : Remap) (k.inst 2).remap e
    let w := r.addr.toNat / 8
    if r.v && decide (tileOff n ≤ 8 * w) && decide (8 * w < tileOff (n + 1)) then
      let i := instHit (k.inst 2) w
      match k.me.wordRead i w with
      | .corr d b => (k.setMe (k.me.cleanWord w d)).setInst 2 (instCorr i (8 * w) b)
      | _ => k.setInst 2 i
    else k) k

/-- Forget raw parity in `[lo, hi)`: those bytes have been written with their own parity. -/
def Me.cleanParity (m : Me) (lo hi : Nat) : Me := { m with parity := tabClear lo hi m.parity }

/-- Tile `n` has been written in the ranges given, each an offset in the tile and a length: their bytes carry their own parity, and no copy of
the tile outlives the write (R177, R178, R342). -/
def Me.wroteIn (m : Me) (n : Nat) (rs : List (Nat × Nat)) : Me :=
  (rs.foldl (fun (m : Me) r => m.cleanParity (tileOff n + r.1) (tileOff n + r.1 + r.2)) m).wrote n

/-- The whole of a tile, as a range of it. -/
def wholeTile (n : Nat) : List (Nat × Nat) := [(0, tileOff (n + 1) - tileOff n)]

/-! ## Issue into the matrix queue (R173) -/

/-- Owner of a tile as issue checks see it (R144, R155). -/
def Me.owner (m : Me) (n : Nat) : Nat := cfgOwner (m.tile n).cfg

/-- TILE_NOT_OWNED for the lowest tile of a list that the thread does not own (R155, R549). -/
def ownFault (m : Me) (t : BitVec 2) (ns : List Nat) : List (Nat × W64) :=
  match (List.range 24).find? (fun n => ns.contains n && m.owner n != t.toNat) with
  | some n => [(4, BitVec.ofNat 64 n)]
  | none => []

/-- Enter an operation in the matrix queue, its mode, SAT and generator sequence taken at issue (R51, R59, R173). -/
def enqueueMe (x : Iss) (k : Core) (kind : MeKind) : Core :=
  let op : MeOp := { id := k.me.nextId, thr := x.t, pc := x.pc, kind := kind, mode := BitVec.ofNat 3 x.mode, sat := x.sat,
                     epoch := (k.thread x.t).rngEpoch, ord := x.th.issued, reuse := BitVec.ofNat 4 (bits (stationarityOf x.px) 3 0) }
  k.setMe { k.me with queue := k.me.queue ++ [op], nextId := k.me.nextId + 1 }

/-- An M-slot instruction: not ready while the queue is full; its faults; else its entry. -/
def meIssue (x : Iss) (k : Core) (faults : List (Nat × W64)) (kind : MeKind) : IssRes :=
  if 8 ≤ k.me.queue.length then .notReady
  else if !faults.isEmpty then .fault faults
  else .done (x.s.setCore x.c (enqueueMe x k kind)) [] none

/-- A thread that may still use a tile of its own: RUNNING, WAITING or PARKED (R147). -/
def liveThread (th : Thread) : Bool := th.st == .running || th.st == .waiting || th.st == .parked

/-- TCFG: issue checks see the new word at once; the engine applies it in queue order (R144, R147, R148). -/
def execTcfg (i : Site) (o1 o2 : Byte) (s : State) : Res :=
  issue s i 0x80 [o1, o2] 0 (fun x =>
    withOps x [] [o2] (fun k vs _ =>
      let n := indexOf o1
      let w := vs.getD 0 0
      let m := k.me
      let own := m.owner n
      let busy := own != x.t.toNat && liveThread (k.thread (BitVec.ofNat 2 own))
      let faults := if !cfgOk n w || busy then [(5, BitVec.ofNat 64 n)] else []
      meIssue x (k.setMe (m.setTile n { m.tile n with cfg := if faults.isEmpty then w else (m.tile n).cfg })) faults
        (.tcfg n w (cfgOwner w != own))))

/-- TFREE: clears the in-use flags, and the fences, of the tiles of its mask (R154, R180). -/
def execTfree (i : Site) (imm : W32) (s : State) : Res :=
  issue s i 0x81 [] imm (fun x =>
    let mask := rawImm x.px imm
    let ns := (List.range 24).filter (fun n => mask / 2 ^ n % 2 == 1)
    meIssue x x.k (ownFault x.k.me x.t ns) (.tfree (BitVec.ofNat 24 mask)))

/-- The shape of a tile transfer: rows and columns, from the prefix when there is one (R149). -/
def transferShape (px : List Prefix) (n : Nat) (w : W64) : Nat × Nat :=
  match shapeOf px with
  | some (m, nn, k) => (bits m 6 0 + 1, if isAcc n then bits nn 6 0 + 1 else bits k 6 0 + 1)
  | none => (cfgRows w, cfgCols w)

/-- SHAPE_FAULT for an extent beyond the tile's capacity (R149). -/
def shapeFault (n : Nat) (w : W64) (sh : Nat × Nat) : List (Nat × W64) :=
  if 32 < sh.1 ∨ colCap n w < sh.2 then [(5, BitVec.ofNat 64 n)] else []

/-- The rows that a TLD or TST transfers: address and bytes (R159). -/
def tileRows (n : Nat) (w : W64) (a : W64) (rows cols : Nat) : List (W64 × Nat) :=
  (List.range rows).map (fun r => (a + BitVec.ofNat 64 (r * pitch n w), rowBytes n w cols))

/-- Bytes that a group of 32 logical elements takes in local memory (R36, R160). -/
def groupBytes (w : W64) : Nat := let g := 4 * fmtW (cfgFmt w); if cfgCmp w then g / 2 else g

/-- The exponent bytes of a transfer: row, tile group and address (R160). -/
def tileExps (n : Nat) (w : W64) (a rows cols : Nat) : List (Nat × Nat × Nat) :=
  if isAcc n || !fmtGroup (cfgFmt w) then []
  else
    let g := groupBytes w
    (List.range rows).flatMap (fun r => (List.range ((rowBytes n w cols + g - 1) / g)).map (fun j =>
      (r, j, cfgExpbase w * 32 + (a + r * pitch n w + j * g) / g)))

/-- ADDRESS when a byte of the region or of its exponent shadow lies outside own local memory (R159, R549). -/
def tileAddrFault (n : Nat) (w a : W64) (rows cols : Nat) : List (Nat × W64) :=
  let exps := (tileExps n w a.toNat rows cols).map (fun e => (BitVec.ofNat 64 e.2.2, 1))
  match firstOutside (tileRows n w a rows cols ++ exps) with
  | some b => [(8, b)]
  | none => []

/-- What TLD and TST share: their checks and their entry (R155, R159). Shape, pitch and format are those of the configuration word at issue, also
behind a RESTTILES that is still queued and will restore another word (DESIGN CHOICE, log 128). -/
def transferIssue (x : Iss) (o1 o2 : Byte) (imm : W32) (kind : Nat → W64 → Nat → Nat → W64 → MeKind) : IssRes :=
  let n := indexOf o1
  let w := (x.k.me.tile n).cfg
  let a := memAddr x o2 imm
  let sh := transferShape x.px n w
  let al := if !isAcc n && fmtGroup (cfgFmt w) then 32 else 16
  let faults := ownFault x.k.me x.t [n] ++ shapeFault n w sh ++ (if a.toNat % al ≠ 0 then [(7, a)] else [])
    ++ tileAddrFault n w a sh.1 sh.2
  meIssue x x.k faults (kind n a sh.1 sh.2 w)

/-- TLD (R159). -/
def execTld (i : Site) (o1 o2 : Byte) (imm : W32) (s : State) : Res :=
  issue s i 0x82 [o1, o2] imm (fun x => transferIssue x o1 o2 imm .tld)

/-- TST (R159). -/
def execTst (i : Site) (o1 o2 : Byte) (imm : W32) (s : State) : Res :=
  issue s i 0x84 [o1, o2] imm (fun x => transferIssue x o1 o2 imm .tst)

/-! ## Convolution addresses (R163 to R165) -/

def convStride (p : W64) : Nat := bits p 63 62 + 1
def convDil (p : W64) : Nat := bits p 61 60 + 1
def convKw (p : W64) : Nat := bits p 59 57 + 1
def convKh (p : W64) : Nat := bits p 56 54 + 1
def convKw0 (p : W64) : Nat := bits p 53 51
def convKh0 (p : W64) : Nat := bits p 50 48
def convC (p : W64) : Nat := bits p 47 38
def convC0 (p : W64) : Nat := bits p 37 28
def convOw (p : W64) : Nat := bits p 27 18
def convOx0 (p : W64) : Nat := bits p 17 8

/-- Where element (r, i) comes from, in nibbles from the base operand; none for an element that loads zero (R164). `w` is the element
width, `pt` the row pitch in bytes. -/
def convOffset (p : W64) (w pt r i : Nat) : Option Int :=
  let j := convOx0 p + r
  let oy := j / convOw p
  let ox := j % convOw p
  let t := convC0 p + i
  let c := t % convC p
  let q := convKw0 p + t / convC p
  let kw := q % convKw p
  let kh := convKh0 p + q / convKw p
  let es : Int := (w / 4 : Nat)
  let pn : Int := (2 * pt : Nat)
  if convKh p ≤ kh then none
  else some ((oy * convStride p : Nat) * pn + ((ox : Int) - convOx0 p) * convStride p * convC p * es
    + convDil p * ((kh : Int) - convKh0 p) * pn + convDil p * ((kw : Int) - convKw0 p) * convC p * es + ((c : Int) - convC0 p) * es)

/-- The byte address and nibble of element (r, i), wrapped to 64 bits. -/
def convAddr (base p : W64) (w pt r i : Nat) : Option (W64 × Nat) :=
  (convOffset p w pt r i).map (fun o =>
    let n := 2 * (base.toNat : Int) + o
    (BitVec.ofInt 64 (n / 2), (n % 2).toNat))

/-- The elements of a region in row-major order. -/
def rowMajor (rows cols : Nat) : List (Nat × Nat) :=
  (List.range rows).flatMap (fun r => (List.range cols).map (fun i => (r, i)))

/-- Bytes that one element touches. -/
def elemBytes (w : Nat) : Nat := if w = 16 then 2 else 1

/-- The SHAPE_FAULT rules of TLDC (R165). -/
def convOk (w p : W64) : Bool :=
  !fmtGroup (cfgFmt w) && decide (convKw p ≤ 7) && decide (convKh p ≤ 7) && convC p != 0 && convOw p != 0
    && decide (convKw0 p < convKw p) && decide (convKh0 p < convKh p) && decide (convC0 p < convC p) && decide (convOx0 p < convOw p)
    && (fmtW (cfgFmt w) != 4 || (convC p % 2 == 0 && convC0 p % 2 == 0))

/-- TLDC (R163 to R165). -/
def execTldc (i : Site) (o1 o2 o3 : Byte) (s : State) : Res :=
  issue s i 0x83 [o1, o2, o3] 0 (fun x =>
    let n := indexOf o1
    let w := (x.k.me.tile n).cfg
    let early := ownFault x.k.me x.t [n] ++ shapeFault n w (transferShape x.px n w)
    withOpsF x early [] [o3] (fun k vs _ =>
      let p := vs.getD 0 0
      let base := x.th.readG (indexOf o2)
      let sh := transferShape x.px n w
      let ew := fmtW (cfgFmt w)
      let outside := if convOk w p then
          (rowMajor sh.1 sh.2).findSome? (fun (r, j) =>
            match convAddr base p ew (pitch n w) r j with
            | some (a, _) => if inLm a (elemBytes ew) then none else some (lmFirstOut a)
            | none => none)
        else none
      let faults := (if convOk w p then [] else [(5, BitVec.ofNat 64 n)])
        ++ (match outside with | some a => [(8, a)] | none => [])
      meIssue x k faults (.tldc n base p sh.1 sh.2 w)))

/-! ## MMA (R149 to R152) -/

/-- What MMA and MMAZ share (R150, R152, R155). SHAPE_MISMATCH records O1, the first operand as the spec counts operands (R111; log 28). Under
PATTERN 1 an A operand with CMP = 1, for which the spec lists no fault and gives no meaning, has its physical elements read as the logical
K (DESIGN CHOICE, log 127). -/
def mmaIssue (x : Iss) (o1 o2 o3 : Byte) (zero : Bool) : IssRes :=
  let m := x.k.me
  let na := indexOf o1
  let a := indexOf o2
  let b := indexOf o3
  let ca := (m.tile a).cfg
  let cb := (m.tile b).cfg
  let sp := sparsityOf x.px
  let pat := bits sp 7 4 == 1
  let mt := bits sp 3 0
  let wa := fmtW (cfgFmt ca)
  let wb := fmtW (cfgFmt cb)
  let logicalB := if cfgCmp cb then 2 * cfgCols cb else cfgCols cb
  let mismatch := (pat && !cfgCmp cb) || (!pat && (cfgCmp ca || cfgCmp cb)) || (pat && wa != wb)
  let (em, en, ek, shape, kBad) := match shapeOf x.px with
    | none => (cfgRows ca, cfgRows cb, cfgCols ca, ([] : List (Nat × W64)), cfgCols ca != logicalB)
    | some (pm, pn, pk) =>
      let em := bits pm 6 0 + 1
      let en := bits pn 6 0 + 1
      let ek := bits pk 6 0 + 1
      let physB := if pat then ek / 2 else ek
      let f : List (Nat × W64) :=
        if pat && ek % 2 == 1 then [(5, BitVec.ofNat 64 b)]
        else if 32 < em ∨ 32 < en then [(5, BitVec.ofNat 64 na)]
        else if colCap a ca < ek then [(5, BitVec.ofNat 64 a)]
        else if colCap b cb < physB then [(5, BitVec.ofNat 64 b)]
        else []
      (em, en, ek, f, false)
  let owned := ownFault m x.t ([na, a, b] ++ (if pat then [mt] else []))
  let faults := owned ++ shape ++ (if mismatch || kBad then [(6, BitVec.ofNat 64 na)] else [])
  meIssue x x.k faults (.mma na a b em en ek zero pat mt (BitVec.ofNat 2 (bits (stationarityOf x.px) 5 4)))

/-- MMA (R150). -/
def execMma (i : Site) (o1 o2 o3 : Byte) (s : State) : Res := issue s i 0x85 [o1, o2, o3] 0 (fun x => mmaIssue x o1 o2 o3 false)
/-- MMAZ (R150, R169). -/
def execMmaz (i : Site) (o1 o2 o3 : Byte) (s : State) : Res := issue s i 0x86 [o1, o2, o3] 0 (fun x => mmaIssue x o1 o2 o3 true)

/-! ## Images and row moves (R156 to R158, R162) -/

/-- Bytes of a SAVETILES image (R156). -/
def imageBytes : Nat := 58624

/-- The checks of an image address (R156). -/
def imageFaults (a : W64) : List (Nat × W64) :=
  (if a.toNat % 64 ≠ 0 then [(7, a)] else []) ++ (if inLm a imageBytes then [] else [(8, lmFirstOut a)])

/-- SAVETILES (R157). -/
def execSavetiles (i : Site) (o1 : Byte) (imm : W32) (s : State) : Res :=
  issue s i 0x87 [o1] imm (fun x => let a := memAddr x o1 imm; meIssue x x.k (imageFaults a) (.save a))

/-- RESTTILES (R158). -/
def execResttiles (i : Site) (o1 : Byte) (imm : W32) (s : State) : Res :=
  issue s i 0x88 [o1] imm (fun x => let a := memAddr x o1 imm; meIssue x x.k (imageFaults a) (.rest a))

/-- TRDV: O1 v is written when the operation completes (R132, R162). -/
def execTrdv (i : Site) (o1 o2 : Byte) (imm : W32) (s : State) : Res :=
  issue s i 0x89 [o1, o2] imm (fun x =>
    let raw := rawImm x.px imm
    meIssue x x.k (ownFault x.k.me x.t [indexOf o2]) (.trdv (indexOf o1) (indexOf o2) (raw % 32) (raw / 32 % 4)))

/-- TWRV: the register is read at issue (R132, R162). -/
def execTwrv (i : Site) (o1 o2 : Byte) (imm : W32) (s : State) : Res :=
  issue s i 0x8A [o1, o2] imm (fun x =>
    let raw := rawImm x.px imm
    meIssue x x.k (ownFault x.k.me x.t [indexOf o1]) (.twrv (indexOf o1) (raw % 32) (raw / 32 % 4) (x.th.readV (indexOf o2))))

end Sys2Proof.Machine
end

