-- ==== Sys2Proof/Machine/Banks.lean ====
section
/-! DEFINITION. The commons slices and HBM as memories (R233, R328 to R344): where a byte lies, the written-page bits, poison, codes, remap
entries, and reads and writes of ranges through them. -/

namespace Sys2Proof.Machine

/-! ## Commons slices (R233, R234) -/

/-- Offset within its slice of an offset in a die's commons: consecutive 256 B blocks rotate over the 32 slices. -/
def sliceOff (off : Nat) : Nat := off / 8192 * 256 + off % 256
/-- Slice number, 32 × die + slice, of an offset in a die's commons. -/
def sliceKey (die off : Nat) : Nat := 32 * die + off / 256 % 32
/-- Bytes of a slice. -/
def sliceSize : Nat := 0x400000
/-- The slice whose home core a core is (R234). -/
def homeSlice (c : CoreId) : Option Nat :=
  let row := bits c 10 6
  let col := bits c 5 0
  if row % 4 = 0 ∧ col % 12 = 0 ∧ col < 48 then some (32 * dieOf c + row + col / 12) else none

/-- A slice's memory. -/
def State.slice (s : State) (k : Nat) : EccMem := tabGet {} s.commons k
/-- A slice's integrity instance. -/
def State.sliceI (s : State) (k : Nat) : Inst := tabGet {} s.sliceInst k
/-- Replace a slice's memory and instance. -/
def State.setSlice (s : State) (k : Nat) (m : EccMem) (i : Inst) : State :=
  { s with commons := tabSet {} s.commons k m, sliceInst := tabSet {} s.sliceInst k i }

/-- Report the fresh uncorrectable errors of a slice (R344). -/
def reportSlice (s : State) (k : Nat) (bads : List (Nat × Bool)) : State :=
  (bads.filter (·.2)).foldl (fun s b => s.report
    { unit := unitId 6 k, cls := 2, code := 0, place := none, detail := BitVec.ofNat 64 (8 * b.1) }) s

/-- Read bytes of a slice. -/
def sliceRead (s : State) (k off len : Nat) : List Byte × List (Nat × Bool) × State :=
  let (bs, bads, m, i) := readBytes 0 (s.slice k) (s.sliceI k) off len
  (bs, bads, reportSlice (s.setSlice k m i) k bads)

/-- Write bytes of a slice. -/
def sliceWrite (s : State) (k off : Nat) (bs : List Byte) : List (Nat × Bool) × State :=
  let (bads, m, i) := writeBytes 0 (s.slice k) (s.sliceI k) off bs
  (bads, reportSlice (s.setSlice k m i) k bads)

/-! ## HBM units (R328 to R344) -/

/-- Key of a home 64 B unit: byte key divided by 64. -/
def unitOf (die off : Nat) : Nat := hbmKey die off / 64
/-- Key of a home 4 KiB page (R334). -/
def pageOf (die off : Nat) : Nat := hbmKey die off / 4096
/-- Instance number of an HBM channel: stack in [8:5], channel in [4:0] (R503). -/
def chanOf (die off : Nat) : Nat := (2 * die + dieChannel off / 32) * 32 + dieChannel off % 32
/-- Offset within its channel of a die-region offset (R329). -/
def chanOff (off : Nat) : Nat := off / 16384 * 256 + off % 256
/-- The die-region offset of a channel offset: the inverse of `chanOff` within die channel `h`. -/
def chanInv (h co : Nat) : Nat :=
  let hi := co / 256
  hi * 16384 + (h ^^^ (hi % 64)) * 256 + co % 256

/-- The data-space address of a home unit: the inverse of R331. -/
def State.unhome (s : State) (die off : Nat) : Nat × Nat :=
  match s.diePart die with
  | none => (die, off)
  | some p =>
    let c := tabGet {} s.set.parts p
    match c.region off with
    | none => (die, off)
    | some x =>
      let ds := c.dieList
      let n := ds.length
      match ds.findIdx? (· == die) with
      | none => (die, off)
      | some h =>
        let base := irOff x * gib
        let m := (off - base) / 256
        let q := m / n
        let r := m % n
        let st := (h + n - r) % n
        (ds.getD r die, base + 256 * (q * n + st) + off % 256)

/-- Tweak of a home unit: its data-space address shifted right by 6 (R340). -/
def State.tweak (s : State) (die off : Nat) : W64 :=
  let (d, o) := s.unhome die off
  BitVec.ofNat 64 ((0x10000000000 + d * hbmRegion + o) / 64)

/-- Number of the key that encrypts a home unit: the partition's, or the die's device key in the reserved range (R340). -/
def State.hbmKeyNo (s : State) (die off : Nat) : Nat :=
  if s.hbmReserved ≤ off then die
  else match s.diePart die with
    | some p => (tabGet {} s.parts p).memKey
    | none => die

/-- The integrity instance of an HBM channel. -/
def State.hbmI (s : State) (ch : Nat) : Inst := tabGet {} s.hbmInst ch
/-- Replace it. -/
def State.setHbmI (s : State) (ch : Nat) (i : Inst) : State := { s with hbmInst := tabSet {} s.hbmInst ch i }

/-- What a read of an HBM unit finds. -/
inductive UnitRead where
  | ok (d : W512)
  | corr (d : W512) (dev : Nat)
  | bad
  | poisoned
deriving DecidableEq, Repr

/-- The 64 B of a unit as plaintext. -/
def Hbm.plain (m : Hbm) (u : Nat) : W512 := BitVec.ofNat 512 (leNat (getBytes 0 m.data (64 * u) 64))

/-- Decode a stored unit and code; the fixed pattern of R343 is poison (R342). -/
def hbmDecode (key : Nat) (tweak : W64) (stored : W512) (code : BitVec 128) : UnitRead :=
  if (stored, code) = Config.hbmPoison then .poisoned
  else if Config.hbmCode stored = code then .ok (Config.xtsDec key tweak stored)
  else match Config.hbmCorrect stored code with
    | some (d, dev) => .corr (Config.xtsDec key tweak d) dev.toNat
    | none => .bad

/-- Valid remap entries of a channel that match a unit's offset, lowest first (R357). -/
def unitHits (i : Inst) (a : Nat) : List Nat :=
  (List.range 8).filter (fun n => let r := tabGet ({} : Remap) i.remap n; r.v && r.addr.toNat / 64 = a / 64)

/-- Number of the unit that stands for remap entry 0 of HBM channel 0: past every home unit (R356). -/
def hbmSpare : Nat := hbmKey 8 0 / 64

/-- Where a unit is stored: in the lowest valid entry of its channel that matches it, or at home (R356, R357). -/
def State.unitSlot (s : State) (die off : Nat) : Nat :=
  match unitHits (s.hbmI (chanOf die off)) (chanOff off) with
  | n :: _ => hbmSpare + 8 * chanOf die off + n
  | [] => unitOf die off

/-- An access to a unit: INT_RSTAT of its channel shows the entries that matched besides the one that serves it (R357). -/
def hitUnit (s : State) (die off : Nat) : State :=
  let ch := chanOf die off
  let hits := unitHits (s.hbmI ch) (chanOff off)
  if hits.length < 2 then s else s.setHbmI ch (instMulti (s.hbmI ch) hits)

/-- What stands in a unit, without counts. -/
def State.unitStored (s : State) (die off : Nat) : UnitRead :=
  let u := s.unitSlot die off
  if !tabGet false s.hbm.pages (pageOf die off) then .ok 0
  else if (tabLook s.hbm.lost (pageOf die off)).isSome || tabGet false s.hbm.poison u then .poisoned
  else match tabLook s.hbm.raw u with
    | some (d, c) => hbmDecode (s.hbmKeyNo die off) (s.tweak die off) d c
    | none => .ok (s.hbm.plain u)

/-- Die and die-region offset of an HBM channel's byte offset (R328, R329). -/
def hbmPlace (ch : BitVec 9) (co : Nat) : Nat × Nat := (ch.toNat / 64, chanInv (ch.toNat % 64) co)

/-- The units of remap entries that serve home units `lo` up to `hi`. -/
def servedIn (s : State) (lo hi : Nat) : List Nat :=
  s.hbmInst.flatMap (fun e => (e.2.remap.filter (fun r =>
    let (die, off) := hbmPlace (BitVec.ofNat 9 e.1) (r.2.addr.toNat / 64 * 64)
    r.2.v && decide (lo ≤ unitOf die off) && decide (unitOf die off < hi))).map (fun r => hbmSpare + 8 * e.1 + r.1))

/-- Make a unit zero. -/
def Hbm.clearUnit (h : Hbm) (u : Nat) : Hbm :=
  { h with data := tabClear (64 * u) (64 * u + 64) h.data, poison := tabDel h.poison u, raw := tabDel h.raw u }

/-- Pages `p` up to `q` hold zeros and no poison, in remap entries as at home (R335, R337). -/
def blankPages (s : State) (p q : Nat) : State :=
  let h : Hbm := { s.hbm with data := tabClear (4096 * p) (4096 * q) s.hbm.data, poison := tabClear (64 * p) (64 * q) s.hbm.poison,
                              raw := tabClear (64 * p) (64 * q) s.hbm.raw, lost := tabClear p q s.hbm.lost }
  { s with hbm := (servedIn s (64 * p) (64 * q)).foldl Hbm.clearUnit h }

/-! ## The written-page bitmap in memory (R333, R334, R339) -/

/-- Number of the bitmap unit that a die-region offset lies in, where it lies in the bitmap. -/
def State.bitmapAt (s : State) (off : Nat) : Option Nat :=
  if s.hbmReserved ≤ off ∧ off < s.hbmReserved + s.hbmSize / 32768 then some ((off - s.hbmReserved) / 64) else none

/-- The pages that bitmap unit `n` of a die covers, the first of 512. -/
def bitmapPage (die n : Nat) : Nat := pageOf die 0 + 512 * n

/-- A bitmap unit as the controllers hold it: bit j is the bit of the j-th page (R334). -/
def bitmapWord (s : State) (die n : Nat) : W512 :=
  BitVec.ofNat 512 ((List.range 512).foldl (fun x j => if tabGet false s.hbm.pages (bitmapPage die n + j) then x + 2 ^ j else x) 0)

/-- A page whose bit came to be 1 with no write: what its units hold is open, so free values. DESIGN CHOICE: log 148. -/
def stalePage (s : State) (p : Nat) : State :=
  let s := blankPages { s with hbm := { s.hbm with pages := tabPut s.hbm.pages p true } } p (p + 1)
  (List.range 64).foldl (fun s j =>
    let (d, s) := s.freeVal 512
    { s with hbm := { s.hbm with raw := tabPut s.hbm.raw (64 * p + j) (d, Config.hbmCode d) } }) s

/-- The controllers take the bits of a bitmap unit that they have read. -/
def installBits (s : State) (die n : Nat) (x : W512) : State :=
  (List.range 512).foldl (fun s j =>
    let p := bitmapPage die n + j
    let old := tabGet false s.hbm.pages p
    if x.getLsbD j = old then s
    else if old then { s with hbm := { s.hbm with pages := tabDel s.hbm.pages p } }
    else stalePage s p) s

/-- Every page of a bitmap unit is treated as written and poisoned (R339). -/
def losePages (s : State) (die n : Nat) : State :=
  (List.range 512).foldl (fun s j =>
    let p := bitmapPage die n + j
    { s with hbm := { s.hbm with pages := tabPut s.hbm.pages p true, lost := tabPut s.hbm.lost p 0 } }) s

/-- Report a fresh uncorrectable error of an HBM channel (R344). -/
def reportHbm (s : State) (ch co : Nat) : State :=
  (s.setHbmI ch (instUe (s.hbmI ch) co)).report { unit := unitId 4 ch, cls := 2, code := 0, place := none, detail := BitVec.ofNat 64 co }

/-- A controller fetches a bitmap unit: one that is as the controllers left it changes nothing; one written raw is read through its code, and
where it is uncorrectable its pages are lost (R339). The controllers then store the bits they go by. DEDUCED: log 148. -/
def fetchBitmap (s : State) (die n : Nat) : State :=
  let off := s.hbmReserved + 64 * n
  let u := s.unitSlot die off
  let ch := chanOf die off
  let done (s : State) : State := { s with hbm := { s.hbm with raw := tabDel s.hbm.raw u, poison := tabDel s.hbm.poison u } }
  if tabGet false s.hbm.poison u then losePages (done s) die n
  else match tabLook s.hbm.raw u with
    | none => s
    | some (d, c) =>
      match hbmDecode (s.hbmKeyNo die off) (s.tweak die off) d c with
      | .ok x => installBits (done s) die n x
      | .corr x dev => installBits ((done s).setHbmI ch (instCorr (s.hbmI ch) (chanOff off) dev)) die n x
      | .bad => losePages (reportHbm (done s) ch (chanOff off)) die n
      | .poisoned => losePages (done s) die n

/-- A context that the Plinth may hold in its hot cache: live, on a slot whose placement is not drained (R362). DESIGN CHOICE: log 150. -/
def hotContext (s : State) (i : Nat) : Bool :=
  let x := tabGet ({} : Ctx) s.ctxs i
  x.st != .free && !(match (tabGet ({} : Slot) s.slots (16 * x.part.toNat + x.slot.toNat)).place with
    | some k => (tabGet ({} : Place) s.places k).drained
    | none => false)

/-- Whether what a reserved offset holds is open: the logs and the serving structures, whose form the spec does not give, and a context that the
hot cache may hold in a later state (R333, R362). DESIGN CHOICE: log 150. -/
def reservedOpen (s : State) (die off : Nat) : Bool :=
  let o := off - s.hbmReserved
  decide (s.hbmReserved ≤ off) && ((decide (0x400000 ≤ o) && decide (o < 0x800000)) || (decide (0xE800000 ≤ o) && decide (o < 0x30000000))
    || (decide (0x800000 ≤ o) && decide (o < 0x4800000) && hotContext s (262144 * die + (o - 0x800000) / 256)))

/-- A unit read as a requester makes it: an unwritten page reads zero without DRAM access, a remap entry serves its unit, a correctable
error is corrected, counted, logged and left for write-back, a fresh uncorrectable one poisons the unit and is reported (R336, R342 to
R344, R356). `none` when the unit cannot be read. -/
def readUnit (s : State) (die off : Nat) : Option W512 × State :=
  match s.bitmapAt off with
  | some n => let s := fetchBitmap s die n; (some (bitmapWord s die n), s)
  | none =>
    if reservedOpen s die off then (let (d, s) := s.freeVal 512; (some d, s))
    else
      let s := fetchBitmap s die (off / 4096 / 512)
      if !tabGet false s.hbm.pages (pageOf die off) then (some 0, s)
      else
        let s := hitUnit s die off
        let ch := chanOf die off
        let co := chanOff off / 64 * 64
        let i := s.hbmI ch
        let u := s.unitSlot die off
        match s.unitStored die off with
        | .ok d => (some d, s)
        | .corr d dev =>
          let i := instCorr i co dev
          (some d, s.setHbmI ch { i with wb := tabPut i.wb (co / 64) 0 })
        | .bad => (none, reportHbm { s with hbm := { s.hbm with poison := tabPut s.hbm.poison u true, raw := tabDel s.hbm.raw u } } ch co)
        | .poisoned => (none, s.setHbmI ch { i with prd := satInc i.prd })

/-- Make a page written: a write to a page whose bit is 0 writes zero elsewhere in it (R335). -/
def freshPage (s : State) (die off : Nat) : State :=
  let p := pageOf die off
  if tabGet false s.hbm.pages p then s
  else blankPages { s with hbm := { s.hbm with pages := tabPut s.hbm.pages p true } } p (p + 1)

/-- Store a unit with its code where it is stored: poison and raw code are cleared and a pending write-back is cancelled (R342, R343, R356). -/
def storeUnit (s : State) (die off : Nat) (d : W512) : State :=
  let s := hitUnit s die off
  let u := s.unitSlot die off
  let ch := chanOf die off
  let co := chanOff off / 64
  let i := s.hbmI ch
  let h := s.hbm
  { s with hbm := { h with data := putBytes 0 h.data (64 * u) (leBytes 64 d.toNat), poison := tabDel h.poison u, raw := tabDel h.raw u },
           hbmInst := if (tabLook i.wb co).isSome then tabSet {} s.hbmInst ch { i with wb := tabDel i.wb co } else s.hbmInst }

/-- A page lost with its bitmap unit comes back once its 64 units have been written one after the other (R339). DEDUCED: log 149. -/
def rewriteLost (s : State) (die off : Nat) : State :=
  let p := pageOf die off
  match tabLook s.hbm.lost p with
  | none => s
  | some k =>
    let j := unitOf die off % 64
    { s with hbm := { s.hbm with lost := if j = k then (if k = 63 then tabDel s.hbm.lost p else tabPut s.hbm.lost p (k + 1))
                                         else tabPut s.hbm.lost p (if j = 0 then 1 else 0) } }

/-- Write a whole unit as a requester makes it. The bitmap takes no write: the controllers store their own bits over it. DEDUCED: log 148. -/
def writeUnit (s : State) (die off : Nat) (d : W512) : State :=
  if (s.bitmapAt off).isSome then s
  else rewriteLost (storeUnit (freshPage (fetchBitmap s die (off / 4096 / 512)) die off) die off d) die off

/-- Write part of a unit: it merges with the old value; into a unit that cannot be read it is not performed (R343). -/
def mergeUnit (s : State) (die off : Nat) (bs : List Byte) : Bool × State :=
  if off % 64 = 0 ∧ bs.length = 64 then (true, writeUnit s die off (BitVec.ofNat 512 (leNat bs)))
  else
    let s := freshPage (fetchBitmap s die (off / 4096 / 512)) die off
    match readUnit s die off with
    | (none, s) => (false, s)
    | (some d, s) =>
      let old := leBytes 64 d.toNat
      (true, writeUnit s die off (BitVec.ofNat 512 (leNat (old.take (off % 64) ++ bs ++ old.drop (off % 64 + bs.length)))))

/-- Read bytes at a data-space HBM offset, unit by unit; `fuel` bounds the units. A unit that cannot be read reads as zero and makes the
answer false. -/
def hbmReadAux : Nat → State → Nat → Nat → Nat → List Byte × Bool × State
  | 0, s, _, _, _ => ([], true, s)
  | fuel + 1, s, die, off, len =>
    if len = 0 then ([], true, s)
    else
      let n := min len (64 - off % 64)
      let (d, o) := s.home die off
      let (r, s) := readUnit s d o
      let bs := ((leBytes 64 (r.getD 0).toNat).drop (off % 64)).take n
      let (rest, ok, s) := hbmReadAux fuel s die (off + n) (len - n)
      (bs ++ rest, r.isSome && ok, s)

/-- Read bytes of HBM by data-space die and offset. -/
def hbmRead (s : State) (die off len : Nat) : List Byte × Bool × State := hbmReadAux (len / 64 + 2) s die off len

/-- Write bytes at a data-space HBM offset, unit by unit. -/
def hbmWriteAux : Nat → State → Nat → Nat → List Byte → Bool × State
  | 0, s, _, _, _ => (true, s)
  | fuel + 1, s, die, off, bs =>
    if bs.isEmpty then (true, s)
    else
      let n := 64 - off % 64
      let (d, o) := s.home die off
      let (ok, s) := mergeUnit s d o (bs.take n)
      let (ok', s) := hbmWriteAux fuel s die (off + n) (bs.drop n)
      (ok && ok', s)

/-- Write bytes of HBM by data-space die and offset. -/
def hbmWrite (s : State) (die off : Nat) (bs : List Byte) : Bool × State := hbmWriteAux (bs.length / 64 + 2) s die off bs

/-- Clear the written-page bits of home pages: they read zero and their poison is gone (R337, R338). -/
def clearPages (s : State) (die lo hi : Nat) : State :=
  let p := hbmKey die lo / 4096
  let q := hbmKey die hi / 4096
  let s := blankPages s p q
  { s with hbm := { s.hbm with pages := tabClear p q s.hbm.pages } }

/-! ## Accepted writes (R321 to R324) -/

/-- Queue of a slice or of an HBM channel. -/
def destQueue : Dest → Nat
  | .slice die sl => 32 * die.toNat + sl.toNat
  | .hbm die h => 256 + 64 * die.toNat + h.toNat
  | .core _ => 1024
  | .test _ => 1024

/-- Perform one accepted write; whether it could be merged. -/
def performWrite (s : State) (w : QWrite) : Bool × State :=
  match s.classify w.addr with
  | .commons die off =>
    let (bads, s) := sliceWrite s (sliceKey die off) (sliceOff off) w.bytes
    (bads.isEmpty, s)
  | .hbm die off => hbmWrite s die off w.bytes
  | _ => (true, s)

/-- Perform the first `n` accepted writes of a queue. -/
def performFirst : Nat → State → Nat → State
  | 0, s, _ => s
  | n + 1, s, q =>
    match tabGet [] s.writeQ q with
    | [] => s
    | w :: rest => performFirst n (performWrite { s with writeQ := tabSet [] s.writeQ q rest } w).2 q

/-- Perform every accepted write of a queue. -/
def performQueue (s : State) (q : Nat) : State := performFirst (tabGet [] s.writeQ q).length s q

/-- Perform every accepted write of the part (R322). -/
def performAll (s : State) : State := s.writeQ.foldl (fun s e => performQueue s e.1) s

/-- Perform every accepted write of the HBM controllers. -/
def performHbm (s : State) : State := s.writeQ.foldl (fun s e => if 256 ≤ e.1 then performQueue s e.1 else s) s

/-- Whether two byte ranges share an 8 B word. -/
def shareWord (a n b m : Nat) : Bool := decide (a / 8 * 8 < b + m) && decide (b / 8 * 8 < a + n)

/-- How many of a queue's writes a read of one core must find performed: up to its own latest write to a word of the range (R323). -/
def mustPerform (src : CoreId) (a n : Nat) : List QWrite → Nat → Nat
  | [], _ => 0
  | w :: r, i => max (if w.src = src ∧ shareWord a n w.addr.toNat w.bytes.length then i + 1 else 0) (mustPerform src a n r (i + 1))

/-- Before a plain read, some of the accepted writes have been performed: any number from those of R323 to all of them (R321). -/
def readMoment (s : State) (q : Nat) (src : CoreId) (a : W64) (n : Nat) : State :=
  let ws := tabGet [] s.writeQ q
  if ws.isEmpty then s
  else
    let lo := mustPerform src a.toNat n ws 0
    let (f, s) := s.freeVal 32
    performFirst (lo + f.toNat % (ws.length - lo + 1)) s q

/-- Accept a write into a queue; a partial write to a word that cannot be read is not performed and answers an error (R222, R343). -/
def acceptWrite (s : State) (q : Nat) (w : QWrite) : Bool × State :=
  let s' := performQueue s q
  let (ok, s'') := performWrite s' w
  if ok then (true, { s with writeQ := tabSet [] s.writeQ q (tabGet [] s.writeQ q ++ [w]) }) else (false, s'')

end Sys2Proof.Machine
end

