-- ==== Sys2Proof/Machine/Cairn.lean ====
section
/-! DEFINITION. Cairn packets on their way: how two packets of one key combine, and the output buffers in which they meet (R275 to R279, R345). -/

namespace Sys2Proof.Machine

/-- Count an end-to-end CRC failure where it occurred and report it (R345). -/
def e2eFail (s : State) (c : CoreId) (src : CoreId) : State :=
  let k := s.core c
  let s := s.setCore c { k with e2e := k.e2e + 1 }
  s.report { unit := unitCore c, cls := 4, code := 0, place := (s.core src).place, detail := 0 }

/-- The key of a cairn packet (R275). -/
def cairnKey (p : Packet) : Option (W64 × W16 × BitVec 2 × Bool × Bool) :=
  match p.body with
  | .cairn a id _ op f16 sat _ _ _ _ => some (a, id, op, f16, sat)
  | _ => none

/-- Combine two codes of `w` bits under OP; whether the sum left the range (R276, R278, R279). -/
def cairnOp (op : BitVec 2) (sat : Bool) (w : Nat) (x y : Int) : Int × Bool :=
  if op = 1 then (max x y, false) else if op = 2 then (min x y, false) else satWrap sat w (x + y)

/-- Combine value lists element by element; whether any element left the range. -/
def cairnCombine (op : BitVec 2) (f16 sat : Bool) (xs ys : List (BitVec 40)) : List (BitVec 40) × Bool :=
  let w := if f16 then 16 else 40
  let rs := (xs.zip ys).map (fun (x, y) => cairnOp op sat w (toSigned w x.toNat) (toSigned w y.toNat))
  (rs.map (fun r => BitVec.ofNat 40 (ofSigned w r.1)), rs.any (·.2))

/-- Merge a cairn packet into an earlier one of its key, in the earlier one's place; none when their CONTRIB sum exceeds 65,535. -/
def mergeCairn (p q : Packet) : Option Packet :=
  match p.body, q.body with
  | .cairn a id n op f16 sat cnt xs cl wr, .cairn _ _ m _ _ _ _ ys cl' wr' =>
    if 65535 < n.toNat + m.toNat then none
    else
      let (vs, o) := cairnCombine op f16 sat xs ys
      some { p with body := .cairn a id (n + m) op f16 sat cnt vs (cl || cl' || (o && sat)) (wr || wr' || (o && !sat)), free := true }
  | _, _ => none

/-- Cairn packets in an output's buffer, in the order in which they entered. -/
def outBuffer (s : State) (r : CoreId) (o : Port) : List Packet :=
  s.net.filter (fun p => p.cls == 3 && p.at_ == r && outPort r p.dst == o && p.out)

/-- Cairn packets at a router that have still to enter an output's buffer, in the order in which they came; one that waits for earlier writes has not
left its input (R274). -/
def awaitsBuffer (s : State) (r : CoreId) (o : Port) : List Packet :=
  s.net.filter (fun p => p.cls == 3 && p.at_ == r && outPort r p.dst == o && !p.out && afterClear s p)

/-- The packet of a buffer that an entering packet merges with, and what they become. -/
def mergesWith (buf : List Packet) (p : Packet) : Option (Packet × Packet) :=
  buf.findSome? (fun q => if cairnKey q == cairnKey p then (mergeCairn q p).map (fun m => (q, m)) else none)

/-- A cairn packet enters the buffer of an output: it merges with a packet of its key there, or takes one of four places; else it stays at its input.
A packet about to merge whose end-to-end CRC fails is discarded (R276, R277, R345). -/
def enterBuffer (crcOk : Bool) (r : CoreId) (o : Port) (s : State) (p : Packet) : State :=
  let buf := outBuffer s r o
  match mergesWith buf p with
  | some (q, m) =>
    if crcOk then ({ s with net := (s.net.filter (fun x => x.id ≠ p.id)).map (fun x => if x.id = q.id then m else x) } : State).perfAdd r 0x0C60 1
    else e2eFail (dropPacket s p.id) r p.src
  | none => if buf.length < 4 then { s with net := s.net.filter (fun x => x.id ≠ p.id) ++ [{ p with out := true }] } else s

/-- The cairn packets at a router that can enter an output's buffer do. -/
def settleCairn (s : State) (r : CoreId) (o : Port) (crcOk : Bool) : State :=
  if o = .loc then s else (awaitsBuffer s r o).foldl (enterBuffer crcOk r o) s

/-- The same at every output of a router. -/
def settleRouter (s : State) (r : CoreId) : State := [Port.north, .east, .south, .west].foldl (fun s o => settleCairn s r o true) s

end Sys2Proof.Machine
end

