-- ==== Sys2Proof/Machine/Chan.lean ====
section
/-! DEFINITION. Inbound rings, send bindings, ROUTE and routing capacity: the channel instructions, the arrivals of their packets and
the writes of their registers (R89 to R91, R208 to R218, R283 to R293). -/

namespace Sys2Proof.Machine

/-! ## Rings and bindings -/

/-- Slots of a ring (R284, R285). -/
def Ring.cap (r : Ring) : Nat := 4 * 2 ^ r.size.toNat
/-- Slots that hold unreleased messages. -/
def Ring.used (r : Ring) : Nat := (r.wr - r.rd).toNat
/-- Slots promised to ROUTE claims (R291). -/
def Ring.promised (r : Ring) : Nat := (r.grants.map (·.slots)).sum
/-- Local-memory address of the ring. -/
def Ring.addr (r : Ring) : Nat := r.base.toNat * 256
/-- Address of the slot of message `i` (R285). -/
def Ring.slotAddr (r : Ring) (i : W16) : Nat := r.addr + 64 * (i.toNat % r.cap)
/-- Address of the tag entry of message `i` (R285). -/
def Ring.tagAddr (r : Ring) (i : W16) : Nat := r.addr + 64 * r.cap + 8 * (i.toNat % r.cap)

/-- Replace ring `n`. -/
def Core.setRing (k : Core) (n : Nat) (r : Ring) : Core := k.setSync { k.sync with rings := tabPut k.sync.rings n r }
/-- Replace binding `n`. -/
def Core.setBind (k : Core) (n : Nat) (b : Bind) : Core := k.setSync { k.sync with binds := tabPut k.sync.binds n b }
/-- ROUTE_CAPn of a core. -/
def Core.cap (k : Core) (n : Nat) : RouteCap := tabGet {} k.sync.caps n
/-- Replace ROUTE_CAPn. -/
def Core.setCap (k : Core) (n : Nat) (x : RouteCap) : Core := k.setSync { k.sync with caps := tabPut k.sync.caps n x }

/-- Payload bytes of a LEN code; code 3 is read as 64 B (R285, R288). -/
def lenBytes (code : Nat) : Nat := if code = 0 then 8 else if code = 1 then 16 else 64

/-- A tag entry (R285). -/
def tagEntry (len : Nat) (isTok : Bool) (code : Byte) (sender : CoreId) : W64 :=
  BitVec.ofNat 64 (len % 4 * 2 ^ 25 + (if isTok then 2 ^ 24 else 0) + code.toNat * 2 ^ 16 + sender.toNat)

/-- Promise slots to the claims waiting at a shared ring, in arrival order, and answer them (R291). -/
def promiseSlots (c : CoreId) (n : Nat) : List RingClaim → State → State
  | [], s => s
  | w :: rest, s =>
    let r := (s.core c).ring n
    if r.en && r.mode && decide (r.promised + w.slots + r.used ≤ r.cap) then
      let s := s.setCore c ((s.core c).setRing n { r with grants := r.grants ++ [w], claims := rest })
      promiseSlots c n rest (inject s 1 c (.core w.tag.core) (.claimAns w.tag w.thr w.j true) [] true)
    else s

/-- Free slots have appeared, or a claim has come. -/
def drainClaims (s : State) (c : CoreId) (n : Nat) : State := promiseSlots c n ((s.core c).ring n).claims s

/-- Return credits to the binding that holds a ring, one packet each, on the response class (R288). -/
def returnCredits (c : CoreId) (n : Nat) (h : Option (CoreId × BitVec 6)) : Nat → State → State
  | 0, s => s
  | k + 1, s =>
    match h with
    | none => s
    | some (d, b) => returnCredits c n h k (inject s 1 c (.core d) (.credit b (BitVec.ofNat 6 n)) [] true)

/-- Release `k` slots of a ring: RD advances, credits return, waiting claims are served (R288, R291). -/
def releaseSlots (s : State) (c : CoreId) (n k : Nat) : State :=
  let r := (s.core c).ring n
  let s := s.setCore c ((s.core c).setRing n { r with rd := r.rd + BitVec.ofNat 16 k })
  drainClaims (returnCredits c n r.holder k s) c n

/-! ## RSEND and RSENDT (R289 to R292, R274) -/

/-- Send one message on a binding: ALTITUDE on one that is UNBOUND or REFUSED, a wait while it is PENDING or without credit (R292); a
message that names a counter leaves after earlier writes of another class (R274). -/
def sendOn (x : Iss) (srcs : List Byte) (n : Nat) (isTok : Bool) (code : Byte) (len : Nat) (payload : List W64 → W512) : IssRes :=
  let b := x.k.bind n
  withOpsF x (if b.state = 0 ∨ b.state = 3 then [(0x0A, BitVec.ofNat 64 n)] else []) [] srcs (fun k vs _ =>
    if b.state = 1 ∨ b.credit = 0 then .wait x.s (newWait x.s 6 n 0)
    else if !routerAccepts x.s x.c 2 1 then .notReady
    else
      let s := x.s.setCore x.c (k.setBind n { b with credit := b.credit - 1 })
      let cnt := if b.cntEn then some b.acnt else none
      let after := if b.cntEn then earlierWrites s x.c b.target 2 false (byThread x.t) else []
      let (s, tag) := openSlot s x.c .send x.t x.pc 0 (unitCore b.target) (some b.target) 2 none
      .done (inject s 2 x.c (.core b.target) (.msg tag b.ring isTok code len (payload vs) cnt none) after true) [] none)

/-- RSEND: 64 B from a v operand, 8 B from any other (R134). -/
def execRsend (i : Site) (o1 : Byte) (imm : W32) (s : State) : Res :=
  issue s i 0xB8 [o1] imm (fun x =>
    let n := rawImm x.px imm % 64
    if fileOf o1 = 1 then sendOn x [] n false 0 2 (fun _ => x.th.readV (indexOf o1))
    else sendOn x [o1] n false 0 0 (fun vs => (vs.getD 0 0).zeroExtend 512))

/-- RSENDT: a control token, with 8 zero bytes of payload (R285). -/
def execRsendt (i : Site) (imm : W32) (s : State) : Res :=
  issue s i 0xB9 [] imm (fun x =>
    let raw := rawImm x.px imm
    sendOn x [] (raw % 64) true (BitVec.ofNat 8 (raw / 256)) 0 (fun _ => 0))

/-! ## RRD (R288, R90, R91) -/

/-- What a ring read finds in the oldest slot: the tag's TAG and CODE and the payload bytes, or the first word that cannot be read; the
slot's words lie before the tag entry's (R288). -/
def ringHead (s : State) (c : CoreId) (r : Ring) (vec : Bool) : (Nat ⊕ (Bool × Byte × List Byte)) × State :=
  let (tb, tbad, s) := lmRead s c (r.tagAddr r.rd) 8
  let tag : W64 := BitVec.ofNat 64 (leNat tb)
  let n := if vec then lenBytes (bits tag 26 25) else 8
  let (pb, pbad, s) := lmRead s c (r.slotAddr r.rd) n
  match pbad ++ tbad with
  | (w, _) :: _ => (.inl (8 * w), s)
  | [] => (.inr (tag.getLsbD 24, BitVec.ofNat 8 (bits tag 23 16), pb), s)

/-- Mark the latest started loop bound to the ring to end (R91). -/
def endLoop (n : Nat) : List Loop → List Loop
  | [] => []
  | l :: r => if l.ring = some (BitVec.ofNat 6 n) then { l with ended := true } :: r else l :: endLoop n r

/-- RRD (R288, R90, R91). -/
def execRrd (i : Site) (o1 o2 : Byte) (imm : W32) (s : State) : Res :=
  issue s i 0xBA [o1, o2] imm (fun x =>
    let n := rawImm x.px imm % 64
    let r := x.k.ring n
    withOpsF x (if r.en then [] else [(0x0A, BitVec.ofNat 64 n)]) [o1, o2] [] (fun k _ ds =>
      if r.wr = r.rd then .wait x.s (newWait x.s 5 n 0)
      else
        match ringHead (x.s.setCore x.c k) x.c r (fileOf o1 == 1) with
        | (.inl a, _) => .faultAt (ringHead x.s x.c r (fileOf o1 == 1)).2 9 (BitVec.ofNat 64 a)
        | (.inr (isTok, code, bs), s) =>
          let s := releaseSlots s x.c n 1
          let th := s.thread x.c x.t
          let s := if isTok && code == 1 then s.setThread x.c x.t { th with loops := endLoop n th.loops } else s
          let val : W512 := if isTok then code.zeroExtend 512 else BitVec.ofNat 512 (leNat bs)
          .done s [{ lat := latBlock, dst := ds.getD 0 (.g 0), val := val },
                   { lat := latBlock, dst := ds.getD 1 (.p 0), val := if isTok then 1 else 0 }] none))

/-! ## ROUTE (R206, R208 to R214) -/

/-- A token-row descriptor (R208). -/
structure RouteDesc where
  rowAddr : Nat
  rowLen  : Nat
  token   : Nat
  retAddr : Nat
  stride  : Nat
  acnt    : Byte
deriving DecidableEq, Repr

/-- Read a descriptor from O1. -/
def routeDesc (d : W512) : RouteDesc :=
  { rowAddr := bits d 31 0, rowLen := bits d 47 32, token := bits d 63 48, retAddr := bits d 95 64, stride := bits d 111 96,
    acnt := BitVec.ofNat 8 (bits d 119 112) }

/-- Whether a descriptor keeps the fields of R208. -/
def routeDescOk (d : W512) : Bool :=
  let q := routeDesc d
  bits d 511 120 == 0 && bits q.acnt 6 5 == 0 && decide (1 ≤ q.rowLen) && decide (q.rowLen ≤ 256)
    && decide (q.rowLen + (q.rowLen + 31) / 32 ≤ q.stride)

/-- Address of return slot `j` (R208). -/
def RouteDesc.slot (q : RouteDesc) (j : Nat) : Nat := q.retAddr + 64 * q.stride * j
/-- Bytes of a return slot's elements and exponents. -/
def RouteDesc.slotLen (q : RouteDesc) : Nat := 66 * q.rowLen

/-- The non-empty records: number, expert, weight (R206). -/
def routeRecs (v : W512) : List (Nat × Nat × W32) :=
  ((List.range 8).map (fun j => (j, bits v (64 * j + 15) (64 * j), BitVec.ofNat 32 (bits v (64 * j + 63) (64 * j + 32))))).filter
    (fun r => r.2.1 ≠ 0xFFFF)

/-- The fields of an expert table's header (R209). -/
structure RouteTable where
  count : Nat
  policy : Nat
  deferBase : Nat
  deferSize : Nat
  deferCount : Nat
deriving DecidableEq, Repr

/-- Read a table header, or answer its first word that cannot be read. -/
def routeTable (s : State) (c : CoreId) (ta : Nat) : (Nat ⊕ RouteTable) × State :=
  let (bs, bads, s) := lmRead s c ta 16
  match bads with
  | (w, _) :: _ => (.inl (8 * w), s)
  | [] =>
    let f (lo n : Nat) := leNat ((bs.drop lo).take n)
    (.inr { count := f 0 2, policy := f 2 1, deferBase := f 4 4, deferSize := f 8 2, deferCount := f 10 2 }, s)

/-- The claims of the records, or the faults that stop the ROUTE: an index past the table, an entry that cannot be read, a target that is
no core, outside the placement, or not strictly lower (R214, R96, R293). Where R111 gives an address for a fault of a record, it is that of the
record's table entry (DEDUCED, log 36). -/
def routeClaims (c : CoreId) (priv : Bool) (ta count : Nat) : List (Nat × Nat × W32) → State → (List (Nat × W64) × List Claim) × State
  | [], s => (([], []), s)
  | (j, e, w) :: rest, s =>
    let ea := ta + 16 + 8 * e
    if count ≤ e ∨ lmSize < ea + 8 then
      let ((fs, cs), s) := routeClaims c priv ta count rest s
      (((8, BitVec.ofNat 64 ea) :: fs, cs), s)
    else
      let (bs, bads, s) := lmRead s c ea 8
      let ent : W64 := BitVec.ofNat 64 (leNat bs)
      let d : CoreId := BitVec.ofNat 14 (bits ent 13 0)
      let ring : BitVec 6 := BitVec.ofNat 6 (bits ent 21 16)
      let mine : List (Nat × W64) :=
        if !bads.isEmpty then [(9, BitVec.ofNat 64 ea)]
        else if !isCore d then [(8, BitVec.ofNat 64 ea)]
        else (if priv || s.samePlace c d then [] else [(0x0E, BitVec.ofNat 64 ea)])
          ++ (if (s.core d).altitude.toNat < (s.core c).altitude.toNat then [] else [(0x0A, ring.zeroExtend 64)])
      let ((fs, cs), s) := routeClaims c priv ta count rest s
      ((mine ++ fs, { j := j, expert := BitVec.ofNat 16 e, core := d, ring := ring, weight := w } :: cs), s)

/-- The faults of a ROUTE's operands: the descriptor, alignment, ranges outside own local memory (R208, R209, R549). -/
def routeFaults (bytes : W64) (d : W512) (recs : List (Nat × Nat × W32)) (ta : W64) : List (Nat × W64) :=
  let q := routeDesc d
  (if routeDescOk d then [] else [(1, bytes)])
    ++ (if q.rowAddr % 64 ≠ 0 then [(7, BitVec.ofNat 64 q.rowAddr)] else if q.retAddr % 64 ≠ 0 then [(7, BitVec.ofNat 64 q.retAddr)]
        else if ta.toNat % 16 ≠ 0 then [(7, ta)] else [])
    ++ (match firstOutside ([(BitVec.ofNat 64 q.rowAddr, 64 * q.rowLen)] ++ recs.map (fun r => (BitVec.ofNat 64 (q.slot r.1), q.slotLen))
          ++ [(ta, 16)]) with
        | some a => [(8, a)]
        | none => [])

/-- The faults of the defer list under POLICY 1, and of a reserved POLICY (R209). -/
def tableFaults (bytes : W64) (t : RouteTable) : List (Nat × W64) :=
  (if 1 < t.policy then [(1, bytes)] else [])
    ++ (if t.policy = 1 ∧ t.deferBase % 32 ≠ 0 then [(7, BitVec.ofNat 64 t.deferBase)] else [])
    ++ (if t.policy = 1 ∧ t.deferSize ≠ 0 ∧ lmSize < t.deferBase + 32 * t.deferSize then
        [(8, lmFirstOut (BitVec.ofNat 64 t.deferBase))] else [])

/-- Send the claims of a ROUTE (R214). -/
def sendClaims (x : Iss) (slots : Nat) : List Claim → State → State
  | [], s => s
  | w :: rest, s =>
    let (s, tag) := openSlot s x.c (.claim w.j) x.t x.pc 0 (unitCore w.core) (some w.core) 0 none
    sendClaims x slots rest (inject s 0 x.c (.core w.core) (.claim tag x.t w.ring w.j slots) [] true)

/-- The 16 B header of a granted record (R210). -/
def routeHeader (c : CoreId) (q : RouteDesc) (w : Claim) : W512 :=
  BitVec.ofNat 512 (leNat (leBytes 2 q.token ++ leBytes 2 c.toNat ++ leBytes 2 w.expert.toNat ++ leBytes 1 w.j ++ leBytes 1 q.acnt.toNat
    ++ leBytes 4 w.weight.toNat ++ leBytes 4 (q.slot w.j)))

/-- One message of a granted record. -/
def sendRow (x : Iss) (w : Claim) (len : Nat) (payload : W512) (s : State) : State :=
  let (s, tag) := openSlot s x.c .send x.t x.pc 0 (unitCore w.core) (some w.core) 2 none
  inject s 2 x.c (.core w.core) (.msg tag w.ring false 0 len payload none (some (x.t, w.j))) [] true

/-- Send a header and the row (R210). -/
def sendRecord (x : Iss) (q : RouteDesc) (row : List Byte) (w : Claim) (s : State) : State :=
  (List.range q.rowLen).foldl (fun s i => sendRow x w 2 (BitVec.ofNat 512 (leNat ((row.drop (64 * i)).take 64))) s)
    (sendRow x w 1 (routeHeader x.c q w) s)

/-- Write local memory for a ROUTE; a word that cannot be merged into stays as it is and the thread takes BUS_ERROR (R222). -/
def routeWrite (x : Iss) (a : Nat) (bs : List Byte) (s : State) : State :=
  let (bads, s') := lmWrite s x.c a bs
  if bads.isEmpty then s' else raiseUe s' s.err.reports.length x.c x.t x.pc (BitVec.ofNat 64 a) x.th.issued

/-- Count in ROUTE_SENT, ROUTE_DROP, ROUTE_DEFER; `full` also sets DEFOVF (R216). -/
def countRoute (s : State) (c : CoreId) (sent drop defer : Nat) (full : Bool) : State :=
  let k := s.core c
  let y := k.sync
  let d := BitVec.ofNat 64 ((bits y.drop 62 0 + drop) % 2 ^ 63 + (if full || y.drop.getLsbD 63 then 2 ^ 63 else 0))
  s.setCore c (k.setSync { y with sent := y.sent + BitVec.ofNat 64 sent, drop := d, defer := y.defer + BitVec.ofNat 64 defer })

/-- Drop a refused record: its slot reads as a zero row and the named counter rises (R212). -/
def dropRecord (x : Iss) (q : RouteDesc) (w : Claim) (full : Bool) (s : State) : State :=
  let s := routeWrite x (q.slot w.j) (List.replicate (64 * q.rowLen) 0 ++ List.replicate (2 * q.rowLen) 0x80) s
  let s := countRoute s x.c 0 1 0 full
  if q.acnt.getLsbD 7 then s.raiseCnt x.c (some (BitVec.ofNat 5 (bits q.acnt 4 0))) else s

/-- A defer entry (R213). -/
def deferEntry (q : RouteDesc) (w : Claim) : List Byte :=
  leBytes 4 q.rowAddr ++ leBytes 2 q.rowLen ++ leBytes 2 q.token ++ leBytes 2 w.expert.toNat ++ leBytes 1 w.j ++ leBytes 1 q.acnt.toNat
    ++ leBytes 4 w.weight.toNat ++ leBytes 4 (q.slot w.j) ++ List.replicate 12 0

/-- What becomes of each claim, in record order: sent, dropped or deferred (R210, R212, R213). -/
def routeAct (x : Iss) (q : RouteDesc) (t : RouteTable) (ta : Nat) (row : List Byte) : List Claim → Nat → State → State
  | [], n, s => if n = t.deferCount then s else routeWrite x (ta + 10) (leBytes 2 n) s
  | w :: rest, n, s =>
    if w.answer = 1 then routeAct x q t ta row rest n (countRoute (sendRecord x q row w s) x.c 1 0 0 false)
    else if t.policy = 0 then routeAct x q t ta row rest n (dropRecord x q w false s)
    else if n = t.deferSize then routeAct x q t ta row rest n (dropRecord x q w true s)
    else
      let s := routeWrite x (t.deferBase + 32 * n) (deferEntry q w) s
      routeAct x q t ta row rest (n + 1) (countRoute s x.c 0 0 1 false)

/-- The sending phase: every answer has come; a FENCED answer raises BUS_ERROR, which withdraws the grants (R214, R430). -/
def routeSend (x : Iss) (k : Core) (q : RouteDesc) (ta : W64) : IssRes :=
  let claims := x.th.claims
  match claims.find? (fun w => w.answer = 3) with
  | some w => .fault [(9, BitVec.ofNat 64 (ta.toNat + 16 + 8 * w.expert.toNat))]
  | none =>
    let (row, rbad, s1) := lmRead (x.s.setCore x.c k) x.c q.rowAddr (64 * q.rowLen)
    match rbad with
    | (w, _) :: _ => .faultAt (lmRead x.s x.c q.rowAddr (64 * q.rowLen)).2.2 9 (BitVec.ofNat 64 (8 * w))
    | [] =>
      match routeTable s1 x.c ta.toNat with
      | (.inl a, _) => .faultAt (routeTable x.s x.c ta.toNat).2 9 (BitVec.ofNat 64 a)
      | (.inr t, s) =>
        let s := routeAct x q t ta.toNat row claims t.deferCount s
        .done (s.setThread x.c x.t { s.thread x.c x.t with claims := [] }) [] none

/-- ROUTE (R208 to R214). -/
def execRoute (i : Site) (o1 o2 o3 : Byte) (s : State) : Res :=
  issue s i 0xBB [o1, o2, o3] 0 (fun x =>
    withOps x [] [o3] (fun k vs _ =>
      let ta := vs.getD 0 0
      let d := x.th.readV (indexOf o1)
      let q := routeDesc d
      let recs := routeRecs (x.th.readV (indexOf o2))
      let bytes := firstBytes x.k x.pc (insnBytes x.px 0xBB [o1, o2, o3] 0)
      let waiting := match x.th.wait with | some w => w.kind == 10 | none => false
      if waiting then
        if x.th.claims.any (fun w => w.answer = 0) then .wait x.s (newWait x.s 10 0 0) else routeSend x k q ta
      else
        let fs := routeFaults bytes d recs ta
        if ta.toNat % 16 ≠ 0 ∨ !inLm ta 16 then .fault fs
        else
          match routeTable x.s x.c ta.toNat with
          | (.inl a, s) => (match lowestFault (fs ++ [(9, BitVec.ofNat 64 a)]) with | some (code, b) => .faultAt s code b | none => .notReady)
          | (.inr t, s) =>
            let ((gs, cs), s) := routeClaims x.c x.th.priv ta.toNat t.count recs s
            match lowestFault (fs ++ tableFaults bytes t ++ gs) with
            | some (code, a) => .faultAt s code a
            | none =>
              if cs.isEmpty then .done (s.setCore x.c { k with lm := (s.core x.c).lm, insts := (s.core x.c).insts }) [] none
              else
                let s := sendClaims x (1 + q.rowLen) cs s
                .wait (s.setThread x.c x.t { s.thread x.c x.t with claims := cs }) (newWait x.s 10 0 0)))

/-! ## Writes of the ring, binding and capacity registers (R286, R290, R291, R217) -/

/-- Whether a write to RING_CTLn is refused (R286). -/
def ringRefused (r : Ring) (val : W64) : Bool :=
  let base := bits val 15 5
  let size := bits val 19 16
  let en := val.getLsbD 0
  (r.en && (base != r.base.toNat || size != r.size.toNat || val.getLsbD 20 != r.mode))
    || (en && (decide (8 < size) || decide (lmSize < base * 256 + 2 ^ (size + 8) + 8 * (4 * 2 ^ size))))
    || (!en && r.en && (r.holder.isSome || decide (r.promised ≠ 0)))
    || decide (r.used < ((BitVec.ofNat 16 (bits val 47 32) : W16) - r.rd).toNat)

/-- A write to RING_CTLn; a reserved SIZE leaves SIZE as it is (R13, R284, R286, R288). -/
def ringCtlOp (s : State) (c : CoreId) (n : Nat) (val : W64) : State :=
  let k := s.core c
  let r := k.ring n
  if ringRefused r val then s.setCore c (k.setRing n { r with err := true })
  else
    let en := val.getLsbD 0
    let size : BitVec 4 := if bits val 19 16 ≤ 8 then BitVec.ofNat 4 (bits val 19 16) else r.size
    let r' := { r with base := BitVec.ofNat 11 (bits val 15 5), size := size, mode := val.getLsbD 20, en := en,
                       err := r.err && !val.getLsbD 1 }
    if en && !r.en then drainClaims (s.setCore c (k.setRing n { r' with wr := 0, rd := 0 })) c n
    else releaseSlots (s.setCore c (k.setRing n r')) c n ((BitVec.ofNat 16 (bits val 47 32) : W16) - r.rd).toNat

/-- RING_CTL_WRITE (R286). -/
def execRingCtlWrite (core : CoreId) (n : BitVec 6) (val : W64) (s : State) : Res :=
  if !isCore core then .fault .noSuchCore else .next (ringCtlOp s core n.toNat val)

/-- Whether a thread waits for credit on a binding (R290). -/
def Core.awaitsCredit (k : Core) (n : Nat) : Bool :=
  allThreads.any (fun t => match (k.thread t).wait with | some w => w.kind == 6 && w.index == n | none => false)

/-- A write to CHAN_BINDn by the binding's state (R290, R291). -/
def chanBindOp (s : State) (c : CoreId) (n : Nat) (val : W64) : State :=
  let k := s.core c
  let b := k.bind n
  let en := val.getLsbD 63
  let target : CoreId := BitVec.ofNat 14 (bits val 13 0)
  let ring : BitVec 6 := BitVec.ofNat 6 (bits val 19 14)
  let cntEn := val.getLsbD 25
  let acnt : BitVec 5 := BitVec.ofNat 5 (bits val 24 20)
  let ign := b.ign && !val.getLsbD 56
  let ignored := s.setCore c (k.setBind n { b with ign := true })
  let loaded := { b with en := en, cntEn := cntEn, acnt := acnt, ring := ring, target := target, credit := 0, ign := ign }
  if b.state = 0 ∨ b.state = 3 then
    if !en then s.setCore c (k.setBind n { loaded with state := 0, rsn := 0 })
    else if !isCore target || !s.samePlace c target || (k.place.isNone && c != target) then
      s.setCore c (k.setBind n { loaded with state := 3, rsn := 4 })
    else
      let s := s.setCore c (k.setBind n { loaded with state := 1, rsn := 0 })
      let (s, tag) := openSlot s c (.bindReq (BitVec.ofNat 6 n)) 0 0 0 (unitCore target) (some target) 0 none
      inject s 0 c (.core target) (.bindReq tag (BitVec.ofNat 6 n) ring k.altitude) [] true
  else if b.state = 1 then ignored
  else if en then
    if target = b.target ∧ ring = b.ring then s.setCore c (k.setBind n { b with cntEn := cntEn, acnt := acnt, ign := ign }) else ignored
  else if k.awaitsCredit n then ignored
  else
    let s := s.setCore c (k.setBind n { b with en := false, state := 0, rsn := 0, credit := 0, ign := ign })
    inject s 2 c (.core b.target) (.unbind (BitVec.ofNat 6 n) b.ring) [] true

/-- CHAN_BIND_WRITE (R290). -/
def execChanBindWrite (core : CoreId) (n : BitVec 6) (val : W64) (s : State) : Res :=
  if !isCore core then .fault .noSuchCore else .next (chanBindOp s core n.toNat val)

/-- A write to ROUTE_CAPn (R217, R218). -/
def routeCapOp (s : State) (c : CoreId) (n : Nat) (val : W64) : State :=
  let k := s.core c
  let x := k.cap n
  s.setCore c (k.setCap n
    { en := val.getLsbD 63, mm := x.mm && !val.getLsbD 62, ring := BitVec.ofNat 6 (bits val 53 48), limit := BitVec.ofNat 16 (bits val 47 32),
      used := BitVec.ofNat 16 (bits val 31 16), refused := BitVec.ofNat 16 (bits val 15 0) })

/-- ROUTE_CAP_WRITE (R218). -/
def execRouteCapWrite (core : CoreId) (n : BitVec 3) (val : W64) (s : State) : Res :=
  if !isCore core then .fault .noSuchCore else .next (routeCapOp s core n.toNat val)

/-! ## Arrivals -/

/-- Act on a packet that has arrived at its destination core: nothing unless it is next of its class, source and destination (R253), and a
fenced destination answers FENCED or discards it (R429). -/
def onArrival (s : State) (id : Nat) (act : Packet → CoreId → State → State) : Res :=
  if !s.clocked then .next s
  else
    match arrived s id with
    | none => .next s
    | some p =>
      match p.dst with
      | .core c =>
        if s.turnsAway p then .next (fencedArrival s p) else .next (act p c s)
      | _ => .next s

/-- One slot of a grant has been written (R291). -/
def spendGrant (core : CoreId) (thr : BitVec 2) (j : Nat) : List RingClaim → List RingClaim
  | [] => []
  | g :: r =>
    if g.tag.core = core ∧ g.thr = thr ∧ g.j = j then (if g.slots ≤ 1 then r else { g with slots := g.slots - 1 } :: r)
    else g :: spendGrant core thr j r

/-- Write a message to a ring: payload and tag entry, then WR, then the counter (R285, R287). -/
def ringWrite (s : State) (c : CoreId) (src : CoreId) (n : Nat) (isTok : Bool) (code : Byte) (len : Nat) (payload : W512)
    (cnt : Option (BitVec 5)) (claim : Option (BitVec 2 × Nat)) : State :=
  let r := (s.core c).ring n
  if !r.en || decide (r.cap ≤ r.used) then
    let s := s.setCore c ((s.core c).setRing n { r with err := true })
    s.perfAdd c 0x0C68 1
  else
    let s := (lmWrite s c (r.slotAddr r.wr) (leBytes (lenBytes len) payload.toNat)).2
    let s := (lmWrite s c (r.tagAddr r.wr) (leBytes 8 (tagEntry len isTok code src).toNat)).2
    let grants := match claim with | some (t, j) => spendGrant src t j r.grants | none => r.grants
    let s := s.setCore c ((s.core c).setRing n { r with wr := r.wr + 1, grants := grants })
    s.raiseCnt c cnt

/-- RING_MESSAGE_ARRIVE (R287, R345). -/
def execRingMessageArrive (pkt : Nat) (crcOk : Bool) (s : State) : Res :=
  onArrival s pkt (fun p c s =>
    match p.body with
    | .msg tag ring isTok code len payload cnt claim =>
      let s := dropPacket s p.id
      if !crcOk then e2eFail s c p.src
      else answer (ringWrite s c p.src ring.toNat isTok code len payload cnt claim) p tag (.ack tag false)
    | _ => s)

/-- What a bind request finds: the reason for a refusal, or none (R289, R291, R293). -/
def bindReason (s : State) (c src : CoreId) (altitude : Byte) (r : Ring) : Option (BitVec 3) :=
  if altitude.toNat ≤ (s.core c).altitude.toNat then some 1
  else if !r.en || r.mode then some 2
  else if r.holder.isSome then some 3
  else if !s.samePlace src c then some 4
  else none

/-- BIND_REQUEST_ARRIVE (R291, R293). -/
def execBindRequestArrive (pkt : Nat) (s : State) : Res :=
  onArrival s pkt (fun p c s =>
    match p.body with
    | .bindReq tag n ring altitude =>
      let s := dropPacket s p.id
      let r := (s.core c).ring ring.toNat
      match bindReason s c p.src altitude r with
      | some rsn => answer s p tag (.bindAns tag n rsn 0)
      | none =>
        let s := s.setCore c ((s.core c).setRing ring.toNat { r with holder := some (p.src, n) })
        answer s p tag (.bindAns tag n 0 (BitVec.ofNat 11 (r.cap - r.used)))
    | _ => s)

/-- BIND_ANSWER_ARRIVE (R291). -/
def execBindAnswerArrive (pkt : Nat) (s : State) : Res :=
  onArrival s pkt (fun p c s =>
    match p.body with
    | .bindAns tag n rsn credit =>
      let s := dropPacket s p.id
      match matchSlot s tag with
      | none => staleReply s c
      | some _ =>
        let s := closeSlot s c tag.slot true
        let b := (s.core c).bind n.toNat
        if b.state ≠ 1 then s
        else s.setCore c ((s.core c).setBind n.toNat { b with state := if rsn = 0 then 2 else 3, rsn := rsn, credit := credit })
    | _ => s)

/-- UNBIND_ARRIVE: the ring is free (R290). -/
def execUnbindArrive (pkt : Nat) (s : State) : Res :=
  onArrival s pkt (fun p c s =>
    match p.body with
    | .unbind n ring =>
      let s := dropPacket s p.id
      let r := (s.core c).ring ring.toNat
      if r.holder = some (p.src, n) then s.setCore c ((s.core c).setRing ring.toNat { r with holder := none }) else s
    | _ => s)

/-- CREDIT_RETURN_ARRIVE: the binding that holds the ring gains one credit (R288). -/
def execCreditReturnArrive (pkt : Nat) (s : State) : Res :=
  onArrival s pkt (fun p c s =>
    match p.body with
    | .credit n ring =>
      let s := dropPacket s p.id
      let b := (s.core c).bind n.toNat
      if b.state = 2 ∧ b.target = p.src ∧ b.ring = ring then s.setCore c ((s.core c).setBind n.toNat { b with credit := b.credit + 1 }) else s
    | _ => s)

/-- The capacity register that guards a ring: the lowest-numbered enabled one, its MM bit set when several apply (R211). -/
def applyCap (k : Core) (ring : BitVec 6) : Option Nat × Core :=
  match (List.range 8).filter (fun n => (k.cap n).en && (k.cap n).ring == ring) with
  | [] => (none, k)
  | [n] => (some n, k)
  | n :: _ => (some n, k.setCap n { k.cap n with mm := true })

/-- Answer a claim: refused at once, or granted when its slots are promised (R211, R291). -/
def claimAt (s : State) (c : CoreId) (p : Packet) (tag : ReqTag) (thr : BitVec 2) (ring : BitVec 6) (j slots : Nat) : State :=
  let (cap, k) := applyCap (s.core c) ring
  let r := k.ring ring.toNat
  let refuse := match cap with
    | some n => answer (s.setCore c (k.setCap n { k.cap n with refused := satInc (k.cap n).refused })) p tag (.claimAns tag thr j false)
    | none => answer (s.setCore c k) p tag (.claimAns tag thr j false)
  if !r.en || !r.mode then refuse
  else
    match cap with
    | none => drainClaims (s.setCore c (k.setRing ring.toNat { r with claims := r.claims ++ [{ tag := tag, thr := thr, j := j, slots := slots, capN := none }] })) c ring.toNat
    | some n =>
      if (k.cap n).used.toNat < (k.cap n).limit.toNat then
        let k := k.setCap n { k.cap n with used := (k.cap n).used + 1 }
        drainClaims (s.setCore c (k.setRing ring.toNat { r with claims := r.claims ++ [{ tag := tag, thr := thr, j := j, slots := slots, capN := some n }] })) c ring.toNat
      else refuse

/-- Withdraw a claim or a grant: USED of the register that granted it decrements and its slots are promised no more (R214). -/
def unclaimAt (s : State) (c src : CoreId) (thr : BitVec 2) (ring : BitVec 6) (j : Nat) : State :=
  let k := s.core c
  let r := k.ring ring.toNat
  let mine (w : RingClaim) : Bool := w.tag.core == src && w.thr == thr && w.j == j
  match (r.grants ++ r.claims).find? mine with
  | none => s
  | some w =>
    let k := match w.capN with
      | some n => k.setCap n { k.cap n with used := if (k.cap n).used = 0 then 0 else (k.cap n).used - 1 }
      | none => k
    drainClaims (s.setCore c (k.setRing ring.toNat
      { r with grants := r.grants.filter (fun g => !mine g), claims := r.claims.filter (fun g => !mine g) })) c ring.toNat

/-- ROUTE_CLAIM_ARRIVE: a claim, or the withdrawal of one (R211, R214, R291). -/
def execRouteClaimArrive (pkt : Nat) (s : State) : Res :=
  onArrival s pkt (fun p c s =>
    match p.body with
    | .claim tag thr ring j slots => claimAt (dropPacket s p.id) c p tag thr ring j slots
    | .unclaim thr ring j => unclaimAt (dropPacket s p.id) c p.src thr ring j
    | _ => s)

/-- ROUTE_CLAIM_ANSWER (R214). -/
def execRouteClaimAnswer (pkt : Nat) (s : State) : Res :=
  onArrival s pkt (fun p c s =>
    match p.body with
    | .claimAns tag thr j granted =>
      let s := dropPacket s p.id
      match matchSlot s tag with
      | none => staleReply s c
      | some _ => answerClaim (closeSlot s c tag.slot true) c thr j (if granted then 1 else 2)
    | _ => s)

end Sys2Proof.Machine
end

