-- ==== Sys2Proof/Machine/Sync.lean ====
section
/-! DEFINITION. Waits (R80, R81, R136 to R139), thread control (R102, R106 to R108), barriers (R295, R296), the queue-port binding (R86), alarms
(R529), and the delivery of asynchronous faults (R110, R198). -/

namespace Sys2Proof.Machine

/-! ## The wait opcodes (R136 to R138) -/

/-- WAIT: issues once VAL of the counter is at least bits [31:0] of O1, unsigned. -/
def execWait (i : Site) (o1 : Byte) (imm : W32) (s : State) : Res :=
  issue s i 0xDC [o1] imm (fun x =>
    let n := rawImm x.px imm % 32
    withOps x [] [o1] (fun k vs _ =>
      let v := bits (vs.getD 0 0) 31 0
      if v ≤ bits (x.k.acnt n) 31 0 then .done (x.s.setCore x.c k) [] none else .wait x.s (newWait x.s 7 n v)))

/-- MSYNC: issues once at most n matrix operations of the thread are incomplete; the record tells whether one that completed since the
previous MSYNC clamped. -/
def execMsync (i : Site) (o1 : Byte) (imm : W32) (s : State) : Res :=
  issue s i 0xDD [o1] imm (fun x =>
    let n := rawImm x.px imm % 16
    withOps x [o1] [] (fun k _ ds =>
      let m := x.k.meCount x.t
      if n < m then .wait x.s (newWait x.s 3 n 0)
      else
        let th := k.thread x.t
        .done (x.s.setCore x.c (k.setThread x.t { th with clamped := false }))
          (ds.map (fun d => { lat := latBlock, dst := d, val := BitVec.ofNat 512 (m * 256 + (if th.clamped then 0x11 else 0)) })) none))

/-- DSYNC: pops the oldest completion record. -/
def execDsync (i : Site) (o1 : Byte) (s : State) : Res :=
  issue s i 0xDE [o1] 0 (fun x =>
    withOps x [o1] [] (fun k _ ds =>
      match x.th.records with
      | [] => .wait x.s (newWait x.s 4 0 0)
      | r :: rest =>
        .done (x.s.setCore x.c (k.setThread x.t ((k.thread x.t).setRecords rest)))
          (ds.map (fun d => { lat := latBlock, dst := d, val := r.zeroExtend 512 })) none))

/-- A thread arrives at a barrier slot when it is in THRMASK of a member core (R296). -/
def arriveBar (k : Core) (t : BitVec 2) (n : Nat) : Core :=
  let b := k.bar n
  if b.member && b.mask.getLsbD t.toNat then k.setBar n { b with arrived := b.arrived ||| ((1 : BitVec 4) <<< t.toNat) } else k

/-- BAR: arrives at the slot and waits for its completion (R296). -/
def execBar (i : Site) (imm : W32) (s : State) : Res :=
  issue s i 0xDF [] imm (fun x =>
    let n := rawImm x.px imm % 16
    match x.th.wait with
    | some w => if w.done then .done x.s [] none else .wait x.s w
    | none => .wait (x.s.setCore x.c (arriveBar x.k x.t n)) (newWait x.s 8 n (x.k.bar n).phase.toNat))

/-- The wait object and argument as THR_FADDRn of a WAIT_TIMEOUT and a cast hold them (R305). -/
def waitObject (w : Wait) : W64 := BitVec.ofNat 64 (w.index % 2 ^ 28 + w.kind % 16 * 2 ^ 28 + w.arg % 2 ^ 32 * 2 ^ 32)

/-- ns that a wait has lasted, parked time left out (R81, R107). -/
def waited (s : State) (th : Thread) (w : Wait) : Nat := w.spent.toNat + (if th.st == .waiting then s.since w.begun else 0)

/-! ## Thread control (R102, R106 to R108) -/

/-- PARK: a running or waiting thread; its wait timer stands (R106, R107). -/
def parkThread (s : State) (c : CoreId) (t : BitVec 2) : State :=
  let th := s.thread c t
  if th.st == .running || th.st == .waiting then
    s.setThread c t { th with st := .parked, parkedFrom := th.st,
                              wait := th.wait.map (fun w => { w with spent := BitVec.ofNat 64 (waited s th w) }) }
  else s

/-- UNPARK: the state held before PARK, with the time remaining (R106, R107). -/
def unparkThread (s : State) (c : CoreId) (t : BitVec 2) : State :=
  let th := s.thread c t
  if th.st == .parked then s.setThread c t { th with st := th.parkedFrom, wait := th.wait.map (fun w => { w with begun := s.time }) } else s

/-- STOP: a wait is abandoned, earlier results complete, the fault record is kept (R106, R109). A START that is held stays held and acts later:
DEDUCED, log 45. -/
def stopThread (s : State) (c : CoreId) (t : BitVec 2) : State :=
  if (s.thread c t).st == .stopped then s
  else
    let s := abandonWait s c t false
    let k := flushPend (s.core c) t
    s.setCore c (k.setThread t { k.thread t with st := .stopped, wait := none, claims := [] })

/-- A write to THR_CTLn (R102). -/
def thrCtlOp (s : State) (c : CoreId) (t : BitVec 2) (val : W64) : State :=
  let s := s.setThread c t { s.thread c t with startPc := BitVec.ofNat 16 (bits val 31 16) }
  match bits val 2 0 with
  | 1 => startThread s c t
  | 2 => parkThread s c t
  | 3 => unparkThread s c t
  | 4 => stopThread s c t
  | _ => s

/-- A command to a core of the clocked part; a core_id with column 48 to 63 names no core. -/
def onCore (s : State) (c : CoreId) (f : State → State) : Res :=
  if !isCore c then .fault .noSuchCore else if !s.clocked then .next s else .next (f s)

/-- THR_START (R106, R108). -/
def execThrStart (core : CoreId) (thr : BitVec 2) (startPc : W16) (s : State) : Res :=
  onCore s core (fun s => thrCtlOp s core thr (BitVec.ofNat 64 (startPc.toNat * 2 ^ 16 + 1)))
/-- THR_PARK (R106). -/
def execThrPark (core : CoreId) (thr : BitVec 2) (s : State) : Res := onCore s core (fun s => parkThread s core thr)
/-- THR_UNPARK (R107). -/
def execThrUnpark (core : CoreId) (thr : BitVec 2) (s : State) : Res := onCore s core (fun s => unparkThread s core thr)
/-- THR_STOP (R106). -/
def execThrStop (core : CoreId) (thr : BitVec 2) (s : State) : Res := onCore s core (fun s => stopThread s core thr)

/-! ## Per-thread and core-wide registers with a row of their own -/

/-- Whether a thread waits on a queue port (R86). A PARKED thread whose wait stands counts, and so does the thread whose own OUT to CORE_QCFG
issues now after a wait on the port: DEDUCED, log 124. -/
def Core.portAwaited (k : Core) (p : Nat) : Bool :=
  allThreads.any (fun t => match (k.thread t).wait with | some w => (w.kind == 1 || w.kind == 2) && w.index == p | none => false)

/-- A write to CORE_QCFG: each port whose binding changes is empty, and a port that a thread waits on keeps binding and contents (R86,
R101). -/
def qcfgOp (s : State) (c : CoreId) (val : W64) : State :=
  let k := s.core c
  let change (p : Nat) : Bool := bits val (4 * p + 3) (4 * p) != bits k.qcfg (4 * p + 3) (4 * p) && !k.portAwaited p
  let q := (List.range 8).foldl (fun n p => n + 16 ^ p * (if change p then bits val (4 * p + 3) (4 * p) else bits k.qcfg (4 * p + 3) (4 * p))) 0
  let k' := (List.range 8).foldl (fun (k : Core) p => if change p then k.setPort p [] else k) k
  s.setCore c { k' with qcfg := BitVec.ofNat 32 q }

/-- CORE_QCFG_WRITE (R86). -/
def execCoreQcfgWrite (core : CoreId) (val : W64) (s : State) : Res := onCore s core (fun s => qcfgOp s core val)

/-- A write to THR_WAITTO, clamped over the whole 64-bit value (R103). -/
def waittoOp (s : State) (c : CoreId) (t : BitVec 2) (val : W64) : State :=
  s.setThread c t { s.thread c t with waitTo := if val = 0 then 1 else if 1000000 < val.toNat then 1000000 else BitVec.ofNat 20 val.toNat }

/-- THR_WAITTO_WRITE (R103). -/
def execThrWaittoWrite (core : CoreId) (thr : BitVec 2) (val : W64) (s : State) : Res := onCore s core (fun s => waittoOp s core thr val)

/-- A write to THR_RNGS or THR_RNGM: zero loads the constant; queued matrix operations continue with the old sequence (R51). -/
def rngOp (s : State) (c : CoreId) (t : BitVec 2) (matrix : Bool) (val : W64) : State :=
  let th := s.thread c t
  if matrix then
    s.setThread c t { th with rngM := rngFix val, rngEpoch := th.rngEpoch + 1, rngOld := tabPut th.rngOld th.rngEpoch th.rngM }
  else s.setThread c t { th with rngS := rngFix val }

/-- THR_RNG_WRITE (R51). -/
def execThrRngWrite (core : CoreId) (thr : BitVec 2) (matrix : Bool) (val : W64) (s : State) : Res :=
  onCore s core (fun s => rngOp s core thr matrix val)

/-! ## Alarms (R528, R529) -/

/-- Whether an armed alarm lies in the past: its distance modulo 2^58 is 0 or at least 2^57. -/
def alarmDue (s : State) (alarm : W64) : Bool :=
  let d := (bits alarm 57 0 + 2 ^ 58 - bits s.time 57 0) % 2 ^ 58
  alarm.getLsbD 63 && (d == 0 || decide (2 ^ 57 ≤ d))

/-- Fire a due alarm: ALARM_EN clears and its counter rises by 1. -/
def fireAlarm (s : State) (c : CoreId) (t : BitVec 2) : State :=
  let th := s.thread c t
  if alarmDue s th.alarm then
    (s.setThread c t { th with alarm := BitVec.ofNat 64 (bits th.alarm 62 0) }).raiseCnt c (some (BitVec.ofNat 5 (bits th.alarm 62 58)))
  else s

/-- A write to TMR_ALARM; one already past fires at once. -/
def alarmOp (s : State) (c : CoreId) (t : BitVec 2) (val : W64) : State :=
  fireAlarm (s.setThread c t { s.thread c t with alarm := val }) c t

/-- ALARM_FIRE (R529). -/
def execAlarmFire (core : CoreId) (thr : BitVec 2) (now : W64) (s : State) : Res :=
  onCore s core (fun s => fireAlarm (s.atTime now) core thr)

/-! ## Barriers (R295, R296) -/

/-- Whether a thread waits in BAR on a slot. -/
def inBar (th : Thread) (n : Nat) : Bool := match th.wait with | some w => w.kind == 8 && w.index == n && !w.done | none => false

/-- A write to BAR_SLOTs: THRMASK takes effect now, or at the next phase while a thread of the core waits in BAR on the slot (R296). -/
def thrmaskOp (s : State) (c : CoreId) (n : Nat) (val : W64) : State :=
  let k := s.core c
  let b := k.bar n
  let m : BitVec 4 := BitVec.ofNat 4 (bits val 3 0)
  if k.place.isNone then s
  else if allThreads.any (fun t => inBar (k.thread t) n) then s.setCore c (k.setBar n { b with maskNext := some m })
  else
    let b := { b with mask := m, maskNext := none }
    s.setCore c (k.setBar n { b with plane := b.plane && b.covered })

/-- BAR_THRMASK_WRITE (R296). -/
def execBarThrmaskWrite (core : CoreId) (slot : BitVec 4) (val : W64) (s : State) : Res :=
  onCore s core (fun s => thrmaskOp s core slot.toNat val)

/-- The cores of a placement. -/
def State.placeCores (s : State) (place : Nat) : List CoreId := (tabGet {} s.places place).cores.map (·.core)

/-- The member cores of a barrier slot in the placement of a core (R295). -/
def memberCores (s : State) (c : CoreId) (n : Nat) : List CoreId :=
  match (s.core c).place with
  | some p => (s.placeCores p).filter (fun d => ((s.core d).bar n).member)
  | none => []

/-- The next phase of a slot at one core (R296). -/
def releaseBar (n : Nat) (s : State) (c : CoreId) : State :=
  let k := s.core c
  let b := k.bar n
  let k := k.setBar n { b with arrived := 0, plane := false, phase := b.phase + 1, mask := b.maskNext.getD b.mask, maskNext := none }
  s.setCore c (allThreads.foldl (fun (k : Core) t =>
    let th := k.thread t
    if inBar th n then k.setThread t { th with wait := th.wait.map (fun w => { w with done := true }) } else k) k)

/-- Whether a slot completes: every member core has arrived, and some member has a nonzero THRMASK or a waiting thread (R296). -/
def barComplete (s : State) (cs : List CoreId) (n : Nat) : Bool :=
  !cs.isEmpty && cs.all (fun c => ((s.core c).bar n).plane)
    && cs.any (fun c => ((s.core c).bar n).mask != 0 || allThreads.any (fun t => inBar (s.thread c t) n))

/-- BARRIER_ARRIVAL: what the core has sent reaches the barrier plane: its arrival once ARRIVED covers THRMASK, or the withdrawal of an arrival
that a timeout has taken back; a withdrawal that comes after the slot has completed is too late (R139, R296). -/
def execBarrierArrival (core : CoreId) (slot : BitVec 4) (s : State) : Res :=
  onCore s core (fun s =>
    let k := s.core core
    let b := k.bar slot.toNat
    if !b.member then s
    else if b.covered then s.setCore core (k.setBar slot.toNat { b with plane := true })
    else if barComplete s (memberCores s core slot.toNat) slot.toNat then s
    else s.setCore core (k.setBar slot.toNat { b with plane := false }))

/-- BARRIER_RELEASE (R296). -/
def execBarrierRelease (place : Nat) (slot : BitVec 4) (s : State) : Res :=
  if !s.clocked then .next s
  else
    let cs := (s.placeCores place).filter (fun c => ((s.core c).bar slot.toNat).member)
    if barComplete s cs slot.toNat then .next (cs.foldl (releaseBar slot.toNat) s) else .next s

/-! ## Asynchronous faults (R109, R110, R198) -/

/-- A failed check of the vector engine: the instruction that has the result in flight has no effect, RNG-S holds what it held before it, and
the thread takes ARITH_CHECK with the register's number (R198). -/
def vecCheck (s : State) (c : CoreId) (t : BitVec 2) (n : Nat) : State :=
  let th := s.thread c t
  match th.pend.find? (fun w => w.dst == .v n) with
  | none => s
  | some w =>
    let th := { th with pend := th.pend.filter (fun p => !(p.due == w.due && p.pc == w.pc)), rngS := w.rng }
    deliverFault (faultReport (s.setThread c t th) c 0x0B (BitVec.ofNat 64 n)) c t 0x0B w.pc (BitVec.ofNat 64 n)

/-- ASYNC_FAULT_DELIVERY (R110, R198). -/
def execAsyncFaultDelivery (core : CoreId) (thr : BitVec 2) (ve : Option (BitVec 5)) (s : State) : Res :=
  onCore s core (fun s =>
    match ve with
    | some n => vecCheck s core thr n.toNat
    | none =>
      deliverNext s core thr)

end Sys2Proof.Machine
end

