-- ==== Sys2Proof/Machine/Dma.lean ====
section
/-! DEFINITION. The DMA channels (R204, R205, R237 to R250): descriptors and their checks, read and write packets, progress and event records, the
channel commands, retries and halts. -/

namespace Sys2Proof.Machine

/-! ## Descriptors (R244, R245) -/

/-- The fields of a descriptor. -/
structure Desc where
  src     : W64
  dst     : W64
  len0    : Nat
  rows    : Nat
  planes  : Nat
  sstr1   : Nat
  dstr1   : Nat
  sstr2   : Nat
  dstr2   : Nat
  gather  : W64
  next    : Nat
  ctrl    : W32
  expDst  : W64
deriving DecidableEq, Repr

/-- Read a descriptor from its 64 B. -/
def descOf (bs : List Byte) : Desc :=
  let f (lo n : Nat) := leNat ((bs.drop lo).take n)
  { src := BitVec.ofNat 64 (f 0 8), dst := BitVec.ofNat 64 (f 8 8), len0 := f 16 4, rows := f 20 2 + 1, planes := f 22 2 + 1,
    sstr1 := f 24 4, dstr1 := f 28 4, sstr2 := f 32 4, dstr2 := f 36 4, gather := BitVec.ofNat 64 (f 40 8), next := f 48 4,
    ctrl := BitVec.ofNat 32 (f 52 4), expDst := BitVec.ofNat 64 (f 56 8) }

def Desc.mode (d : Desc) : Nat := bits d.ctrl 2 0
def Desc.mark (d : Desc) : Bool := d.ctrl.getLsbD 3
def Desc.gfmt (d : Desc) : Nat := bits d.ctrl 5 4
def Desc.isGather (d : Desc) : Bool := d.ctrl.getLsbD 6
def Desc.cntEn (d : Desc) : Bool := d.ctrl.getLsbD 7
def Desc.acnt (d : Desc) : BitVec 5 := BitVec.ofNat 5 (bits d.ctrl 12 8)
def Desc.inc (d : Desc) : Bool := d.ctrl.getLsbD 13
def Desc.evh (d : Desc) : Bool := d.ctrl.getLsbD 14
def Desc.evf (d : Desc) : Bool := d.ctrl.getLsbD 15
def Desc.evthr (d : Desc) : BitVec 2 := BitVec.ofNat 2 (bits d.ctrl 17 16)
/-- Bytes of a group's elements: 16, 32 or 64 (R36, R245). -/
def Desc.group (d : Desc) : Nat := 8 * 2 ^ d.gfmt
/-- Exponent bytes of compress and expand modes (R247). -/
def Desc.exps (d : Desc) : Nat := if d.mode = 1 then d.len0 / d.group else d.sstr1

/-- A signed 32-bit stride times a count, as a 64-bit address difference. -/
def strideMul (st n : Nat) : W64 := BitVec.ofInt 64 (toSigned 32 st * n)

/-- Destination address of row `i` in transfer order (R246). -/
def Desc.rowDst (d : Desc) (i : Nat) : W64 := d.dst + strideMul d.dstr2 (i / d.rows) + strideMul d.dstr1 (i % d.rows)
/-- Source address of row `i` without a gather list (R246). -/
def Desc.rowSrc (d : Desc) (i : Nat) : W64 := d.src + strideMul d.sstr2 (i / d.rows) + strideMul d.sstr1 (i % d.rows)

/-! ## Checks (R248, R96) -/

/-- First byte past the populated stretch that holds an address. -/
def State.stretchEnd (s : State) (a : W64) : Nat :=
  match s.classify a with
  | .own _ => lmSize
  | .window _ off => a.toNat - off + lmSize
  | .commons _ off => a.toNat - off + commonsSize
  | .hbm _ off => if off < s.hbmReserved then a.toNat - off + s.hbmReserved else a.toNat - off + s.hbmSize
  | _ => a.toNat

/-- Whether a thread may access every byte of `[a, a + n)`; `fuel` bounds the stretches. -/
def rangeOk (s : State) (c : CoreId) (priv : Bool) : Nat → W64 → Nat → Bool
  | 0, _, _ => false
  | fuel + 1, a, n =>
    if n = 0 then true
    else if !(s.rangeFaults c priv a).isEmpty then false
    else if a.toNat + n ≤ s.stretchEnd a then true
    else rangeOk s c priv fuel (BitVec.ofNat 64 (s.stretchEnd a)) (n - (s.stretchEnd a - a.toNat))

/-- A range check with fuel for every stretch that data space has. -/
def rangeFine (s : State) (c : CoreId) (priv : Bool) (a : W64) (n : Nat) : Bool := rangeOk s c priv 20 a n

/-- The rules of R245, R247 and R248 on a descriptor's own words. -/
def descFieldsOk (d : Desc) : Bool :=
  decide (d.mode ≤ 2) && bits d.ctrl 31 18 == 0 && decide (d.len0 ≠ 0) && d.next % 64 == 0
    && (if d.mode = 0 then d.gfmt == 0 && !d.mark && d.expDst == 0
          && (!d.isGather || (d.gather.toNat % 8 == 0 && decide (d.gather.toNat + 8 * (d.rows * d.planes) ≤ lmSize)))
        else decide (1 ≤ d.gfmt) && d.rows == 1 && d.planes == 1 && !d.isGather && d.dstr1 == 0 && d.sstr2 == 0 && d.dstr2 == 0
          && (if d.mode = 1 then d.sstr1 == 0 && d.len0 % d.group == 0 else !d.mark))

/-- The ranges of R248: every source and destination byte, but for gathered rows, which are checked as their entries are read. -/
def descRangesOk (s : State) (c : CoreId) (priv : Bool) (d : Desc) : Bool :=
  if d.mode = 0 then
    (List.range (d.rows * d.planes)).all (fun i =>
      rangeFine s c priv (d.rowDst i) d.len0 && (d.isGather || rangeFine s c priv (d.rowSrc i) d.len0))
  else
    rangeFine s c priv d.src d.len0 && rangeFine s c priv d.gather d.exps && rangeFine s c priv d.expDst d.exps
      && rangeFine s c priv d.dst (if d.mode = 1 then d.len0 else d.exps * d.group)

/-! ## Channels -/

/-- Channel `n` of a core. -/
def Core.chan (k : Core) (n : Nat) : Chan := tabGet {} k.chans n
/-- Replace a channel. -/
def Core.setChan (k : Core) (n : Nat) (x : Chan) : Core := { k with chans := tabPut k.chans n x }
/-- Replace a channel of a core of the part. -/
def State.setChan (s : State) (c : CoreId) (n : Nat) (x : Chan) : State := s.setCore c ((s.core c).setChan n x)
/-- The descriptor a channel runs. -/
def Chan.d (x : Chan) : Desc := descOf x.words

/-- Post an event record of a channel (R138, R249). -/
def chanRecord (s : State) (c : CoreId) (n : Nat) (event status : Nat) : State :=
  let x := (s.core c).chan n
  postDsync s c x.evthr (dsyncRec (min x.bytes.toNat 0xFFFFFFFF) n event status)

/-- Whether the buffer holds `[o, o + n)`. -/
def Chan.holds (x : Chan) (o n : Nat) : Bool := (List.range n).all (fun j => (tabLook x.buf (o + j)).isSome)
/-- Buffered source bytes. -/
def Chan.bytesAt (x : Chan) (o n : Nat) : List Byte := (List.range n).map (fun j => tabGet 0 x.buf (o + j))

/-- What the channel knows of group `g`. -/
def Chan.group (x : Chan) (g : Nat) : GroupInfo := tabGet {} x.groups g
/-- Whether it is settled that group `g` is a zero group or is not. -/
def Chan.settled (x : Chan) (g : Nat) : Bool := (x.group g).absent.isSome && (!x.d.mark || (x.group g).seen == x.d.group)
/-- Whether every group of the descriptor is settled. -/
def Chan.allSettled (x : Chan) : Bool := (List.range x.d.exps).all x.settled
/-- Whether a settled group is a zero group: its E8 is 0x80, or MARK is set and its element bytes are all zero (R204). -/
def Chan.zeroGroup (x : Chan) (g : Nat) : Bool := (x.group g).absent == some true || (x.d.mark && !(x.group g).any)
/-- The groups below `n` that are no zero groups, in order. -/
def Chan.liveGroups (x : Chan) (n : Nat) : List Nat := (List.range n).filter (fun g => !x.zeroGroup g)

/-- Stream bytes that expand mode consumes, once every exponent is read (R205). -/
def Chan.streamLen (x : Chan) : Nat := min x.d.len0 ((x.liveGroups x.d.exps).length * x.d.group)

/-- Source bytes of the descriptor in transfer order; compress and expand modes take the exponent array first. None while expand mode has
not yet read the exponents that fix it. -/
def Chan.srcTotal (x : Chan) : Option Nat :=
  let d := x.d
  if d.mode = 0 then some (d.len0 * (d.rows * d.planes))
  else if d.mode = 1 then some (d.exps + d.len0)
  else if x.allSettled then some (d.exps + x.streamLen) else none

/-- Destination bytes of the descriptor, where known: in compress and expand modes the exponent array, then the elements. -/
def Chan.dstTotal (x : Chan) : Option Nat :=
  let d := x.d
  if d.mode = 0 then x.srcTotal
  else if d.mode = 2 then some (d.exps + d.exps * d.group)
  else if x.allSettled then some (d.exps + (x.liveGroups d.exps).length * d.group) else none

/-- The source element byte that destination element byte `t` holds; none for a byte that expand mode writes as zero (R204, R205). -/
def Chan.elemSrc (x : Chan) (t : Nat) : Option Nat :=
  let d := x.d
  let g := t / d.group
  if d.mode = 1 then ((x.liveGroups d.exps)[g]?).map (fun l => l * d.group + t % d.group)
  else if x.zeroGroup g then none
  else
    let o := (x.liveGroups g).length * d.group + t % d.group
    if o < d.len0 then some o else none

/-- Destination bytes complete without a gap: those before the first write not acknowledged. -/
def Chan.dstDone (x : Chan) : Nat := ((x.outs.filter (fun o => !o.ack)).map (·.at_)).foldl min x.wr

/-- Offset in the source, in transfer order, of the first byte whose destination is not among the first `w` destination bytes (R241). -/
def Chan.srcPos (x : Chan) (w : Nat) : Nat :=
  let d := x.d
  if d.mode = 0 ∨ w < d.exps then w
  else
    let t := w - d.exps
    if d.mode = 1 then d.exps + (x.elemSrc t).getD d.len0
    else
      let here := if d.exps ≤ t / d.group ∨ x.zeroGroup (t / d.group) then 0 else t % d.group
      d.exps + min ((x.liveGroups (min d.exps (t / d.group))).length * d.group + here) d.len0

/-- POS and BYTES after progress, the half record when it falls due, and buffered bytes that are needed no more (R241, R249). -/
def chanProgress (s : State) (c : CoreId) (n : Nat) : State :=
  let x := (s.core c).chan n
  let d := x.d
  let w := x.dstDone
  let p := x.srcPos w
  let b := if d.mode = 0 then w else w - d.exps
  let due := d.evh && !x.half && (match x.srcTotal with | some t => decide (t ≤ 2 * p) | none => false)
  let s := s.setChan c n { x with pos := BitVec.ofNat 64 p, bytes := BitVec.ofNat 64 b, buf := tabClear 0 p x.buf, half := x.half || due }
  if due then chanRecord s c n 1 0 else s

/-- A channel without packets in flight, buffered data or failures: what it moved and what it knows of its groups stays. -/
def Chan.settle (x : Chan) : Chan :=
  { x with buf := [], ins := [], outs := [], bad := [], tries := [], row := none, gen := x.gen + 1 }

/-- Halt a channel: buffered data is discarded and a halted record is posted (R249, R250). -/
def chanHalt (s : State) (c : CoreId) (n : Nat) (st : ChSt) (status : Byte) (retries : Byte) (addr : Option W64) : State :=
  let x := (s.core c).chan n
  let x := { x.settle with st := st, errStat := status, retries := retries, errAddr := addr.getD x.errAddr, wr := x.dstDone }
  releaseHeld (chanRecord (s.setChan c n x) c n 3 status.toNat) c

/-- Reject the descriptor at hand (R248). -/
def chanReject (s : State) (c : CoreId) (n : Nat) : State := chanHalt s c n .haltedInvalid 0x0D 0 none

/-- Read and check the descriptor at DESC: a bad word is a failed packet, a bad descriptor is rejected (R248, R250). -/
def chanBegin (s : State) (c : CoreId) (n : Nat) : State :=
  let x := (s.core c).chan n
  let x := { x.settle with words := [], rd := 0, wr := 0, pos := 0, bytes := 0, half := false, groups := [], tries := x.tries }
  let s := s.setChan c n x
  let a := x.desc.toNat
  if a % 64 ≠ 0 ∨ lmSize < a + 64 then chanReject s c n
  else
    let (bs, bads, s) := lmRead s c a 64
    let ctrlBad := bads.any (fun b => b.1 = a / 8 + 6)
    let x := if ctrlBad then x else { x with evthr := (descOf bs).evthr }
    match bads with
    | (w, _) :: _ => s.setChan c n { x with bad := [(BitVec.ofNat 64 (8 * w), 0, 2)] }
    | [] =>
      let s := s.setChan c n { x with words := bs }
      if descFieldsOk (descOf bs) && descRangesOk s c (s.thread c x.thr).priv (descOf bs) then s else chanReject s c n

/-! ## Packets (R231, R237, R246) -/

/-- What a byte in the order of reads is: a byte of the source in move mode, an exponent, an element byte looked at for MARK, an element byte to
move (the last three by their offset in their array). -/
inductive Seg where
  | move | exps | look | elems
deriving DecidableEq, Repr

/-- Exponents that compress mode with MARK reads before it looks at their groups (log 15). -/
def markBlock : Nat := 64

/-- The byte at place `q` in the order of reads: what it is, its offset, and how many bytes follow in one run (log 15). -/
def Chan.seqAt (x : Chan) (q : Nat) : Seg × Nat × Nat :=
  let d := x.d
  if d.mode = 0 then (.move, q, d.len0 - q % d.len0)
  else if d.mode = 1 && d.mark && decide (q < d.exps + d.len0) then
    let b := q / (markBlock * (1 + d.group))
    let r := q % (markBlock * (1 + d.group))
    let n := min markBlock (d.exps - markBlock * b)
    if r < n then (.exps, markBlock * b + r, n - r) else (.look, markBlock * b * d.group + (r - n), n * d.group - (r - n))
  else if q < d.exps then (.exps, q, d.exps - q)
  else
    let o := q - d.exps - (if d.mode = 1 ∧ d.mark then d.len0 else 0)
    (.elems, o, (if d.mode = 1 then d.len0 else x.streamLen) - o)

/-- The place in the order of reads from which a descriptor goes on at offset `p` of its source. -/
def Chan.seqFrom (x : Chan) (p : Nat) : Nat :=
  let d := x.d
  if d.mode = 1 ∧ d.mark then
    (if p < d.exps then p / markBlock * (markBlock * (1 + d.group)) + p % markBlock else p + d.len0)
  else p

/-- Whether a descriptor has a byte still to be asked for that may be asked for now: element bytes wait for every group to be settled. -/
def Chan.moreToRead (x : Chan) : Bool :=
  let d := x.d
  if d.mode = 0 then decide (x.rd < d.len0 * (d.rows * d.planes))
  else if x.allSettled then decide (x.rd < x.seqFrom (d.exps + (if d.mode = 1 then d.len0 else x.streamLen)))
  else decide (x.rd < d.exps + (if d.mode = 1 ∧ d.mark then d.len0 else 0))

/-- The read at a place in the order of reads: its address and length up to the run's end and the next 64 B boundary, and the gathered row that
gave it. -/
inductive SrcPiece where
  | at_ (addr : W64) (n : Nat) (row : Option (Nat × W64))
  | badEntry (addr : W64)          -- a gather entry that cannot be read
  | illegal                        -- a gather entry that R248 forbids
deriving DecidableEq, Repr

/-- Bytes from an address up to the next 64 B boundary, at most `n`. -/
def toLine (a : W64) (n : Nat) : Nat := min n (64 - a.toNat % 64)

/-- The read at place `q`. The entry of a gathered row is read when the row's first packet is (R246). -/
def srcPiece (s : State) (c : CoreId) (x : Chan) (q : Nat) : SrcPiece × State :=
  let d := x.d
  let (seg, o, room) := x.seqAt q
  let piece (a : W64) (row : Option (Nat × W64)) : SrcPiece := .at_ a (toLine a room) row
  match seg with
  | .exps => (piece (d.gather + BitVec.ofNat 64 o) none, s)
  | .move =>
    let i := o / d.len0
    let b := BitVec.ofNat 64 (o % d.len0)
    if !d.isGather then (piece (d.rowSrc i + b) none, s)
    else
      match x.row.filter (fun r => r.1 == i) with
      | some r => (piece (r.2 + b) (some r), s)
      | none =>
        let ea := d.gather.toNat + 8 * i
        let (bs, bads, s) := lmRead s c ea 8
        let row : W64 := BitVec.ofNat 64 (leNat bs)
        if !bads.isEmpty then (.badEntry (BitVec.ofNat 64 ea), s)
        else if !rangeFine s c (s.thread c x.thr).priv row d.len0 then (.illegal, s)
        else (piece (row + b) (some (i, row)), s)
  | _ => (piece (d.src + BitVec.ofNat 64 o) none, s)

/-- Change what a channel knows of a group. -/
def Chan.noteGroup (x : Chan) (g : Nat) (f : GroupInfo → GroupInfo) : Chan := { x with groups := tabPut x.groups g (f (x.group g)) }

/-- Take the bytes that a read brought, by what they are: exponents tell which groups are absent, bytes looked at tell which groups are zero, and
compress mode drops the elements of zero groups (R204, R205). -/
def Chan.take (x : Chan) (q : Nat) (bs : List Byte) : Chan :=
  let d := x.d
  let (seg, o, _) := x.seqAt q
  match seg with
  | .move => { x with buf := addPieces x.buf o bs }
  | .exps =>
    bs.zipIdx.foldl (fun (x : Chan) (e : Byte × Nat) => x.noteGroup (o + e.2) (fun i => { i with absent := some (e.1 == 0x80) })) { x with buf := addPieces x.buf o bs }
  | .look =>
    bs.zipIdx.foldl (fun (x : Chan) (e : Byte × Nat) => x.noteGroup ((o + e.2) / d.group) (fun i =>
      if i.seen < d.group then { i with seen := i.seen + 1, any := i.any || e.1 != 0 } else i)) x
  | .elems =>
    { x with buf := bs.zipIdx.foldl (fun b (e : Byte × Nat) =>
        if d.mode = 1 && x.zeroGroup ((o + e.2) / d.group) then b else addPieces b (d.exps + o + e.2) [e.1]) x.buf }

/-- The data of the read packet at place `q` has come. -/
def chanFill (s : State) (c : CoreId) (n q : Nat) (bs : List Byte) : State :=
  let x := (s.core c).chan n
  s.setChan c n { x.take q bs with ins := x.ins.filter (fun e => e.at_ != q), tries := tabDel x.tries (4 * q) }

/-- Send the read packet of an entry of `ins`, first or again. -/
def sendRead (s : State) (c : CoreId) (n : Nat) (e : ChIn) : State :=
  let x := (s.core c).chan n
  match s.classify e.addr with
  | .own off =>
    let (bs, bads, s) := lmRead s c off e.len
    if bads.isEmpty then chanFill s c n e.at_ bs else dmaFailed s c (BitVec.ofNat 3 n) x.gen e.addr e.at_ 0
  | pl =>
    match s.destOf pl with
    | none => dmaFailed s c (BitVec.ofNat 3 n) x.gen e.addr e.at_ 0
    | some d =>
      let tgt := match d with | .core t => some t | _ => none
      let (s, tag) := openSlot s c (.dmaRead (BitVec.ofNat 3 n) x.gen e.at_) x.thr 0 e.addr (destUnit d) tgt 0 none
      inject s 0 c d (.load tag e.addr e.len) [] true

/-- Issue the read packet at place `q` of the order of reads. -/
def readPacket (s : State) (c : CoreId) (n : Nat) (q : Nat) : State :=
  let x := (s.core c).chan n
  let (p, s) := srcPiece s c x q
  match p with
  | .illegal => chanReject s c n
  | .badEntry a => s.setChan c n { (s.core c).chan n with bad := x.bad ++ [(a, q, 3)] }
  | .at_ a len row =>
    let e : ChIn := { at_ := q, addr := a, len := len }
    let x := (s.core c).chan n
    let tries := if row.isSome then tabDel x.tries (4 * q + 3) else x.tries
    sendRead (s.setChan c n { x with rd := max x.rd (q + len), ins := x.ins ++ [e], row := row, tries := tries }) c n e

/-- The write at destination offset `w`: its address and length, when its source bytes are buffered and settled. -/
def dstPiece (x : Chan) (w : Nat) : Option (W64 × List Byte) :=
  let d := x.d
  if d.mode = 0 then
    let i := w / d.len0
    let b := w % d.len0
    let a := d.rowDst i + BitVec.ofNat 64 b
    let n := toLine a (d.len0 - b)
    if x.holds w n then some (a, x.bytesAt w n) else none
  else if w < d.exps then
    let a := d.expDst + BitVec.ofNat 64 w
    let n := toLine a (d.exps - w)
    if x.holds w n && (List.range n).all (fun j => x.settled (w + j)) then
      some (a, (List.range n).map (fun j => if d.mark && x.zeroGroup (w + j) then 0x80 else tabGet 0 x.buf (w + j)))
    else none
  else if !x.allSettled then none
  else
    let a := d.dst + BitVec.ofNat 64 (w - d.exps)
    let os := (List.range (toLine a ((x.dstTotal.getD 0) - w))).map (fun j => x.elemSrc (w - d.exps + j))
    if os.all (fun o => match o with | some o => x.holds (d.exps + o) 1 | none => true) then
      some (a, os.map (fun o => match o with | some o => tabGet 0 x.buf (d.exps + o) | none => 0))
    else none

/-- A write of `[w, w + n)` is complete at its destination. -/
def chanAck (s : State) (c : CoreId) (n w : Nat) : State :=
  let x := (s.core c).chan n
  chanProgress (s.setChan c n { x with outs := x.outs.map (fun o => if o.at_ = w then { o with ack := true } else o), tries := tabDel x.tries (4 * w + 1) }) c n

/-- Issue the write packet at destination offset `w`, first or again. A write into own local memory completes at once (R230, R231, R274). -/
def writePacket (s : State) (c : CoreId) (n : Nat) (w : Nat) (a : W64) (bs : List Byte) : State :=
  let x := (s.core c).chan n
  let d := x.d
  let last := x.dstTotal == some (w + bs.length)
  let cnt := if d.cntEn && (!d.inc || last) then some d.acnt else none
  let outs := if x.outs.any (fun o => o.at_ = w) then x.outs else x.outs ++ [{ at_ := w, len := bs.length }]
  let s := s.setChan c n { x with wr := max x.wr (w + bs.length), outs := outs }
  match s.classify a with
  | .own off =>
    let (bads, s) := lmWrite s c off bs
    if bads.isEmpty then chanAck (s.raiseCnt c cnt) c n w else dmaFailed s c (BitVec.ofNat 3 n) x.gen a w 1
  | pl =>
    match s.destOf pl with
    | none => dmaFailed s c (BitVec.ofNat 3 n) x.gen a w 1
    | some (.core t) =>
      let after := if cnt.isSome then earlierWrites s c t 0 false (byChannel (BitVec.ofNat 3 n)) else []
      let (s, tag) := openSlot s c (.dmaWrite (BitVec.ofNat 3 n) x.gen w) x.thr 0 a (unitCore t) (some t) 0 none
      inject s 0 c (.core t) (.store tag a bs cnt) after true
    | some dd =>
      let (s, tag) := openSlot s c (.dmaWrite (BitVec.ofNat 3 n) x.gen w) x.thr 0 a (destUnit dd) none 0 cnt
      inject s 0 c dd (.store tag a bs none) [] true

/-- Bytes of the 32 KiB buffer in use: bytes that have come and are not yet written for good, and bytes asked for (R237). -/
def Core.dmaHeld (k : Core) : Nat := (k.chans.map (fun e => e.2.buf.length + (e.2.ins.map (·.len)).sum)).sum

/-- DMA_PACKET: the channel gains a grant for one packet (R237). -/
def execDmaPacket (core : CoreId) (ch : BitVec 3) (read : Bool) (s : State) : Res :=
  onCore s core (fun s =>
    let k := s.core core
    let x := k.chan ch.toNat
    if x.st ≠ .active ∨ x.words = [] ∨ !routerAccepts s core 0 1 then s
    else if read then
      -- a gather entry that could not be read is retried before anything else is read
      if x.moreToRead && decide (k.dmaHeld + 64 ≤ 0x8000) && !(x.d.isGather && x.bad.any (fun b => b.2.2 == 3)) then readPacket s core ch.toNat x.rd else s
    else
      match x.dstTotal with
      | some t =>
        if t ≤ x.wr then s
        else match dstPiece x x.wr with
          | some (a, bs) => writePacket s core ch.toNat x.wr a bs
          | none => s
      | none => s)

/-! ## Commands and ends (R243, R249, R250) -/

/-- A command that the channel's state does not accept sets IGN. -/
def chanIgnore (s : State) (c : CoreId) (n : Nat) : State := s.setChan c n { (s.core c).chan n with ign := true }

/-- START. -/
def chanStart (s : State) (c : CoreId) (t : BitVec 2) (n : Nat) : State :=
  let x := (s.core c).chan n
  if x.st ≠ .idle then chanIgnore s c n
  else chanBegin (s.setChan c n { x with st := .active, thr := t, evthr := t, tries := [] }) c n

/-- STOP. -/
def chanStop (s : State) (c : CoreId) (n : Nat) : State :=
  let x := (s.core c).chan n
  if x.st ≠ .active then chanIgnore s c n else s.setChan c n { x with st := .stopping }

/-- RESUME: the current descriptor from POS, read again when its words could not be read. -/
def chanResume (s : State) (c : CoreId) (n : Nat) : State :=
  let x := (s.core c).chan n
  if x.st ≠ .stopped ∧ x.st ≠ .haltedBus then chanIgnore s c n
  else
    let p := x.pos.toNat
    let x := { x.settle with st := .active, rd := x.seqFrom p, wr := x.dstDone,
                             groups := if p < x.d.exps then x.groups.filter (fun e => e.1 < p) else x.groups }
    let s := s.setChan c n x
    if x.words = [] then chanBegin s c n else s

/-- ABORT. -/
def chanAbort (s : State) (c : CoreId) (n : Nat) : State :=
  let x := (s.core c).chan n
  if x.st = .stopped ∨ x.st = .haltedBus ∨ x.st = .haltedInvalid then
    s.setChan c n { x.settle with st := .idle }
  else chanIgnore s c n

/-- A write to DMA_CHn_CTL (R239). -/
def dmaCtlOp (s : State) (c : CoreId) (t : BitVec 2) (n : Nat) (val : W64) : State :=
  match bits val 2 0 with
  | 1 => chanStart s c t n
  | 2 => chanStop s c n
  | 3 => chanResume s c n
  | 4 => chanAbort s c n
  | _ => s

/-- DMA_START (R243). -/
def execDmaStart (core : CoreId) (thr : BitVec 2) (ch : BitVec 3) (s : State) : Res := onCore s core (fun s => chanStart s core thr ch.toNat)
/-- DMA_STOP (R243). -/
def execDmaStop (core : CoreId) (ch : BitVec 3) (s : State) : Res := onCore s core (fun s => chanStop s core ch.toNat)
/-- DMA_RESUME (R243). -/
def execDmaResume (core : CoreId) (ch : BitVec 3) (s : State) : Res := onCore s core (fun s => chanResume s core ch.toNat)
/-- DMA_ABORT (R243). -/
def execDmaAbort (core : CoreId) (ch : BitVec 3) (s : State) : Res := onCore s core (fun s => chanAbort s core ch.toNat)

/-- Try a failed packet once more (R250). -/
def chanRetry (s : State) (c : CoreId) (n : Nat) (off kind : Nat) : State :=
  let x := (s.core c).chan n
  if kind = 2 then
    let t := x.tries
    let s := chanBegin s c n
    s.setChan c n { (s.core c).chan n with tries := t }
  else if kind = 1 then
    match dstPiece x off with
    | some (a, bs) => writePacket s c n off a bs
    | none => s
  else
    match x.ins.find? (fun e => e.at_ == off) with
    | some e => sendRead s c n e
    | none => readPacket s c n off

/-- DMA_PACKET_ERROR: the oldest failed packet is reissued up to COUNT times, then the channel halts (R242, R250). -/
def execDmaPacketError (core : CoreId) (ch : BitVec 3) (s : State) : Res :=
  onCore s core (fun s =>
    let k := s.core core
    let x := k.chan ch.toNat
    match x.bad with
    | [] => s
    | (a, off, kind) :: rest =>
      if x.st ≠ .active ∧ x.st ≠ .stopping then s
      else
        let key := 4 * off + kind
        -- COUNT is taken when the first retry of an access begins (R242)
        let (spent, limit) := tabGet (0, k.dmaRetry.toNat) x.tries key
        if spent < limit then
          chanRetry (s.setChan core ch.toNat { x with bad := rest, tries := tabPut x.tries key (spent + 1, limit) }) core ch.toNat off kind
        else chanHalt s core ch.toNat .haltedBus 8 (BitVec.ofNat 8 spent) (some a))

/-- DMA_DESCRIPTOR_COMPLETE: every write is complete; the record is posted and the channel follows NEXT or goes IDLE (R249). -/
def execDmaDescriptorComplete (core : CoreId) (ch : BitVec 3) (s : State) : Res :=
  onCore s core (fun s =>
    let x := (s.core core).chan ch.toNat
    if x.st ≠ .active ∨ x.words = [] ∨ !x.bad.isEmpty ∨ x.dstTotal ≠ some x.dstDone then s
    else
      let s := chanProgress s core ch.toNat
      let s := if x.d.evf then chanRecord s core ch.toNat 2 0 else s
      let x := (s.core core).chan ch.toNat
      if x.d.next = 0 then releaseHeld (s.setChan core ch.toNat { x.settle with st := .idle }) core
      else chanBegin (s.setChan core ch.toNat { x with desc := BitVec.ofNat 32 x.d.next, tries := [] }) core ch.toNat)

/-- Whether packets of a channel are in flight. -/
def Core.dmaInFlight (k : Core) (n : Nat) : Bool :=
  let x := k.chan n
  x.outs.any (fun o => !o.ack) || !x.bad.isEmpty
    || k.slots.any (fun e => e.2.isOpen && (match e.2.kind with | .dmaRead c g _ => c.toNat == n && g == x.gen | _ => false))

/-- DMA_STOP_DRAINED: STOPPED, with a halted record of STATUS CANCELLED (R243). -/
def execDmaStopDrained (core : CoreId) (ch : BitVec 3) (s : State) : Res :=
  onCore s core (fun s =>
    let k := s.core core
    let x := k.chan ch.toNat
    if x.st ≠ .stopping ∨ k.dmaInFlight ch.toNat then s
    else releaseHeld (chanRecord (s.setChan core ch.toNat { x with st := .stopped, errStat := 4 }) core ch.toNat 3 4) core)

end Sys2Proof.Machine
end

