-- ==== Sys2Proof/Machine/Memory.lean ====
section
/-! DEFINITION. Loads, stores, remote and cairn stores, atomics (R80, R82, R94 to R96, R133, R134, R222, R223, R235, R271 to R274), and the FILL and
COPY unit (R135, R225 to R227). -/

namespace Sys2Proof.Machine

/-! ## Own local memory and far accesses -/

/-- A signed or unsigned load value from the bytes loaded. -/
def loadVal (size : Nat) (signed : Bool) (bs : List Byte) : W512 :=
  let n := leNat bs
  if signed then (BitVec.ofInt 64 (toSigned (8 * size) n)).zeroExtend 512 else BitVec.ofNat 512 n

/-- The wait object of a far access (R305). -/
def farWait (s : State) (a : W64) (slot : Nat × BitVec 4) : Wait :=
  { newWait s 9 (bits a 27 0) (bits a 59 28) with slot := some slot }

/-- A blocking access: the request goes out when the wait begins, and the instruction issues once its answer has come; an error answer
raises BUS_ERROR (R80, R82, R111). -/
def blocking (x : Iss) (a : W64) (kind : SlotKind) (body : ReqTag → Body) (done : W512 → IssRes) : IssRes :=
  match x.th.wait with
  | some w =>
    if w.kind = 9 then (if !w.done then .wait x.s w else if w.err then .fault [(9, a)] else done w.reply)
    else startFar x a kind body
  | none => startFar x a kind body
where
  /-- Send the request of a far access and begin its wait. -/
  startFar (x : Iss) (a : W64) (kind : SlotKind) (body : ReqTag → Body) : IssRes :=
    match x.s.destOf (x.s.classify a) with
    | none => .notReady
    | some d =>
      let tgt := match d with | .core c => some c | _ => none
      let (s, tag) := openSlot x.s x.c kind x.t x.pc a (destUnit d) tgt 0 none
      .wait (inject s 0 x.c d (body tag) [] true) (farWait x.s a (tag.slot, tag.epoch))

/-- The LD family and LDV (R133): own local memory is read at issue, and a word that cannot be read leaves the destination as it was (R223);
any other range blocks. -/
def loadOp (s : State) (i : Site) (op size : Nat) (signed : Bool) (o1 o2 : Byte) (imm : W32) : Res :=
  issue s i op [o1, o2] imm (fun x =>
    let a := memAddr x o2 imm
    withOpsF x (alignFault a size ++ x.s.rangeFaults x.c x.th.priv a) [o1] [] (fun k _ ds =>
      match x.s.classify a with
      | .own off =>
        let (bs, bads, s') := lmRead (x.s.setCore x.c k) x.c off size
        if bads.isEmpty then .done s' (ds.map (fun d => { lat := latLoad, dst := d, val := loadVal size signed bs })) none
        else .done (raiseUe (lmRead x.s x.c off size).2.2 x.s.err.reports.length x.c x.t x.pc a x.th.issued (some (x.th.tick + BitVec.ofNat 64 latLoad))) [] none
      | _ => blocking x a .load (fun tag => .load tag a size) (fun v =>
          .done (x.s.setCore x.c k) (ds.map (fun d => { lat := latBlock, dst := d, val := loadVal size signed (leBytes size v.toNat) })) none)))

/-- LD8 (R133). -/
def execLd8 (i : Site) (o1 o2 : Byte) (imm : W32) (s : State) : Res := loadOp s i 0xA0 1 false o1 o2 imm
/-- LD16 (R133). -/
def execLd16 (i : Site) (o1 o2 : Byte) (imm : W32) (s : State) : Res := loadOp s i 0xA1 2 false o1 o2 imm
/-- LD32 (R133). -/
def execLd32 (i : Site) (o1 o2 : Byte) (imm : W32) (s : State) : Res := loadOp s i 0xA2 4 false o1 o2 imm
/-- LD64 (R133). -/
def execLd64 (i : Site) (o1 o2 : Byte) (imm : W32) (s : State) : Res := loadOp s i 0xA3 8 false o1 o2 imm
/-- LDS8 (R133). -/
def execLds8 (i : Site) (o1 o2 : Byte) (imm : W32) (s : State) : Res := loadOp s i 0xA4 1 true o1 o2 imm
/-- LDS16 (R133). -/
def execLds16 (i : Site) (o1 o2 : Byte) (imm : W32) (s : State) : Res := loadOp s i 0xA5 2 true o1 o2 imm
/-- LDS32 (R133). -/
def execLds32 (i : Site) (o1 o2 : Byte) (imm : W32) (s : State) : Res := loadOp s i 0xA6 4 true o1 o2 imm
/-- LDV (R133). -/
def execLdv (i : Site) (o1 o2 : Byte) (imm : W32) (s : State) : Res := loadOp s i 0xA7 64 false o1 o2 imm

/-- A posted store: its packet goes to the router when the router accepts it (R82, R255); a packet that names a counter waits there for
earlier writes of another class (R274). -/
def postStore (x : Iss) (k : Core) (a : W64) (bs : List Byte) (cnt : Option (BitVec 5)) : IssRes :=
  match x.s.destOf (x.s.classify a) with
  | none => .notReady
  | some d =>
    if !routerAccepts x.s x.c 0 1 then .notReady
    else
      let s := x.s.setCore x.c k
      let tgt := match d with | .core c => some c | _ => none
      let after := match tgt, cnt with
        | some c, some _ => earlierWrites s x.c c 0 false (byThread x.t)
        | _, _ => []
      let (s, tag) := openSlot s x.c .store x.t x.pc a (destUnit d) tgt 0 none
      .done (inject s 0 x.c d (.store tag a bs cnt) after true) [] none

/-- A store of `bs` at `a`: own local memory is written at issue, and a word that cannot be merged into stays as it is (R222). -/
def storeAt (x : Iss) (k : Core) (a : W64) (bs : List Byte) : IssRes :=
  match x.s.classify a with
  | .own off =>
    let (bads, s) := lmWrite (x.s.setCore x.c k) x.c off bs
    .done (if bads.isEmpty then s else raiseUe s x.s.err.reports.length x.c x.t x.pc a x.th.issued) [] none
  | _ => postStore x k a bs none

/-- The ST family (R133). -/
def storeOp (s : State) (i : Site) (op size : Nat) (o1 o2 : Byte) (imm : W32) : Res :=
  issue s i op [o1, o2] imm (fun x =>
    let a := memAddr x o2 imm
    withOpsF x (alignFault a size ++ x.s.rangeFaults x.c x.th.priv a) [] [o1] (fun k vs _ =>
      storeAt x k a (leBytes size (vs.getD 0 0).toNat)))

/-- ST8 (R133). -/
def execSt8 (i : Site) (o1 o2 : Byte) (imm : W32) (s : State) : Res := storeOp s i 0xA8 1 o1 o2 imm
/-- ST16 (R133). -/
def execSt16 (i : Site) (o1 o2 : Byte) (imm : W32) (s : State) : Res := storeOp s i 0xA9 2 o1 o2 imm
/-- ST32 (R133). -/
def execSt32 (i : Site) (o1 o2 : Byte) (imm : W32) (s : State) : Res := storeOp s i 0xAA 4 o1 o2 imm
/-- ST64 (R133). -/
def execSt64 (i : Site) (o1 o2 : Byte) (imm : W32) (s : State) : Res := storeOp s i 0xAB 8 o1 o2 imm
/-- STV (R133). -/
def execStv (i : Site) (o1 o2 : Byte) (imm : W32) (s : State) : Res :=
  issue s i 0xAC [o1, o2] imm (fun x =>
    let a := memAddr x o2 imm
    withOpsF x (alignFault a 64 ++ x.s.rangeFaults x.c x.th.priv a) [] [] (fun k _ _ =>
      storeAt x k a (leBytes 64 (x.th.readV (indexOf o1)).toNat)))

/-- The faults of a core-window target: ADDRESS outside the populated windows, PRIVILEGE outside the placement (R96, R134, R273). -/
def windowFaults (x : Iss) (a : W64) : List (Nat × W64) :=
  match x.s.classify a with
  | .window _ _ => x.s.rangeFaults x.c x.th.priv a
  | _ => [(8, a)]

/-- RST: the whole register to a core window, optionally naming a counter there (R134). -/
def execRst (i : Site) (o1 o2 : Byte) (imm : W32) (s : State) : Res :=
  issue s i 0xB0 [o1, o2] imm (fun x =>
    let a := x.th.readG (indexOf o2)
    let vec := fileOf o1 == 1
    let raw := rawImm x.px imm
    let cnt : Option (BitVec 5) := if raw / 2 ^ 15 % 2 = 1 then some (BitVec.ofNat 5 raw) else none
    withOpsF x (alignFault a (if vec then 64 else 8) ++ windowFaults x a) [] (if vec then [] else [o1]) (fun k vs _ =>
      postStore x k a (if vec then leBytes 64 (x.th.readV (indexOf o1)).toNat else leBytes 8 (vs.getD 0 0).toNat) cnt))

/-! ## CST (R271 to R274) -/

/-- Whether a control word breaks R273: OP 3, CONTRIB 0, a reserved bit, or an odd O1 for A40. -/
def cairnIllegal (w : W64) (o1 : Byte) : Bool :=
  bits w 31 30 == 3 || bits w 47 32 == 0 || bits w 27 21 != 0 || bits w 15 0 != 0 || (!w.getLsbD 29 && indexOf o1 % 2 == 1)

/-- The faults that a control word raises: ILLEGAL_ENCODING for the word, ALIGNMENT of the block that its format takes (R273). -/
def cairnFaults (bytes w : W64) (o1 : Byte) (a : W64) : List (Nat × W64) :=
  (if cairnIllegal w o1 then [(1, bytes)] else []) ++ alignFault a (if w.getLsbD 29 then 32 else 128)

/-- The 16 values of a cairn packet (R272). -/
def cairnVals (th : Thread) (f16 : Bool) (n : Nat) : List (BitVec 40) :=
  if f16 then (List.range 16).map (fun j => BitVec.ofNat 40 ((th.readV n).toNat / 2 ^ (16 * j) % 2 ^ 16))
  else (List.range 16).map (fun j => BitVec.ofNat 40 ((th.readV (n + j / 8)).toNat / 2 ^ (64 * (j % 8))))

/-- CST (R271 to R274, R277). -/
def execCst (i : Site) (o1 o2 o3 : Byte) (s : State) : Res :=
  issue s i 0xB1 [o1, o2, o3] 0 (fun x =>
    let a := x.th.readG (indexOf o2)
    let bytes := firstBytes x.k x.pc (insnBytes x.px 0xB1 [o1, o2, o3] 0)
    withOpsV x (windowFaults x a) (fun vs => cairnFaults bytes (vs.getD 0 0) o1 a) [] [o3] (fun k vs _ =>
      let w := vs.getD 0 0
      let f16 := w.getLsbD 29
      match x.s.classify a with
        | .window t _ =>
          if !routerAccepts x.s x.c 3 (if f16 then 1 else 2) then .notReady
          else
            let s := x.s.setCore x.c k
            let body : Body := .cairn a (BitVec.ofNat 16 (bits w 63 48)) (BitVec.ofNat 16 (bits w 47 32)) (BitVec.ofNat 2 (bits w 31 30))
              f16 (w.getLsbD 28) (BitVec.ofNat 5 (bits w 20 16)) (cairnVals x.th f16 (indexOf o1)) false false
            -- its packet goes on into the buffer of its output, where it may merge (R276)
            .done (settleCairn (inject s 3 x.c (.core t) body (earlierWrites s x.c t 3 true (byThread x.t)) (k.cairnHold == 0)) x.c (outPort x.c (.core t)) true) [] none
        | _ => .notReady))

/-! ## Atomics (R95, R235) -/

/-- What AADD (0), AMIN (1), AMAX (2) and ASWAP (3) leave in the word (R235). -/
def atomicNew (op : Nat) (old v : W64) : W64 :=
  match op with
  | 0 => old + v
  | 1 => if v.slt old then v else old
  | 2 => if old.slt v then v else old
  | _ => v

/-- The atomics: commons only, aligned, blocking (R95, R235). -/
def atomicOp (s : State) (i : Site) (op code : Nat) (o1 o2 o3 : Byte) : Res :=
  issue s i op [o1, o2, o3] 0 (fun x =>
    let a := x.th.readG (indexOf o2)
    let range := match x.s.classify a with
      | .commons _ _ => x.s.rangeFaults x.c x.th.priv a
      | _ => [(8, a)]
    withOpsF x (alignFault a 8 ++ range) [o1] [o3] (fun k vs ds =>
      blocking x a .atomic (fun tag => .atomic tag code a (vs.getD 0 0)) (fun v =>
        .done (x.s.setCore x.c k) (ds.map (fun d => { lat := latBlock, dst := d, val := (v.truncate 64 : W64).zeroExtend 512 })) none)))

/-- AADD (R235). -/
def execAadd (i : Site) (o1 o2 o3 : Byte) (s : State) : Res := atomicOp s i 0xB2 0 o1 o2 o3
/-- AMIN (R235). -/
def execAmin (i : Site) (o1 o2 o3 : Byte) (s : State) : Res := atomicOp s i 0xB3 1 o1 o2 o3
/-- AMAX (R235). -/
def execAmax (i : Site) (o1 o2 o3 : Byte) (s : State) : Res := atomicOp s i 0xB4 2 o1 o2 o3
/-- ASWAP (R235). -/
def execAswap (i : Site) (o1 o2 o3 : Byte) (s : State) : Res := atomicOp s i 0xB5 3 o1 o2 o3

/-! ## The FILL and COPY unit (R135, R225 to R227) -/

/-- Whether an operation is a FILL or COPY of length zero, which completes when it becomes the oldest (R226). -/
def FcKind.empty : FcKind → Bool
  | .fill _ n _ => n == 0
  | .copy _ _ n => n == 0
  | _ => false

/-- SOURCE of an operation's completion record (R138). -/
def FcKind.source : FcKind → Nat
  | .iload _ _ _ => 0x10
  | .iverify _ _ => 0x11
  | .fill _ _ _ => 0x12
  | .copy _ _ _ => 0x13

/-- While the oldest operation is a FILL or COPY of length zero, it completes with status OK and frees its entry (R226, R227). -/
def fcSettle (c : CoreId) : List FcOp → State → State
  | [], s => s.setCore c { s.core c with fcq := [] }
  | o :: r, s =>
    if o.kind.empty then fcSettle c r (postDsync s c o.thr (dsyncRec 0 o.kind.source 2 0))
    else s.setCore c { s.core c with fcq := o :: r }

/-- Enter an operation in the unit's queue (R226); issue has found an entry free. -/
def fcIssue (x : Iss) (k : Core) (faults : List (Nat × W64)) (kind : FcKind) : IssRes :=
  if !faults.isEmpty then .fault faults
  else .done (fcSettle x.c (k.fcq ++ [{ thr := x.t, pc := x.pc, kind := kind }]) (x.s.setCore x.c k)) [] none

/-- ALIGNMENT for the first operand that fails (R549). -/
def firstMisaligned : List (W64 × Nat) → List (Nat × W64)
  | [] => []
  | (v, n) :: r => if v.toNat % n ≠ 0 then [(7, v)] else firstMisaligned r

/-- ADDRESS for the first range outside own local memory (R225, R549). -/
def outsideFault (rs : List (W64 × Nat)) : List (Nat × W64) :=
  match firstOutside rs with
  | some a => [(8, a)]
  | none => []

/-- FILL (R225). -/
def execFill (i : Site) (o1 o2 o3 : Byte) (s : State) : Res :=
  issue s i 0xBC [o1, o2, o3] 0 (fun x =>
    let a := x.th.readG (indexOf o1)
    let n := x.th.readG (indexOf o2)
    withOpsF x (firstMisaligned [(a, 8), (n, 8)] ++ outsideFault [(a, n.toNat)]) [] [o3] (fun k vs _ =>
      fcIssue x k [] (.fill a n (vs.getD 0 0))))

/-- COPY (R225). -/
def execCopy (i : Site) (o1 o2 o3 : Byte) (s : State) : Res :=
  issue s i 0xBD [o1, o2, o3] 0 (fun x =>
    let d := x.th.readG (indexOf o1)
    let a := x.th.readG (indexOf o2)
    let n := x.th.readG (indexOf o3)
    fcIssue x x.k (firstMisaligned [(d, 8), (a, 8), (n, 8)] ++ outsideFault [(d, n.toNat), (a, n.toNat)]) (.copy d a n))

/-- SPACE_VIOLATION of an instruction-store range (R135, R549). -/
def istoreFault (a n : W64) : List (Nat × W64) := if n = 0 ∨ 0x10000 < a.toNat + n.toNat then [(0x0D, a)] else []

/-- ILOAD (R135). -/
def execIload (i : Site) (o1 o2 o3 : Byte) (s : State) : Res :=
  issue s i 0xD8 [o1, o2, o3] 0 (fun x =>
    let d := x.th.readG (indexOf o1)
    let a := x.th.readG (indexOf o2)
    let n := x.th.readG (indexOf o3)
    fcIssue x x.k (firstMisaligned [(d, 16), (a, 64), (n, 16)] ++ outsideFault [(a, n.toNat)] ++ istoreFault d n) (.iload d a n))

/-- IVERIFY (R135). -/
def execIverify (i : Site) (o1 o2 : Byte) (s : State) : Res :=
  issue s i 0xD9 [o1, o2] 0 (fun x =>
    let a := x.th.readG (indexOf o1)
    let n := x.th.readG (indexOf o2)
    fcIssue x x.k (firstMisaligned [(a, 16), (n, 16)] ++ istoreFault a n) (.iverify a n))

/-- One bit of a CRC-32C (reflected Castagnoli polynomial). -/
def crcBit (r : W32) : W32 := if r.getLsbD 0 then (r >>> 1) ^^^ 0x82F63B78 else r >>> 1
/-- One byte of a CRC-32C. -/
def crcByte (r : W32) (b : Byte) : W32 :=
  let r := r ^^^ b.zeroExtend 32
  crcBit (crcBit (crcBit (crcBit (crcBit (crcBit (crcBit (crcBit r)))))))
/-- CRC-32C: initial value 0xFFFF_FFFF, final complement (R135). -/
def crc32c (bs : List Byte) : W32 := ~~~(bs.foldl crcByte 0xFFFFFFFF)

/-- Write consecutive words of a memory, poisoning those whose source could not be read (R227). -/
def putWords (dflt : Byte) : EccMem → Inst → Nat → List (Option W64) → EccMem × Inst
  | m, i, _, [] => (m, i)
  | m, i, w, d :: r =>
    let (m, i) := match d with
      | some x => memWrite dflt m i w x
      | none => memPoison dflt m i w
    putWords dflt m i (w + 1) r

/-- A source word and whether it could be read, by word number. -/
def optWords (w : Nat) (ds : List W64) (bads : List (Nat × Bool)) : List (Option W64) :=
  ds.zipIdx.map (fun (d, j) => if bads.any (fun b => b.1 = w + j) then none else some d)

/-- Words that an operation moves: those of its length, which IVERIFY reads whole at its end. -/
def FcKind.words : FcKind → Nat
  | .fill _ n _ => n.toNat / 8
  | .copy _ _ n => n.toNat / 8
  | .iload _ _ n => n.toNat / 8
  | .iverify _ _ => 0

/-- A COPY whose destination begins inside its source moves its words from the last to the first, so that the destination receives the source
as it stood before (R226). -/
def copyDown (d a n : W64) : Bool := decide (a.toNat < d.toNat) && decide (d.toNat < a.toNat + n.toNat)

/-- Move the next `n` words of an operation, each source word read and then each destination word written: a word that COPY cannot read is
written as poison, and ILOAD stops at the 64 B block that holds a word it cannot read (R135, R225 to R227, R311, R315). -/
def fcMove (s : State) (c : CoreId) (o : FcOp) (n : Nat) : State × FcOp :=
  let k := s.core c
  let n := min n (o.kind.words - o.moved)
  let o' := { o with moved := o.moved + n }
  match o.kind with
  | .fill a _ v =>
    let (m, i) := putWords 0 k.lm (k.inst 0) (a.toNat / 8 + o.moved) (List.replicate n (some v))
    (s.setCore c ({ k with lm := m }.setInst 0 i), o')
  | .copy d a len =>
    let at_ := if copyDown d a len then o.kind.words - o.moved - n else o.moved
    let w := a.toNat / 8 + at_
    let (ds, bads, m, i) := readWords 0 k.lm (k.inst 0) w n
    let (m, i) := putWords 0 m i (d.toNat / 8 + at_) (optWords w ds bads)
    (reportUes (s.setCore c ({ k with lm := m }.setInst 0 i)) c bads, { o' with bad := o.bad || !bads.isEmpty })
  | .iload d a _ =>
    let w := a.toNat / 8 + o.moved
    let (ds, bads, m, i) := readWords 0 k.lm (k.inst 0) w n
    let good := match bads with
      | [] => n
      | (b, _) :: _ => (o.moved + (b - w)) / 8 * 8 - o.moved
    let k := { k with lm := m }.setInst 0 i
    let (m, i) := putWords 0xFF k.istore (k.inst 1) (d.toNat / 8 + o.moved) ((ds.take good).map some)
    (reportUes (s.setCore c ({ k with istore := m }.setInst 1 i)) c bads,
      if bads.isEmpty then o' else { o with moved := o.kind.words, bad := true })
  | .iverify _ _ => (s, o')

/-- What an operation's record tells once its words have moved: status and value (R135, R138, R227). Of an IVERIFY over a word that cannot be
read the spec states neither STATUS nor VALUE: free values (log 30). -/
def fcResult (s : State) (c : CoreId) (o : FcOp) : State × Nat × Nat :=
  match o.kind with
  | .iverify a n =>
    let k := s.core c
    let (bs, bads, m, i) := readBytes 0xFF k.istore (k.inst 1) a.toNat n.toNat
    let s := reportUes (s.setCore c ({ k with istore := m }.setInst 1 i)) c bads
    if bads.isEmpty then (s, 0, (crc32c bs).toNat)
    else
      let (st, s) := s.freeVal 8
      let (v, s) := s.freeVal 32
      (s, st.toNat, v.toNat)
  | _ => (s, if o.bad then 8 else 0, 0)

/-- FC_OP_COMPLETE: the oldest operation moves what it has still to move, completes and posts its record; operations of length zero behind it
complete with it (R135, R226, R227). -/
def execFcOpComplete (c : CoreId) (s : State) : Res :=
  if !isCore c then .fault .noSuchCore
  else if !s.clocked then .next s
  else
    match (s.core c).fcq with
    | [] => .next s
    | o :: r =>
      let (s, o) := fcMove s c o o.kind.words
      let (s, st, val) := fcResult s c o
      .next (releaseHeld (fcSettle c r (postDsync s c o.thr (dsyncRec val o.kind.source 2 st))) c)

/-- One clock of the FILL and COPY unit: the oldest operation moves up to 64 B (R135, R226). -/
def fcTick (s : State) (c : CoreId) : State :=
  match (s.core c).fcq with
  | [] => s
  | o :: r =>
    let (s, o) := fcMove s c o 8
    s.setCore c { s.core c with fcq := o :: r }

end Sys2Proof.Machine
end

