-- ==== Sys2Proof/Machine/Mesh.lean ====
section
/-! DEFINITION. The mesh (R251 to R270) and cairn packets on their way (R271 to R282): routes, arbitration, forwarding, merging, link integrity. -/

namespace Sys2Proof.Machine

/-- Number of a link at its sending router. -/
def linkNo (r : CoreId) (o : Port) : Nat := 4 * r.toNat + portNo o

/-! ## Arbitration (R254, R257 to R260) -/

/-- Whether the downstream buffer of a packet's class has room (R254). -/
def roomAhead (s : State) (n : CoreId) (i : Port) (p : Packet) : Bool := decide (inputFlits s n i p.cls + flits p ≤ 8)

/-- Whether a packet may leave its router now: earlier writes acknowledged, a cairn packet in its output's buffer and its hold ended, and nothing of its class and input before it that must
go first (R253, R274, R277). -/
def mayLeave (s : State) (p : Packet) : Bool :=
  p.free && afterClear s p && (p.cls != 3 || p.out)
    && !((s.net.takeWhile (fun q => q.id ≠ p.id)).any (fun q => q.at_ == p.at_ && q.inp == p.inp && q.cls == p.cls
        && ((q.src == p.src && q.dst == p.dst) || (p.cls != 3 && q.free && afterClear s q))))

/-- Packets that an output could send in this cycle. -/
def mergeCandidates (s : State) (r : CoreId) (o : Port) (n : CoreId) : List Packet :=
  s.net.filter (fun p => p.at_ == r && outPort r p.dst == o && mayLeave s p && roomAhead s n (opposite o) p)

/-- Choose by rotation: the first of `order`, from position `start`, that occurs. -/
def rotate (start : Nat) (order : List Nat) (has : Nat → Bool) : Option Nat := ((order.drop start) ++ (order.take start)).find? has

/-- Whether a packet is one-hop: injected by the router's own core for the core at the far end of the link (R259). -/
def oneHop (n : CoreId) (p : Packet) : Bool := p.inp == .loc && !p.tile && p.dst == .core n

/-- The class that goes next: responses first, then request, channel data and cairn in rotation (R257). -/
def pickClass (start : Nat) (ps : List Packet) : Option Nat :=
  if ps.any (·.cls == 1) then some 1 else rotate start [0, 2, 3] (fun c => ps.any (·.cls == c))

/-- The packet that arbitration gives an output: class and port, by kind in Dorhal mode (R257 to R260). -/
def arbitrate (s : State) (r : CoreId) (o : Port) (n : CoreId) : Option Packet :=
  let k := s.core r
  let all := mergeCandidates s r o n
  let near := all.filter (oneHop n)
  let far := all.filter (fun p => !oneHop n p)
  let wantNear := decide (tabGet 0 k.group (2 * portNo o) < 3)
  let kind := if !k.dorhal || all.any (·.cls == 1) then all else if wantNear then (if near.isEmpty then far else near)
              else (if far.isEmpty then near else far)
  match pickClass (tabGet 0 k.rotCls (portNo o)) kind with
  | none => none
  | some c =>
    let ps := kind.filter (·.cls == c)
    match rotate (tabGet 0 k.rotPort (4 * portNo o + c)) [0, 1, 2, 3, 4] (fun i => ps.any (fun p => portNo p.inp == i)) with
    | none => none
    | some i => ps.find? (fun p => portNo p.inp == i)

/-- The packet an output sends: the one its link has to replay, else the one that arbitration gives it (R257, R265). -/
def pickPacket (s : State) (r : CoreId) (o : Port) (n : CoreId) : Option Packet :=
  match tabLook (s.core r).replay (portNo o) with
  | some id =>
    match s.net.find? (fun p => p.id == id && p.at_ == r && outPort r p.dst == o) with
    | some p => if roomAhead s n (opposite o) p then some p else none
    | none => arbitrate s r o n
  | none => arbitrate s r o n

/-- The slots that a packet's flits take of an output's group of four: three for one-hop packets and one for all others. A slot whose kind has no
flit ready goes to the other kind, and a response takes slots of its own kind (R259, log 132). -/
def takeSlots (s : State) (r : CoreId) (o : Port) (n : CoreId) (g : Tab Nat) (p : Packet) : Tab Nat :=
  let near := tabGet 0 g (2 * portNo o)
  let far := tabGet 0 g (2 * portNo o + 1)
  let wantNear := decide (near < 3)
  let asNear := if p.cls == 1 || (mergeCandidates s r o n).any (fun q => oneHop n q == wantNear) then oneHop n p else wantNear
  let near := if asNear then near + flits p else near
  let far := if asNear then far else far + flits p
  let whole := min (near / 3) far
  tabSet 0 (tabSet 0 g (2 * portNo o) (near - 3 * whole)) (2 * portNo o + 1) (far - whole)

/-- Arbitration state after a packet has been sent: the rotations move on and its flits take slots of the group of four (R257 to R259). -/
def afterSend (s : State) (r : CoreId) (o : Port) (n : CoreId) (p : Packet) : Core :=
  let k := s.core r
  let j := match p.cls with | 0 => 1 | 2 => 2 | _ => 0
  { k with rotCls := if p.cls = 1 then k.rotCls else tabSet 0 k.rotCls (portNo o) j,
           rotPort := tabSet 0 k.rotPort (4 * portNo o + p.cls) ((portNo p.inp + 1) % 5),
           group := takeSlots s r o n k.group p,
           crcFails := tabDel k.crcFails (portNo o), replay := tabDel k.replay (portNo o) }

/-- MESH_FLIT_FORWARD: an output link sends one packet to the next router, where cairn packets of one key merge (R257, R276). A packet whose link is
fenced goes no further (R429). -/
def execMeshFlitForward (router : CoreId) (out : Port) (crcOk : Bool) (s : State) : Res :=
  if !isCore router then .fault .noSuchCore
  else if !s.clocked then .next s
  else
    match neighbour router out with
    | none => .next s
    | some n =>
      if tabGet false s.linkHold (linkNo router out) then .next s
      else
        let s := settleCairn s router out crcOk
        match pickPacket s router out n with
        | none => .next s
        | some p =>
          if s.linkFenced router out then .next (fencedAt s router p)
          else
            let s := s.setCore router (afterSend s router out n p)
            let s := s.perfAdd router 0x0C40 (flits p)
            let p' := { p with at_ := n, inp := opposite out, out := false }
            let s := { s with net := s.net.filter (fun q => q.id ≠ p.id) ++ [p'] }
            .next (settleCairn s n (outPort n p.dst) crcOk)

/-- CAIRN_HOLD_EXPIRY (R277). -/
def execCairnHoldExpiry (pkt : Nat) (s : State) : Res :=
  if !s.clocked then .next s
  else .next { s with net := s.net.map (fun p => if p.id = pkt && afterClear s p then { p with free := true } else p) }

/-! ## Link integrity (R265, R266) -/

/-- A link whose flit has failed 8 replays: traffic on it is held, and the failure is reported (R266). -/
def linkFail (s : State) (r n : CoreId) (o : Port) : State :=
  let s := { s with linkHold := tabSet false s.linkHold (linkNo r o) true }
  match bridgeEdge r n o with
  | some e => s.report { unit := bridgeUnit r e, cls := 3, code := 0, place := none, detail := 0 }
  | none =>
    (s.report { unit := unitId 1 r.toNat, cls := 3, code := 0, place := (s.core r).place, detail := 0 }).report
      { unit := unitId 1 n.toNat, cls := 3, code := 0, place := (s.core n).place, detail := 0 }

/-- FLIT_CRC_FAIL: the flit at the head of a link fails its CRC, and the sender has to replay it before it sends another; the eighth replay to
fail fails the link (R265, R266). -/
def execFlitCrcFail (router : CoreId) (out : Port) (s : State) : Res :=
  if !isCore router then .fault .noSuchCore
  else if !s.clocked then .next s
  else
    match neighbour router out with
    | none => .next s
    | some n =>
      if tabGet false s.linkHold (linkNo router out) || s.linkFenced router out then .next s
      else
        match pickPacket s router out n with
        | none => .next s
        | some p =>
          let s := s.perfAdd n 0x0C50 1
          let k := s.core router
          let k := { k with replay := tabPut k.replay (portNo out) p.id }
          let spent := tabGet 0 k.crcFails (portNo out)
          if spent < 8 then .next ((s.setCore router { k with crcFails := tabPut k.crcFails (portNo out) (spent + 1) }).perfAdd router 0x0C58 1)
          else .next (linkFail (s.setCore router k) router n out)

/-- BRIDGE_SPARE_SWITCH: the edge takes one of its two spare links and the held traffic moves on (R266). -/
def execBridgeSpareSwitch (router : CoreId) (out : Port) (s : State) : Res :=
  if !isCore router then .fault .noSuchCore
  else
    match neighbour router out with
    | none => .next s
    | some n =>
      match bridgeEdge router n out with
      | none => .next s
      | some e =>
        let used := tabGet 0 s.links e
        if tabGet false s.linkHold (linkNo router out) && decide (used < 2) then
          let k := s.core router
          .next ({ s with links := tabPut s.links e (used + 1), linkHold := tabSet false s.linkHold (linkNo router out) false }.setCore router
            { k with crcFails := tabDel k.crcFails (portNo out) })
        else .next s

end Sys2Proof.Machine
end

