-- ==== Sys2Proof/Machine/Arrive.lean ====
section
/-! DEFINITION. What packets do where they arrive: requests at commons slices, HBM controllers and cores, answers at their requesters, cairn
packets at their targets (R82, R230, R235, R278, R319 to R324, R335, R429 to R434). -/

namespace Sys2Proof.Machine

/-- Act on a request that has arrived at a memory: nothing unless it is next of its class, source and destination, and a fenced memory answers
FENCED (R253, R429). -/
def onMemory (s : State) (id : Nat) (act : Packet → State → State) : Res :=
  if !s.clocked then .next s
  else
    match arrived s id with
    | none => .next s
    | some p => if s.turnsAway p then .next (fencedArrival s p) else .next (act p s)

/-- A value of at most 64 B. -/
def packBytes (bs : List Byte) : W512 := BitVec.ofNat 512 (leNat bs)

/-- A load at a commons slice (R235, R321, R323). -/
def commonsLoad (s : State) (p : Packet) (tag : ReqTag) (a : W64) (n die off : Nat) : State :=
  let s := readMoment s (destQueue p.dst) p.src a n
  let m := s.err.reports.length
  let (bs, bads, s) := sliceRead s (sliceKey die off) (sliceOff off) n
  answerFrom s m p tag (.reply tag (packBytes bs) !bads.isEmpty)

/-- An atomic at a commons slice, after every write the slice has accepted; a word that cannot be read stays as it is (R235, R324). -/
def commonsAtomic (s : State) (p : Packet) (tag : ReqTag) (op : Nat) (v : W64) (die off : Nat) : State :=
  let s := performQueue s (destQueue p.dst)
  let m := s.err.reports.length
  let (bs, bads, s) := sliceRead s (sliceKey die off) (sliceOff off) 8
  if !bads.isEmpty then answerFrom s m p tag (.reply tag 0 true)
  else
    let old : W64 := BitVec.ofNat 64 (leNat bs)
    let s := (sliceWrite s (sliceKey die off) (sliceOff off) (leBytes 8 (atomicNew op old v).toNat)).2
    answer s p tag (.reply tag (old.zeroExtend 512) false)

/-- A plain write at a slice or controller: acknowledged when accepted (R321). -/
def memStore (s : State) (p : Packet) (tag : ReqTag) (a : W64) (bs : List Byte) : State :=
  let (ok, s') := acceptWrite s (destQueue p.dst) { src := p.src, addr := a, bytes := bs }
  answerFrom s' s.err.reports.length p tag (.ack tag !ok)

/-- COMMONS_REQUEST_ARRIVE (R235). -/
def execCommonsRequestArrive (pkt : Nat) (s : State) : Res :=
  onMemory s pkt (fun p s =>
    match p.dst with
    | .slice _ _ =>
      let s' := dropPacket s p.id
      match p.body with
      | .load tag a n => (match s.classify a with | .commons die off => commonsLoad s' p tag a n die off | _ => s)
      | .atomic tag op a v => (match s.classify a with | .commons die off => commonsAtomic s' p tag op v die off | _ => s)
      | .store tag a bs _ => memStore s' p tag a bs
      | _ => s
    | _ => s)

/-- HBM_REQUEST_ARRIVE: reads and writes through the written-page bits, encryption and code (R321, R323, R335, R336, R340, R342). -/
def execHbmRequestArrive (pkt : Nat) (s : State) : Res :=
  onMemory s pkt (fun p s =>
    match p.dst with
    | .hbm _ _ =>
      let s' := dropPacket s p.id
      match p.body with
      | .load tag a n =>
        (match s.classify a with
          | .hbm die off =>
            let s' := readMoment s' (destQueue p.dst) p.src a n
            let m := s'.err.reports.length
            let (bs, ok, s') := hbmRead s' die off n
            answerFrom s' m p tag (.reply tag (packBytes bs) !ok)
          | _ => s)
      | .store tag a bs _ => memStore s' p tag a bs
      | _ => s
    | _ => s)

/-- A read or write of a core's local memory from another core: a write raises the counter it names once its data is complete; a partial write to
a word that cannot be read is not performed and answers an error (R222, R230, R319). -/
def coreAccess (s : State) (p : Packet) (c : CoreId) : State :=
  let s' := dropPacket s p.id
  match p.body with
  | .store tag a bs cnt =>
    let (bads, s') := lmWrite s' c (a.toNat % 0x100000) bs
    if bads.isEmpty then answer (s'.raiseCnt c cnt) p tag (.ack tag false) else answerFrom s' s.err.reports.length p tag (.ack tag true)
  | .load tag a n =>
    let (bs, bads, s') := lmRead s' c (a.toNat % 0x100000) n
    answerFrom s' s.err.reports.length p tag (.reply tag (packBytes bs) !bads.isEmpty)
  | _ => s

/-- REMOTE_WRITE_ARRIVE: a remote store, a DMA write packet or a far read at a core's local memory (R319). -/
def execRemoteWriteArrive (pkt : Nat) (s : State) : Res := onArrival s pkt (fun p c s => coreAccess s p c)

/-- Complete a request by its reply (R82, R237, R431 to R433). -/
def takeReply (s : State) (c : CoreId) (tag : ReqTag) (val : W512) (err fresh : Bool) : State :=
  match matchSlot s tag with
  | none => staleReply s c
  | some r =>
    let s := closeSlot s c tag.slot true
    match r.kind with
    | .dmaRead ch g off =>
      let x := (s.core c).chan ch.toNat
      if err then dmaFailed s c ch g r.addr off 0
      else if x.gen ≠ g then s
      else
        match x.ins.find? (fun e => e.at_ == off) with
        | some e => chanFill s c ch.toNat off (leBytes e.len val.toNat)
        | none => s
    | _ => answerWait s c r tag.slot val err (if err && fresh then 2 else 0)

/-- FAR_RESPONSE_ARRIVE (R82). -/
def execFarResponseArrive (pkt : Nat) (s : State) : Res :=
  onArrival s pkt (fun p c s =>
    match p.body with
    | .reply tag val err => takeReply (dropPacket s p.id) c tag val err p.fresh
    | _ => s)

/-- Complete a write by its acknowledgement: a write into commons or HBM raises its counter at the issuing core; an error reaches the thread as
BUS_ERROR, or the channel retries (R222, R230, R250). -/
def takeAck (s : State) (c : CoreId) (tag : ReqTag) (err fresh : Bool) : State :=
  match matchSlot s tag with
  | none => staleReply s c
  | some r =>
    let s := closeSlot s c tag.slot true
    let s := settleRouter s c   -- a cairn packet that waited for this write enters its output's buffer (R274)
    if err then failSlot s c tag.slot r (if fresh then 2 else 0)
    else
      let s := s.raiseCnt c r.cnt
      match r.kind with
      | .dmaWrite ch g w => if ((s.core c).chan ch.toNat).gen = g then chanAck s c ch.toNat w else s
      | _ => s

/-- WRITE_ACK_ARRIVE (R230). -/
def execWriteAckArrive (pkt : Nat) (s : State) : Res :=
  onArrival s pkt (fun p c s =>
    match p.body with
    | .ack tag err => takeAck (dropPacket s p.id) c tag err p.fresh
    | _ => s)

/-- FENCED_ANSWER_ARRIVE (R430). -/
def execFencedAnswerArrive (pkt : Nat) (s : State) : Res :=
  onArrival s pkt (fun p c s =>
    match p.body with
    | .fenced tag =>
      let s := dropPacket s p.id
      match matchSlot s tag with
      | none => staleReply s c
      | some r => failSlot (closeSlot s c tag.slot true) c tag.slot r
    | _ => s)

/-! ## The final combine (R278 to R280) -/

/-- Values of a block in local memory: 8 B each for A40, 2 B for F16 (R39, R272). -/
def blockVals (f16 : Bool) (bs : List Byte) : List (BitVec 40) :=
  let w := if f16 then 2 else 8
  (List.range 16).map (fun j => BitVec.ofNat 40 (leNat ((bs.drop (w * j)).take w)))

/-- The bytes of a block: an A40 value carries copies of bit 39 above it (R39). -/
def blockBytes (f16 : Bool) (vs : List (BitVec 40)) : List Byte :=
  vs.flatMap (fun v => if f16 then leBytes 2 v.toNat else leBytes 8 (v.signExtend 64).toNat)

/-- Set CAIRN_SAT bits of a counter (R280). -/
def cairnFlags (k : Core) (cnt : BitVec 5) (clamp wrap : Bool) : Core :=
  let y := k.sync
  k.setSync { y with cairnSat := y.cairnSat ||| BitVec.ofNat 64 (flagBit clamp cnt.toNat + flagBit wrap (32 + cnt.toNat)), clampCmd := y.clampCmd || clamp }
where
  /-- A flag at a bit place. -/
  flagBit (b : Bool) (n : Nat) : Nat := if b then 2 ^ n else 0

/-- The final combine of a packet into its block: a word that cannot be read makes the combine poison the block, and the counter rises all the
same (R278). -/
def finalCombine (s : State) (c : CoreId) (a : W64) (contrib : W16) (op : BitVec 2) (f16 sat : Bool) (cnt : BitVec 5) (vals : List (BitVec 40))
    (clamped wrapped : Bool) : State :=
  let off := a.toNat % 0x100000
  let n := if f16 then 32 else 128
  let (bs, bads, s) := lmRead s c off n
  let (s, o) :=
    if bads.isEmpty then
      let (vs, o) := cairnCombine op f16 sat (blockVals f16 bs) vals
      ((lmWrite s c off (blockBytes f16 vs)).2, o)
    else ((List.range (n / 8)).foldl (fun s j => lmPoison s c (off / 8 + j)) s, false)
  let k := cairnFlags (s.core c) cnt (clamped || (o && sat)) (wrapped || (o && !sat))
  s.setCore c (k.raise cnt.toNat contrib.toNat)

/-- CAIRN_FINAL_COMBINE (R278, R345). -/
def execCairnFinalCombine (pkt : Nat) (crcOk : Bool) (s : State) : Res :=
  onArrival s pkt (fun p c s =>
    match p.body with
    | .cairn a _ n op f16 sat cnt vals cl wr =>
      let s := dropPacket s p.id
      if crcOk then finalCombine s c a n op f16 sat cnt vals cl wr else e2eFail s c p.src
    | _ => s)

end Sys2Proof.Machine
end

