-- ==== Sys2Proof/Machine/Integ.lean ====
section
/-! DEFINITION. The integrity block (R346 to R361): the instance a reference names, raw access, remap entries, scrubbing, write-back, and the
reads and writes of its registers. -/

namespace Sys2Proof.Machine

/-- The integrity instance a reference names; none for the commons slice of a core that is no slice's home (R346). -/
def State.memInst (s : State) : MemRef → Option Inst
  | .core c n => if n = 3 then (homeSlice c).map s.sliceI else some ((s.core c).inst n.toNat)
  | .hbm ch => some (s.hbmI ch.toNat)

/-- Replace an instance. -/
def State.putInst (s : State) (m : MemRef) (i : Inst) : State :=
  match m with
  | .core c n =>
    if n = 3 then (match homeSlice c with | some k => { s with sliceInst := tabSet {} s.sliceInst k i } | none => s)
    else s.setCore c ((s.core c).setInst n.toNat i)
  | .hbm ch => s.setHbmI ch.toNat i

/-- Change an instance, where the reference names one. -/
def State.onInst (s : State) (m : MemRef) (f : Inst → Inst) : State :=
  match s.memInst m with
  | some i => s.putInst m (f i)
  | none => s

/-- Bytes of an instance (R22, R72, R233, R351). -/
def State.instSize (s : State) : MemRef → Nat
  | .core _ n => if n = 0 then lmSize else if n = 1 then 0x10000 else if n = 2 then 58368 else sliceSize
  | .hbm _ => s.hbmSize / 64

/-- The SEC-DED memory of a reference with its reset byte. -/
def State.eccOf (s : State) : MemRef → Option (EccMem × Byte)
  | .core c n =>
    if n = 0 then some ((s.core c).lm, 0) else if n = 1 then some ((s.core c).istore, 0xFF)
    else if n = 3 then (homeSlice c).map (fun k => (s.slice k, 0)) else none
  | .hbm _ => none

/-- Replace the memory and the instance of a SEC-DED reference. -/
def State.putEcc (s : State) (r : MemRef) (m : EccMem) (i : Inst) : State :=
  match r with
  | .core c n =>
    let k := s.core c
    if n = 0 then s.setCore c ({ k with lm := m }.setInst 0 i)
    else if n = 1 then s.setCore c ({ k with istore := m }.setInst 1 i)
    else match homeSlice c with | some j => s.setSlice j m i | none => s
  | .hbm _ => s

/-- The unit a reference's errors are reported against (R424). -/
def memUnit : MemRef → W32
  | .core c n => if n = 3 then (match homeSlice c with | some k => unitId 6 k | none => unitCore c) else unitCore c
  | .hbm ch => unitId 4 ch.toNat

/-! ## Raw access (R352, R353) -/

/-- Store data and check bits unchanged at an offset; a remap entry that serves the location takes them (R352, R356). -/
def rawWrite (s : State) (r : MemRef) (a : Nat) (d : W512) (c : BitVec 128) : State :=
  let w := a / 8
  match r with
  | .core core n =>
    if n = 2 then
      let k := s.core core
      s.setCore core ((k.setMe ((k.me.setRawWord w (d.truncate 64)).setRawBits w (c.truncate 8))).setInst 2 (instHit (k.inst 2) w))
    else
      match s.eccOf r, s.memInst r with
      | some (m, dflt), some i =>
        s.putEcc r (eccRaw dflt m (wordSlot i w) (d.truncate 64) (c.truncate 8)) { instHit i w with wb := tabDel i.wb w }
      | _, _ => s
  | .hbm ch =>
    let (die, off) := hbmPlace ch (a / 64 * 64)
    let s := hitUnit (freshPage s die off) die off
    let u := s.unitSlot die off
    let i := s.hbmI ch.toNat
    { s with hbm := { s.hbm with raw := tabPut s.hbm.raw u (d, c), poison := tabDel s.hbm.poison u } }.setHbmI ch.toNat
      { i with wb := tabDel i.wb (a / 64) }

/-- Read data and check bits at an offset, without correction, count or log (R352). A unit of an unwritten page or of a lost one, and an offset
past the instance, hold nothing the spec states: free values. -/
def rawRead (s : State) (r : MemRef) (a : Nat) : W512 × BitVec 128 × State :=
  let open_ : W512 × BitVec 128 × State := let (d, s) := s.freeVal 512; let (c, s) := s.freeVal 128; (d, c, s)
  let w := a / 8
  if s.instSize r ≤ a then open_
  else match r with
  | .core core n =>
    if n = 2 then
      let k := s.core core
      let d := k.me.rawWord w
      let s := s.setCore core (k.setInst 2 (instHit (k.inst 2) w))
      let own (j : Nat) : Bool := match tabLook k.me.parity (8 * w + j) with | some p => p | none => (parityBits d).getLsbD j
      let bits_ : Byte := if (remapHits (k.inst 2) (8 * w)).isEmpty then BitVec.ofNat 8 (((List.range 8).map (fun j => flagAt (own j) j)).sum)
        else (k.me.rawBits w).getD (Config.secded d)
      (d.zeroExtend 512, bits_.zeroExtend 128, s)
    else
      match s.eccOf r, s.memInst r with
      | some (m, dflt), some i =>
        let d := eccData dflt m (wordSlot i w)
        (d.zeroExtend 512, ((tabLook m.chk (wordSlot i w)).getD (Config.secded d)).zeroExtend 128, s.putEcc r m (instHit i w))
      | _, _ => (0, 0, s)
  | .hbm ch =>
    let (die, off) := hbmPlace ch (a / 64 * 64)
    let s := hitUnit s die off
    let u := s.unitSlot die off
    let enc (p : W512) : W512 := Config.xtsEnc (s.hbmKeyNo die off) (s.tweak die off) p
    match tabLook s.hbm.raw u, s.bitmapAt off with
    | some (d, c), _ => (d, c, s)
    | none, some n => (enc (bitmapWord s die n), Config.hbmCode (enc (bitmapWord s die n)), s)
    | none, none =>
      if !tabGet false s.hbm.pages (pageOf die off) || reservedOpen s die off || (tabLook s.hbm.lost (pageOf die off)).isSome then open_
      else if tabGet false s.hbm.poison u then (Config.hbmPoison.1, Config.hbmPoison.2, s)
      else (enc (s.hbm.plain u), Config.hbmCode (enc (s.hbm.plain u)), s)

/-- A test command: nothing while EN is 0 or BUSY is 1 (R352). -/
def testCmd (s : State) (r : MemRef) (write : Bool) : State :=
  match s.memInst r with
  | none => s
  | some i =>
    if !i.testEn || decide (i.busy ≠ 0) then s
    else
      let a := bits i.taddr 47 3 * 8
      if write then
        let s := if a < s.instSize r then rawWrite s r a i.tdata i.tchk else s
        s.onInst r (fun i => { i with busy := 1 })
      else
        let (d, c, s) := rawRead s r a
        let chk : BitVec 128 := match r with | .core _ _ => (c.truncate 8).zeroExtend 128 | .hbm _ => c
        let d : W512 := match r with | .core _ _ => (d.truncate 64).zeroExtend 512 | .hbm _ => d
        s.onInst r (fun i => { i with busy := 2, tdata := d, tchk := chk })

/-- Whether a reference's core exists. -/
def memRefOk : MemRef → Bool
  | .core c _ => isCore c
  | .hbm _ => true

/-- WRITE_RAW (R352). -/
def execWriteRaw (mem : MemRef) (s : State) : Res := if memRefOk mem then .next (testCmd s mem true) else .fault .noSuchCore
/-- READ_RAW (R352). -/
def execReadRaw (mem : MemRef) (s : State) : Res := if memRefOk mem then .next (testCmd s mem false) else .fault .noSuchCore
/-- RAW_ACCESS_COMPLETE clears BUSY (R353). -/
def execRawAccessComplete (mem : MemRef) (s : State) : Res :=
  if memRefOk mem then .next (s.onInst mem (fun i => { i with busy := 0 })) else .fault .noSuchCore

/-! ## Remap entries (R355, R356) -/

/-- Read a word of a SEC-DED memory for an entry, as a requester reads it; the errors it finds are counted and reported (R342, R344). -/
def takeWord (s : State) (r : MemRef) (m : EccMem) (dflt : Byte) (i : Inst) (w : Nat) : WordRead × EccMem × Inst × State :=
  let (x, m, i) := memRead dflt m i w
  (x, m, i, match x with
    | .bad => s.report { unit := memUnit r, cls := 2, code := 0, place := none, detail := BitVec.ofNat 64 (8 * w) }
    | _ => s)

/-- Store a word that was read: what could not be read is stored as poison. -/
def putWordRead (dflt : Byte) (m : EccMem) (w : Nat) : WordRead → EccMem
  | .ok d => eccWrite dflt m w d
  | .corr d _ => eccWrite dflt m w d
  | .bad => eccPoison dflt m w
  | .poisoned => eccPoison dflt m w

/-- Copy the current value at an offset into entry `n`, corrected where possible; what cannot be read copies as poisoned (R356). A word of the
tile file stays where it is and takes the entry's code. -/
def remapCopy (s : State) (r : MemRef) (n a : Nat) : State :=
  let w := a / 8
  if s.instSize r ≤ a then s
  else match r with
  | .core c 2 =>
    let k := s.core c
    match k.me.wordRead (k.inst 2) w with
    | .ok d => s.setCore c (k.setMe (k.me.cleanWord w d))
    | .corr d b => s.setCore c ((k.setMe (k.me.cleanWord w d)).setInst 2 (instCorr (k.inst 2) (8 * w) b))
    | .bad =>
      (s.setCore c ((k.setMe ((k.me.setRawWord w poisonData).setRawBits w 0)).setInst 2 (instUe (k.inst 2) (8 * w)))).report
        { unit := unitCore c, cls := 2, code := 0, place := k.place, detail := BitVec.ofNat 64 (8 * w), tile := true }
    | .poisoned => s
  | .core _ _ =>
    match s.eccOf r, s.memInst r with
    | some (m, dflt), some i =>
      let (x, m, i, s) := takeWord s r m dflt i w
      s.putEcc r (putWordRead dflt m (remapWord + n) x) { i with wb := tabDel i.wb w }
    | _, _ => s
  | .hbm ch =>
    let (die, off) := hbmPlace ch (a / 64 * 64)
    let (x, s) := readUnit s die off
    let u := hbmSpare + 8 * ch.toNat + n
    let i := s.hbmI ch.toNat
    let s := s.setHbmI ch.toNat { i with wb := tabDel i.wb (a / 64) }
    let h := s.hbm.clearUnit u
    match x with
    | some d => { s with hbm := { h with data := putBytes 0 h.data (64 * u) (leBytes 64 d.toNat) } }
    | none => { s with hbm := { h with poison := tabPut h.poison u true } }

/-- Write entry `n`'s value back to its location, the entry being no longer valid: a write to the location, served by another entry where one
matches (R356). -/
def remapBack (s : State) (r : MemRef) (n a : Nat) : State :=
  let w := a / 8
  if s.instSize r ≤ a then s
  else match r with
  | .core c 2 =>
    let k := s.core c
    let d := k.me.rawWord w
    let x : WordRead := match k.me.rawBits w with | none => .ok d | some b => secDecode d b
    if !(remapHits (k.inst 2) (8 * w)).isEmpty then s
    else match x with
      | .ok d => s.setCore c (k.setMe (k.me.cleanWord w d))
      | .corr d _ => s.setCore c (k.setMe (k.me.cleanWord w d))
      | _ => s.setCore c (k.setMe (k.me.setRawBits w (~~~(parityBits d))))
  | .core _ _ =>
    match s.eccOf r, s.memInst r with
    | some (m, dflt), some i =>
      s.putEcc r (putWordRead dflt m (wordSlot i w) (eccRead dflt m (remapWord + n))) { i with wb := tabDel i.wb w }
    | _, _ => s
  | .hbm ch =>
    let (die, off) := hbmPlace ch (a / 64 * 64)
    let u := hbmSpare + 8 * ch.toNat + n
    let h := s.hbm
    let x : UnitRead := if tabGet false h.poison u then .poisoned
      else match tabLook h.raw u with
        | some (d, c) => hbmDecode (s.hbmKeyNo die off) (s.tweak die off) d c
        | none => .ok (h.plain u)
    if !tabGet false h.pages (pageOf die off) then s
    else match x with
      | .ok d => storeUnit s die off d
      | .corr d _ => storeUnit s die off d
      | _ =>
        let s := storeUnit s die off 0
        { s with hbm := { s.hbm with poison := tabPut s.hbm.poison (s.unitSlot die off) true } }

/-- A write to INT_REMAPn: setting V copies the word in, clearing V writes it back, and a change of ADDR while V is 1 is ignored and sets IGN
(R355, R356). -/
def remapWrite (s : State) (r : MemRef) (n : Nat) (val : W64) : State :=
  match s.memInst r with
  | none => s
  | some i =>
    let e := tabGet ({} : Remap) i.remap n
    let v := val.getLsbD 63
    let a : BitVec 48 := BitVec.ofNat 48 (bits val 47 0)
    let ign := e.ign && !val.getLsbD 62
    let put (s : State) (e : Remap) : State := s.onInst r (fun i => { i with remap := tabPut i.remap n e })
    if e.v && a != e.addr then put s { e with ign := true }
    else if v && !e.v then put (remapCopy s r n a.toNat) { v := true, ign := ign, addr := a }
    else if e.v && !v then remapBack (put s { e with v := false, ign := ign }) r n e.addr.toNat
    else put s { e with ign := ign, addr := a }

/-- INT_REMAP_WRITE (R356). -/
def execIntRemapWrite (mem : MemRef) (n : BitVec 3) (val : W64) (s : State) : Res :=
  if memRefOk mem then .next (remapWrite s mem n.toNat val) else .fault .noSuchCore

/-- INT_LOGCLR (R348). -/
def execIntLogclr (mem : MemRef) (s : State) : Res :=
  if memRefOk mem then .next (s.onInst mem (fun i => { i with log := [], logovf := false })) else .fault .noSuchCore

/-! ## Scrubbing and write-back (R342, R359, R360) -/

/-- Whether an instance is scrubbed: HBM, local memory, the commons and the instruction store (R359). -/
def scrubbed : MemRef → Bool
  | .core _ n => n != 2
  | .hbm _ => true
/-- ns of a scrub period: 4 hours for HBM, 10 minutes for the other memories (R359). -/
def scrubPeriod : MemRef → Nat
  | .core _ _ => 600000000000
  | .hbm _ => 14400000000000

/-- A patrol read of one location, where it is stored: correctable errors are counted, logged and left for write-back, a fresh uncorrectable
one is poisoned and reported, poisoned locations and unwritten pages are skipped (R359, R360). -/
def scrubAt (s : State) (r : MemRef) (off : Nat) : State :=
  match r with
  | .core _ _ =>
    match s.eccOf r, s.memInst r with
    | some (m, dflt), some i =>
      match eccRead dflt m (wordSlot i (off / 8)) with
      | .poisoned => s
      | _ => let (_, m, i, s) := takeWord s r m dflt i (off / 8); s.putEcc r m i
    | _, _ => s
  | .hbm ch =>
    let (die, o) := hbmPlace ch (off / 64 * 64)
    match s.unitStored die o with
    | .poisoned => s
    | _ => (readUnit s die o).2

/-- Whether a pass that ends now was late: more than the scrub period has passed since the one before, or since boot (R361). DESIGN CHOICE: log 151. -/
def passLate (s : State) (r : MemRef) (i : Inst) : Bool :=
  match i.passed, s.pwr.bootEnd with
  | some t, _ => decide (scrubPeriod r < s.since t)
  | none, some t => decide (scrubPeriod r < s.since t)
  | none, none => false
/-- The scrub read of the last location ends a pass (R361). -/
def endPass (s : State) (r : MemRef) : State :=
  s.onInst r (fun i => { i with passes := i.passes + 1, late := i.late || passLate s r i, passed := some s.time })

/-- A patrol read of one location of a memory that is scrubbed (R359 to R361). -/
def scrub (s : State) (r : MemRef) (off : Nat) : State :=
  let size := s.instSize r
  let step := match r with | .core _ _ => 8 | .hbm _ => 64
  if size ≤ off ∨ !scrubbed r then s
  else
    let s := scrubAt s r off
    if off / step = size / step - 1 then endPass s r else s

/-- SCRUB_READ (R360). -/
def execScrubRead (mem : MemRef) (off : Nat) (s : State) : Res :=
  if memRefOk mem then .next (scrub s mem off) else .fault .noSuchCore

/-- Write a corrected value back, unless a write has reached the location since (R342). -/
def writeBack (s : State) (r : MemRef) (off : Nat) : State :=
  match r with
  | .core _ _ =>
    match s.eccOf r, s.memInst r with
    | some (m, dflt), some i =>
      match tabLook i.wb (off / 8) with
      | some d => s.putEcc r (eccWrite dflt m (wordSlot i (off / 8)) d) { i with wb := tabDel i.wb (off / 8) }
      | none => s
    | _, _ => s
  | .hbm ch =>
    let i := s.hbmI ch.toNat
    match tabLook i.wb (off / 64) with
    | none => s
    | some _ =>
      let (die, o) := hbmPlace ch (off / 64 * 64)
      let s := s.setHbmI ch.toNat { i with wb := tabDel i.wb (off / 64) }
      match s.unitStored die o with
      | .corr d _ => storeUnit s die o d
      | _ => s

/-- ECC_WRITEBACK (R342). -/
def execEccWriteback (mem : MemRef) (off : Nat) (s : State) : Res :=
  if memRefOk mem then .next (writeBack s mem off) else .fault .noSuchCore

/-! ## The registers of an instance (R347 to R361) -/

/-- INT_ECNT as read (R348). -/
def ecntRead (i : Inst) : W64 :=
  BitVec.ofNat 64 (i.ce.toNat + i.ue.toNat * 2 ^ 16 + i.prd.toNat * 2 ^ 32 + i.log.length * 2 ^ 48 + (if i.logovf then 2 ^ 63 else 0))

/-- A write to INT_ECNT (R348). -/
def ecntWrite (i : Inst) (val : W64) : Inst :=
  let i := { i with ce := BitVec.ofNat 16 (bits val 15 0), ue := BitVec.ofNat 16 (bits val 31 16), prd := BitVec.ofNat 16 (bits val 47 32),
                    logovf := i.logovf && !val.getLsbD 63 }
  if val.getLsbD 60 then { i with log := [], logovf := false } else i

/-- INT_LOGn as read (R349). -/
def logRead (i : Inst) (n : Nat) : W64 :=
  match i.log[n]? with
  | some (b, a) => BitVec.ofNat 64 (2 ^ 63 + b * 2 ^ 48 + a % 2 ^ 48)
  | none => 0

/-- INT_REMAPn as read (R355). -/
def remapRead (i : Inst) (n : Nat) : W64 :=
  let e := tabGet ({} : Remap) i.remap n
  BitVec.ofNat 64 (e.addr.toNat + (if e.v then 2 ^ 63 else 0) + (if e.ign then 2 ^ 62 else 0))

/-- A register of an instance by its address in the block, as read. -/
def instRead (i : Inst) (a : Nat) : W64 :=
  if a = 0xB08 then ecntRead i
  else if 0xB10 ≤ a ∧ a < 0xB50 then logRead i ((a - 0xB10) / 8)
  else if a = 0xB50 then BitVec.ofNat 64 (i.ueAddr.toNat + (if i.ueV then 2 ^ 63 else 0))
  else if a = 0xB58 then BitVec.ofNat 64 ((if i.busy ≠ 0 then 0x80 else 0) + (if i.testEn then 8 else 0))
  else if a = 0xB60 then i.tdata.truncate 64
  else if a = 0xB68 then i.tchk.truncate 64
  else if a = 0xB70 then i.taddr
  else if 0xB80 ≤ a ∧ a < 0xBC0 then remapRead i ((a - 0xB80) / 8)
  else if a = 0xBC0 then i.rstat.zeroExtend 64
  else if a = 0xBC8 then BitVec.ofNat 64 (i.passes.toNat + (if i.late then 2 ^ 63 else 0))
  else 0

/-- A write to a register of an instance. -/
def instWrite (s : State) (r : MemRef) (a : Nat) (val : W64) : State :=
  if a = 0xB08 then s.onInst r (fun i => ecntWrite i val)
  else if a = 0xB50 then s.onInst r (fun i => { i with ueV := i.ueV && !val.getLsbD 63 })
  else if a = 0xB58 then
    let s := s.onInst r (fun i => { i with testEn := val.getLsbD 3 })
    if bits val 2 0 = 1 then testCmd s r true else if bits val 2 0 = 2 then testCmd s r false else s
  else if a = 0xB60 then s.onInst r (fun i => { i with tdata := val.zeroExtend 512 })
  else if a = 0xB68 then s.onInst r (fun i => { i with tchk := BitVec.ofNat 128 (bits val 7 0) })
  else if a = 0xB70 then s.onInst r (fun i => { i with taddr := BitVec.ofNat 64 (bits val 47 3 * 8) })
  else if 0xB80 ≤ a ∧ a < 0xBC0 then remapWrite s r ((a - 0xB80) / 8) val
  else if a = 0xBC0 then s.onInst r (fun i => { i with rstat := i.rstat &&& ~~~(BitVec.ofNat 8 (bits val 7 0)) })
  else if a = 0xBC8 then s.onInst r (fun i => { i with late := i.late && !val.getLsbD 63 })
  else s

end Sys2Proof.Machine
end

