-- ==== Sys2Proof/Machine/Regs.lean ====
section
/-! DEFINITION. I/O space of a core (R97 to R105): every register as read and as written, and IN and OUT. -/

namespace Sys2Proof.Machine

/-- CORE_THRSTAT code of a state (R100). -/
def ThSt.code : ThSt → Nat
  | .stopped => 0
  | .running => 1
  | .waiting => 2
  | .parked => 3
  | .faulted => 4

/-- Code of a DMA channel state (R240). -/
def ChSt.code : ChSt → Nat
  | .idle => 0
  | .active => 1
  | .stopping => 2
  | .stopped => 3
  | .haltedBus => 4
  | .haltedInvalid => 5


/-- CORE_THRSTAT (R100). -/
def thrStat (k : Core) : W64 := BitVec.ofNat 64 ((allThreads.map (fun t => (k.thread t).st.code * 16 ^ t.toNat)).sum)

/-- RING_CTLn as read (R284). -/
def ringRead (r : Ring) : W64 :=
  BitVec.ofNat 64 (flagAt r.en 0 + flagAt r.err 1 + r.base.toNat * 2 ^ 5 + r.size.toNat * 2 ^ 16 + flagAt r.mode 20 + r.rd.toNat * 2 ^ 32
    + r.wr.toNat * 2 ^ 48)

/-- CHAN_BINDn as read (R289). -/
def bindRead (b : Bind) : W64 :=
  BitVec.ofNat 64 (b.target.toNat + b.ring.toNat * 2 ^ 14 + b.acnt.toNat * 2 ^ 20 + flagAt b.cntEn 25 + b.credit.toNat * 2 ^ 36 + flagAt b.ign 56
    + b.rsn.toNat * 2 ^ 57 + b.state.toNat * 2 ^ 60 + flagAt b.en 63)

/-- ROUTE_CAPn as read (R217). -/
def capRead (x : RouteCap) : W64 :=
  BitVec.ofNat 64 (x.refused.toNat + x.used.toNat * 2 ^ 16 + x.limit.toNat * 2 ^ 32 + x.ring.toNat * 2 ^ 48 + flagAt x.mm 62 + flagAt x.en 63)

/-- BAR_SLOTs as read (R295); zero in every field at a core in no placement (R296). -/
def barRead (k : Core) (n : Nat) : W64 :=
  let b := k.bar n
  if k.place.isNone then 0
  else BitVec.ofNat 64 (b.mask.toNat + b.arrived.toNat * 16 + flagAt b.member 31 + b.phase.toNat * 2 ^ 32)

/-- MX_STAT (R186): entries occupied, a load-store operation started, a step in the arrays. -/
def mxStat (k : Core) : W64 :=
  let isMma (o : MeOp) : Bool := match o.kind with | .mma _ _ _ _ _ _ _ _ _ _ => true | _ => false
  BitVec.ofNat 64 (k.me.queue.length * 2 ^ 8 + flagAt (k.me.queue.any (fun o => o.started && !isMma o)) 1
    + flagAt (k.me.queue.any (fun o => isMma o && decide (o.checked < o.entered))) 0)

/-- MX_FENCE (R187). -/
def mxFence (k : Core) : W64 := BitVec.ofNat 64 ((List.range 24).map (fun n => flagAt (k.me.tile n).fence n)).sum

/-- A register of a DMA channel as read (R238 to R241). -/
def chanRegRead (k : Core) (a : Nat) : W64 :=
  let x := k.chan ((a - 0x200) / 0x40)
  match (a - 0x200) % 0x40 with
  | 0x08 => BitVec.ofNat 64 (x.st.code + flagAt x.ign 8 + x.retries.toNat * 2 ^ 32 + x.errStat.toNat * 2 ^ 40)
  | 0x10 => x.desc.zeroExtend 64
  | 0x18 => x.pos
  | 0x20 => x.bytes
  | 0x28 => x.errAddr
  | _ => 0

/-- The memory reference that a thread's INT_SEL names. -/
def selRef (s : State) (c : CoreId) (t : BitVec 2) : MemRef := .core c ((s.thread c t).intSel.truncate 2)

/-- A register as a thread reads it; but for the clock cycles that a register counts, which the model leaves open. -/
def ioLook (s : State) (c : CoreId) (t : BitVec 2) (a : Nat) : W64 :=
  let k := s.core c
  let th := k.thread t
  if a = 0x000 then BitVec.ofNat 64 (c.toNat + k.part.toNat * 2 ^ 16 + k.altitude.toNat * 2 ^ 32)
  else if a = 0x008 then thrStat k
  else if a = 0x010 then k.qcfg.zeroExtend 64
  else if a = 0x018 then k.me.width
  else if 0x020 ≤ a ∧ a ≤ 0x038 then
    let u := k.thread (BitVec.ofNat 2 ((a - 0x20) / 8))
    BitVec.ofNat 64 (flagAt u.priv 3 + u.startPc.toNat * 2 ^ 16)
  else if 0x040 ≤ a ∧ a < 0x100 then (k.me.tile ((a - 0x40) / 8)).cfg
  else if a = 0x100 then th.arith
  else if a = 0x108 then th.rngS
  else if a = 0x110 then th.rngM
  else if a = 0x118 then th.waitTo.zeroExtend 64
  else if a = 0x120 then th.tick
  else if a = 0x128 then k.sync.sent
  else if a = 0x130 then k.sync.drop
  else if a = 0x138 then k.sync.defer
  else if 0x140 ≤ a ∧ a < 0x180 then capRead (k.cap ((a - 0x140) / 8))
  else if a = 0x180 then k.me.aovf.zeroExtend 64
  else if a = 0x188 then mxStat k
  else if 0x190 ≤ a ∧ a ≤ 0x1A8 then (k.thread (BitVec.ofNat 2 ((a - 0x190) / 8))).fault
  else if 0x1B0 ≤ a ∧ a ≤ 0x1C8 then (k.thread (BitVec.ofNat 2 ((a - 0x1B0) / 8))).faddr
  else if a = 0x1D0 then mxFence k
  else if a = 0x1D8 then BitVec.ofNat 64 (flagAt k.dorhal 0 + k.cairnHold.toNat * 2 ^ 8)
  else if a = 0x1E0 then k.sync.cairnSat
  else if a = 0x3F8 then k.dmaRetry.zeroExtend 64
  else if 0x200 ≤ a ∧ a < 0x400 then chanRegRead k a
  else if 0x400 ≤ a ∧ a < 0x800 then
    if a % 16 = 0 then ringRead (k.ring ((a - 0x400) / 16)) else bindRead (k.bind ((a - 0x400) / 16))
  else if 0x800 ≤ a ∧ a < 0x900 then k.acnt ((a - 0x800) / 8)
  else if 0x900 ≤ a ∧ a < 0x980 then barRead k ((a - 0x900) / 8)
  else if a = 0x980 then k.sync.alignMask.zeroExtend 64
  else if a = 0x988 then k.sync.alignBase.zeroExtend 64
  else if a = 0x990 then k.sync.alignStat
  else if a = 0xA00 then k.cycle
  else if a = 0xA08 then s.time
  else if a = 0xA10 then th.alarm
  else if a = 0xA18 then (tabGet (2000 : W16) s.pwr.freq (dieOf c)).zeroExtend 64
  else if a = 0xB00 then th.intSel.zeroExtend 64
  else if a = 0xBD0 then k.e2e
  else if a = 0xBD8 then k.stale
  else if 0xB00 ≤ a ∧ a < 0xC00 then (match s.memInst (selRef s c t) with | some i => instRead i a | none => 0)
  else if (0xC00 ≤ a ∧ a ≤ 0xC28) ∨ (0xC40 ≤ a ∧ a ≤ 0xC68) then tabGet 0 k.perf a
  else 0

/-- Registers that count clock cycles, which the model does not follow: what they have gained since their last write is a free value (R188,
R282, R528). -/
def cycleReg (a : Nat) : Bool := a == 0xA00 || a == 0xC28 || a == 0xC48

/-- Read a register (R97). -/
def ioRead (s : State) (c : CoreId) (t : BitVec 2) (a : Nat) : W64 × State :=
  if cycleReg a then let (f, s') := s.freeVal 64; (ioLook s c t a + f, s') else (ioLook s c t a, s)

/-- A write to a register of a DMA channel (R239 to R241). -/
def chanRegWrite (s : State) (c : CoreId) (t : BitVec 2) (a : Nat) (val : W64) : State :=
  let n := (a - 0x200) / 0x40
  let x := (s.core c).chan n
  match (a - 0x200) % 0x40 with
  | 0x00 => dmaCtlOp s c t n val
  | 0x08 => s.setChan c n { x with ign := x.ign && !val.getLsbD 8 }
  | 0x10 => if x.st = .active ∨ x.st = .stopping then s else s.setChan c n { x with desc := val.truncate 32 }
  | _ => s

/-- Write a register as a thread of the core does; an unassigned address ignores it (R97, R98). -/
def ioWrite (s : State) (c : CoreId) (t : BitVec 2) (a : Nat) (val : W64) : State :=
  let k := s.core c
  let th := k.thread t
  let y := k.sync
  if a = 0x010 then qcfgOp s c val
  else if 0x020 ≤ a ∧ a ≤ 0x038 then thrCtlOp s c (BitVec.ofNat 2 ((a - 0x20) / 8)) val
  else if a = 0x100 then s.setThread c t { th with arith := arithWrite th.arith val }
  else if a = 0x108 then rngOp s c t false val
  else if a = 0x110 then rngOp s c t true val
  else if a = 0x118 then waittoOp s c t val
  else if a = 0x128 then s.setCore c (k.setSync { y with sent := val })
  else if a = 0x130 then
    s.setCore c (k.setSync { y with drop := BitVec.ofNat 64 (bits val 62 0 + flagAt (y.drop.getLsbD 63 && !val.getLsbD 63) 63) })
  else if a = 0x138 then s.setCore c (k.setSync { y with defer := val })
  else if 0x140 ≤ a ∧ a < 0x180 then routeCapOp s c ((a - 0x140) / 8) val
  else if a = 0x180 then s.setCore c (k.setMe { k.me with aovf := k.me.aovf &&& ~~~(val.truncate 8) })
  else if a = 0x1E0 then s.setCore c (k.setSync { y with cairnSat := y.cairnSat &&& ~~~val })
  else if a = 0x3F8 then s.setCore c { k with dmaRetry := val.truncate 3 }
  else if 0x200 ≤ a ∧ a < 0x400 then chanRegWrite s c t a val
  else if 0x400 ≤ a ∧ a < 0x800 then
    if a % 16 = 0 then ringCtlOp s c ((a - 0x400) / 16) val else chanBindOp s c ((a - 0x400) / 16) val
  else if 0x800 ≤ a ∧ a < 0x900 then
    let n := (a - 0x800) / 8
    s.setCore c (k.setSync { y with acnt := tabSet 0 y.acnt n (BitVec.ofNat 64 (bits val 31 0 + flagAt ((k.acnt n).getLsbD 63 && !val.getLsbD 63) 63)) })
  else if 0x900 ≤ a ∧ a < 0x980 then thrmaskOp s c ((a - 0x900) / 8) val
  else if a = 0x980 then s.setCore c (k.setSync { y with alignMask := val.truncate 32 })
  else if a = 0x988 then s.setCore c (k.setSync { y with alignBase := BitVec.ofNat 19 (bits val 18 3 * 8) })
  else if a = 0xA00 then s.setCore c { k with cycle := val }
  else if a = 0xA10 then alarmOp s c t val
  else if a = 0xB00 then (if bits val 2 0 < 4 then s.setThread c t { th with intSel := val.truncate 3 } else s)
  else if a = 0xBD0 then s.setCore c { k with e2e := val }
  else if a = 0xBD8 then s.setCore c { k with stale := val }
  else if 0xB00 ≤ a ∧ a < 0xC00 then instWrite s (selRef s c t) a val
  else if (0xC00 ≤ a ∧ a ≤ 0xC28) ∨ (0xC40 ≤ a ∧ a ≤ 0xC68) then s.setCore c { k with perf := tabSet 0 k.perf a val }
  else s

/-- ALIGNMENT and SPACE_VIOLATION of an I/O address (R97, R549). -/
def ioFaults (a : W64) : List (Nat × W64) := alignFault a 8 ++ (if 0xD00 ≤ a.toNat then [(0x0D, a)] else [])

/-- IN (R97). -/
def execInp (i : Site) (o1 : Byte) (imm : W32) (s : State) : Res :=
  issue s i 0xC0 [o1] imm (fun x =>
    let a : W64 := BitVec.ofNat 64 (rawImm x.px imm)
    withOpsF x (ioFaults a) [o1] [] (fun k _ ds =>
      let (v, s) := ioRead (x.s.setCore x.c k) x.c x.t a.toNat
      .done s (ds.map (fun d => { lat := latIord, dst := d, val := v.zeroExtend 512 })) none))

/-- OUT: a thread with PRIV = 0 may not write the integrity block (R97). -/
def execOutp (i : Site) (o1 : Byte) (imm : W32) (s : State) : Res :=
  issue s i 0xC1 [o1] imm (fun x =>
    let a : W64 := BitVec.ofNat 64 (rawImm x.px imm)
    let priv := if 0xB00 ≤ a.toNat ∧ a.toNat < 0xC00 ∧ !x.th.priv then [(0x0E, a)] else []
    withOpsF x (ioFaults a ++ priv) [] [o1] (fun k vs _ =>
      .done (ioWrite (x.s.setCore x.c k) x.c x.t a.toNat (vs.getD 0 0)) [] none))

end Sys2Proof.Machine
end

