-- ==== Sys2Proof/Machine/Snow.lean ====
section
/-! DEFINITION. The tables of the Plinth by key: functions, queue pairs, slots, contracts and contexts (R362, R479, R484), and the snowlines
that watch their levels (R389 to R392). -/

namespace Sys2Proof.Machine

/-! ## Functions and queue pairs (R479, R484) -/

/-- Table key of a function. -/
def fnKey (f : FnRef) : Nat := 16 * f.port.toNat + f.fn.toNat
/-- Table key of a queue pair. -/
def qpKey (q : QRef) : Nat := 4096 * fnKey q.fn + q.q.toNat
/-- Partition of a virtual function; the physical function belongs to none (R479). -/
def partNo (f : FnRef) : Option Nat := if f.fn = 0 then none else some (f.fn.toNat - 1)
/-- Whether a function exists: a VF needs its partition (R479). -/
def State.present (s : State) (f : FnRef) : Bool :=
  match partNo f with
  | none => true
  | some p => decide (p < 8) && (tabLook s.parts p).isSome
/-- Registers of a function. -/
def State.fn (s : State) (f : FnRef) : Fn := tabGet {} s.fns (fnKey f)
/-- Replace them. -/
def State.setFn (s : State) (f : FnRef) (x : Fn) : State := { s with fns := tabSet {} s.fns (fnKey f) x }
/-- A queue pair that exists. -/
def State.qp? (s : State) (q : QRef) : Option Qp := if s.present q.fn then tabLook s.qps (qpKey q) else none
/-- Replace a queue pair. -/
def State.setQp (s : State) (q : QRef) (x : Qp) : State := { s with qps := tabPut s.qps (qpKey q) x }
/-- The functions of a partition, or both physical functions. -/
def fnsOf (p : Option Nat) : List FnRef :=
  let n : BitVec 4 := match p with | none => 0 | some p => BitVec.ofNat 4 (p + 1)
  [⟨0, n⟩, ⟨1, n⟩]
/-- MSI-X vectors of a function (R498). -/
def State.vectors (s : State) (f : FnRef) : Nat :=
  match partNo f with
  | none => 64
  | some p => (tabGet {} s.set.parts p).vectors.toNat

/-! ## Tables -/

/-- Key of slot `n` of partition `p`. -/
def slotKey (p n : Nat) : Nat := 16 * p + n
/-- Key of contract `c` of partition `p`. -/
def ctrKey (p c : Nat) : Nat := 256 * p + c
/-- A model slot. -/
def State.mslot (s : State) (k : Nat) : Slot := tabGet {} s.slots k
/-- Replace a model slot. -/
def State.setMslot (s : State) (k : Nat) (x : Slot) : State := { s with slots := tabPut s.slots k x }
/-- Serving parameters of a slot as applied (R393). -/
def State.slotCfg (s : State) (k : Nat) : SlotCfg := tabGet {} s.set.slots k
/-- Fields of a contract in force: those that the last admission pass found in its block (R368, R371). -/
def State.ctrCfg (s : State) (k : Nat) : ContractCfg := tabGet {} s.ctrEff k
/-- Live state of a contract. -/
def State.contract (s : State) (k : Nat) : Contract := tabGet {} s.contracts k
/-- Replace it. -/
def State.setContract (s : State) (k : Nat) (x : Contract) : State := { s with contracts := tabPut s.contracts k x }
/-- A request context. -/
def State.ctx (s : State) (i : Nat) : Ctx := tabGet {} s.ctxs i
/-- Replace it. -/
def State.setCtx (s : State) (i : Nat) (x : Ctx) : State := { s with ctxs := tabPut s.ctxs i x }
/-- Key of a request's contract. -/
def Ctx.ctr (x : Ctx) : Nat := ctrKey x.part.toNat x.contract.toNat
/-- Key of a request's slot. -/
def Ctx.slotKey (x : Ctx) : Nat := Machine.slotKey x.part.toNat x.slot.toNat
/-- Indices of the contexts with a property, rising. -/
def State.ctxsWhere (s : State) (f : Ctx → Bool) : List Nat := (s.ctxs.filter (fun e => f e.2)).map (·.1)
/-- Contexts that are not FREE (R388). -/
def State.occupied (s : State) : Nat := (s.ctxsWhere (fun x => x.st != .free)).length

/-- Pages of a pool that no request holds; pages that only prefix entries name count as free. -/
def State.freePages (s : State) (sl : Nat) : Nat := (s.slotCfg sl).poolPages.toNat - (s.mslot sl).refs.length

/-! ## Snowlines (R389 to R392) -/

/-- The level that a snowline watches. -/
def snowLevel (s : State) (p : Nat) (cfg : W64) : Nat :=
  let idx := bits cfg 59 48
  match bits cfg 61 60 with
  | 0 => s.freePages (slotKey p idx)
  | 1 => s.occupied
  | 2 =>
    match tabLook s.qps (qpKey ⟨⟨0, BitVec.ofNat 4 (p + 1)⟩, BitVec.ofNat 12 idx⟩) with
    | some x => (x.sqTail + x.sqSize - x.sqHead) % x.sqSize
    | none => 0
  | _ => (s.contract (ctrKey p idx)).defers.length
/-- Whether the level is on the marked side. -/
def snowSide (cfg : W64) (level : Nat) : Bool := cfg.getLsbD 63 && (if cfg.getLsbD 62 then decide (bits cfg 24 0 ≤ level) else decide (level ≤ bits cfg 24 0))
/-- A snowline after its level has been evaluated, and whether it sends its notice (R392). -/
def snowStep (x : Snow) (live : Bool) : Snow × Bool :=
  if live && !x.live then
    ({ x with live := true, crossed := true, count := if x.count = 255 then 255 else x.count + 1, armed := false }, x.armed)
  else ({ x with live := live }, false)
/-- The virtual function of a partition whose MSI-X vectors are enabled: the one of the lowest port out of reset (R392, R480). DEDUCED: log 142. -/
def State.noticeFn (s : State) (p : Nat) : Option FnRef :=
  if s.perst.getLsbD 0 then some ⟨0, BitVec.ofNat 4 (p + 1)⟩ else if s.perst.getLsbD 1 then some ⟨1, BitVec.ofNat 4 (p + 1)⟩ else none
/-- Send a snowline's notice: an MSI-X message on VEC, if VEC is one of the partition's vectors, or a management event while the partition
has no vector enabled (R392). -/
def snowNotice (s : State) (p n : Nat) (vec : W16) : State :=
  match s.noticeFn p with
  | some f => if vec.toNat < s.vectors f then s.emit (.msix f vec) else s
  | none => s.emit (.event 3 (BitVec.ofNat 64 n))
/-- Evaluate one snowline of a partition. -/
def evalSnow (p : Nat) (s : State) (n : Nat) : State :=
  let part := tabGet ({} : Part) s.parts p
  let x := tabGet ({} : Snow) part.snows n
  let (y, notice) := snowStep x (snowSide x.cfg (snowLevel s p x.cfg))
  if y = x then s
  else
    let s := { s with parts := tabPut s.parts p { part with snows := tabSet {} part.snows n y } }
    if notice then snowNotice s p n (BitVec.ofNat 16 (bits x.cfg 47 32)) else s
/-- Evaluate every snowline that has been set up. -/
def settleSnow (s : State) : State :=
  s.parts.foldl (fun s e => (e.2.snows.map (·.1)).foldl (evalSnow e.1) s) s

end Sys2Proof.Machine
end

