-- ==== Sys2Proof/Machine/Post.lean ====
section
/-! DEFINITION. Queue pairs and what the Plinth sends to a host: completion entries, MSI-X messages, doorbells, and the frame that every
fetched submission entry runs in (R480, R484 to R490, R495 to R498). -/

namespace Sys2Proof.Machine

/-! ## Completion entries (R485, R488, R496, R498) -/

/-- The 32 bytes of a completion entry (R496). -/
def completionBytes (c : Completion) : List Byte :=
  leBytes 4 c.handle.toNat ++ [c.status, c.reason, c.kind, if c.phase then 1 else 0] ++ leBytes 8 c.hostTag.toNat
    ++ leBytes 2 c.sqHead.toNat ++ leBytes 2 0 ++ leBytes 4 c.info1.toNat ++ leBytes 8 c.info2.toNat

/-- Write host memory. -/
def hostWrite (s : State) (a : W64) (bs : List Byte) : State := { s with hostMem := putBytes 0 s.hostMem a.toNat bs }

/-- Whether a completion ring has no free place: one place stays empty, so that equal pointers mean an empty ring. -/
def Qp.cqFull (x : Qp) : Bool := (x.cqTail + 1) % x.cqSize == x.cqHead

/-- Send the MSI-X message of a completion ring, if its vector is one of the function's (R498). -/
def signal (s : State) (q : QRef) (x : Qp) : State :=
  let s := s.setQp q { x with unsig := 0, since := none }
  if x.vector.toNat < s.vectors q.fn then s.emit (.msix q.fn x.vector) else s

/-- Write one completion entry into a ring with a free place, and signal it at COUNT entries (R485, R498). -/
def writeEntry (s : State) (q : QRef) (x : Qp) (c : Completion) : State :=
  let c := { c with phase := x.phase, sqHead := BitVec.ofNat 16 x.sqHead }
  let s := hostWrite s (x.cqAddr + BitVec.ofNat 64 (32 * x.cqTail)) (completionBytes c)
  let t := (x.cqTail + 1) % x.cqSize
  let x := { x with cqTail := t, phase := if t = 0 then !x.phase else x.phase, unsig := x.unsig + 1,
                    since := some (x.since.getD s.time) }
  if x.vector = 0xFFFF then s.setQp q { x with unsig := 0, since := none }
  else if x.count.toNat ≤ x.unsig then signal s q x
  else s.setQp q x

/-- Write held notices while the ring has a free place (R488). -/
def drainHeld : Nat → State → QRef → State
  | 0, s, _ => s
  | n + 1, s, q =>
    match s.qp? q with
    | none => s
    | some x =>
      match x.held with
      | [] => s
      | c :: rest => if x.cqFull then s else drainHeld n (writeEntry s q { x with held := rest } c) q

/-- Post a completion: behind the notices held, and written while the ring has a free place; a queue pair that is gone discards it. -/
def post (s : State) (q : QRef) (c : Completion) : State :=
  match s.qp? q with
  | none => s
  | some x => drainHeld (x.held.length + 1) (s.setQp q { x with held := x.held ++ [c] }) q

/-- A command's completion. -/
def cmdDone (status : Byte) (hostTag : W64) (info1 : W32) (info2 : W64) : Completion :=
  { handle := 0, status := status, reason := 0, kind := 0, phase := false, hostTag := hostTag, sqHead := 0, info1 := info1, info2 := info2 }

/-- Post the completion of a host command. -/
def finish (s : State) (h : HostCmd) (status : Byte) (info1 : W32 := 0) (info2 : W64 := 0) : State :=
  post s h.q (cmdDone status h.e.hostTag info1 info2)

/-! ## The frame of a fetched entry (R375, R439, R480, R489, R490) -/

/-- What an opcode's entry may use beyond OPCODE and HOST_TAG, and the queue it belongs to (R489, R490). -/
structure Uses where
  admin     : Bool := false
  flags     : Byte := 0
  index     : Bool := false
  handle    : Bool := false
  addr1     : Bool := false
  len1      : Bool := false
  slot      : Bool := false
  contract  : Bool := false
  out       : Bool := false
  lens      : Bool := false      -- MAX_NEW, PROMPT_LEN, PREFIX_KEY
  arg       : Bool := false
  sched     : Bool := false      -- acted on by the scheduler and admission hardware (R440)
  crypto    : Bool := false      -- opened by the crypto engine
deriving DecidableEq, Repr

/-- Whether every field that the opcode does not use is zero (R489). -/
def unusedZero (u : Uses) (e : Entry) : Bool :=
  (e.flags &&& ~~~u.flags == 0) && (u.index || e.index == 0) && (u.handle || e.handle == 0) && (u.addr1 || e.addr1 == 0)
    && (u.len1 || e.len1 == 0) && (u.slot || e.slot == 0) && (u.contract || e.contract == 0)
    && (u.out || (e.outAddr == 0 && e.outLen == 0)) && (u.lens || (e.maxNew == 0 && e.promptLen == 0 && e.prefixKey == 0))
    && (u.arg || e.arg == 0)

/-- The Plinth takes one entry of the ring: the head moves on when the ring holds one. -/
def consume (s : State) (q : QRef) : State :=
  match s.qp? q with
  | none => s
  | some x => if x.sqHead = x.sqTail then s else settleSnow (s.setQp q { x with sqHead := (x.sqHead + 1) % x.sqSize })

/-- Add a command to those that the twin controllers hold (R439). -/
def holdCtl (s : State) (i : Instr) : State := { s with err := { s.err with heldCmds := s.err.heldCmds ++ [i] } }
/-- Add a command to those that wait for the scheduler hardware (R440). -/
def holdSch (s : State) (i : Instr) : State := { s with err := { s.err with heldSch := s.err.heldSch ++ [i] } }
/-- Add a command whose DRBG draw waits (R461). -/
def holdDraw (s : State) (i : Instr) : State := { s with sec := { s.sec with heldDraw := s.sec.heldDraw ++ [i] } }

/-- What a fetched entry does once it has been taken: its queue, its unused fields and the bytes at ADDR1 are checked, then it acts. -/
def checkedEntry (h : HostCmd) (u : Uses) (act : State → State) (s : State) : State :=
  if u.admin != (h.q.q == 0) then finish s h 0x0D
  else if !unusedZero u h.e then finish s h 0x0D
  else if u.addr1 && h.data.isNone then finish s h 0x08
  else act s

/-- Whether a Plinth block that an entry needs is fenced: the port it came by, the controllers, the scheduler and admission, or the crypto
engine (R424, R425). DEDUCED: log 135. -/
def entryFenced (s : State) (h : HostCmd) (u : Uses) : Bool :=
  s.fenced (unitPlinth (3 + h.q.fn.port.toNat)) || (u.admin && s.fenced (unitPlinth 0)) || (u.sched && s.fenced (unitPlinth 1))
    || (u.crypto && s.fenced (unitPlinth 2))

/-- A fetched entry. Before READY it completes NOT_READY (R480); a configuration command waits for controllers that restart, and completes
NOT_READY when they have stopped for good (R439); a serving command waits for scheduler hardware that reloads (R440); an entry that needs a
fenced block completes FENCED (R425). -/
def hostEntry (self : Instr) (h : HostCmd) (u : Uses) (act : State → State) (s : State) : Res :=
  if (s.qp? h.q).isNone || !s.up then .next s
  else
    let s := consume (s.atTime h.now) h.q
    if s.phase ≠ .ready then .next (finish s h 0x0E)
    else if h.q.q = 0 ∧ s.err.ctlStopped then .next (finish s h 0x0E)
    else .next (checkedEntry h u (fun s =>
      if entryFenced s h u then finish s h 0x07
      else if u.admin && s.err.ctlRestart then holdCtl s self else if u.sched && s.err.schReload then holdSch s self else act s) s)

/-! ## Doorbells (R480, R486 to R488) -/

/-- Count a doorbell write that is ignored (R487). -/
def doorbellError (s : State) (f : FnRef) : State := s.setFn f { s.fn f with dbErr := (s.fn f).dbErr + 1 }

/-- Whether a doorbell acts at all: the function exists, and before READY only queue pair 0's do (R480). -/
def doorbellLive (s : State) (f : FnRef) (q : BitVec 12) : Bool := s.present f && s.up && (s.phase == .ready || q == 0)

/-- SQ_TAIL_DOORBELL (R486, R487). -/
def execSqTailDoorbell (fn : FnRef) (q : BitVec 12) (val : W64) (s : State) : Res :=
  if !doorbellLive s fn q then .next s
  else
    match s.qp? ⟨fn, q⟩ with
    | none => .next (doorbellError s fn)
    | some x =>
      let v := bits val 15 0
      let used := (x.sqTail + x.sqSize - x.sqHead) % x.sqSize
      if v < x.sqSize ∧ (v + x.sqSize - x.sqTail) % x.sqSize ≤ x.sqSize - 1 - used then .next (settleSnow (s.setQp ⟨fn, q⟩ { x with sqTail := v }))
      else .next (doorbellError s fn)

/-- CQ_HEAD_DOORBELL: frees ring entries for the notices held (R486 to R488). -/
def execCqHeadDoorbell (fn : FnRef) (q : BitVec 12) (val : W64) (s : State) : Res :=
  if !doorbellLive s fn q then .next s
  else
    match s.qp? ⟨fn, q⟩ with
    | none => .next (doorbellError s fn)
    | some x =>
      let v := bits val 15 0
      if v < x.cqSize ∧ (v + x.cqSize - x.cqHead) % x.cqSize ≤ (x.cqTail + x.cqSize - x.cqHead) % x.cqSize then
        .next (drainHeld x.held.length (s.setQp ⟨fn, q⟩ { x with cqHead := v }) ⟨fn, q⟩)
      else .next (doorbellError s fn)

/-- MSIX_COALESCE_TIMER: TIME µs have passed since the first entry not yet signalled (R498). -/
def execMsixCoalesceTimer (q : QRef) (now : W64) (s : State) : Res :=
  let s := s.atTime now
  match s.qp? q with
  | none => .next s
  | some x =>
    match x.since with
    | none => .next s
    | some t => if 1000 * x.timeUs.toNat ≤ s.since t then .next (signal s q x) else .next s

/-! ## Admin queues (R480, R482) -/

/-- A write to HST_AQEN: enabling sets the admin queue pair up from HST_AQSQ, HST_AQCQ and HST_AQSIZE; disabling abandons its queued
entries. -/
def aqEnOp (s : State) (f : FnRef) (val : W64) : State :=
  let x := s.fn f
  let en := val.getLsbD 0
  if en = x.aqEn then s
  else if en then
    let s := s.setFn f { x with aqEn := true }
    s.setQp ⟨f, 0⟩ { sqAddr := x.aqSq, cqAddr := x.aqCq, sqSize := x.aqSqs.toNat + 1, cqSize := x.aqCqs.toNat + 1 }
  else { s.setFn f { x with aqEn := false } with qps := tabDel s.qps (qpKey ⟨f, 0⟩) }

/-- HST_AQEN_WRITE (R482). -/
def execHstAqenWrite (fn : FnRef) (val : W64) (s : State) : Res :=
  if s.present fn && s.up then .next (settleSnow (aqEnOp s fn val)) else .next s

/-! ## CREATE_QP (R484, R495) -/

/-- Created queue pairs of a list of functions; admin queue pairs are not counted. -/
def State.qpCount (s : State) (fs : List FnRef) : Nat :=
  (s.qps.filter (fun e => fs.any (fun f => fnKey f == e.1 / 4096) && e.1 % 4096 != 0)).length

/-- Created queue pairs of the package (R484). -/
def State.qpTotal (s : State) : Nat := (s.qps.filter (fun e => e.1 % 4096 != 0)).length

/-- Most queue pairs that the functions of a partition, or the physical functions, may hold (R484). -/
def State.qpLimit (s : State) (p : Option Nat) : Nat :=
  match p with
  | none => 16
  | some p => (tabGet {} s.set.parts p).qps.toNat

/-- The lowest queue pair number from 1 upward that a function does not use. -/
def freeQp (s : State) (f : FnRef) : Option Nat := (List.range 4095).find? (fun n => (tabLook s.qps (qpKey ⟨f, BitVec.ofNat 12 (n + 1)⟩)).isNone)

/-- The effect of CREATE_QP. -/
def createQpAct (h : HostCmd) (s : State) : State :=
  let e := h.e
  let sq := bits e.len1 15 0 + 1
  let cq := bits e.len1 31 16 + 1
  let f := h.q.fn
  if sq < 2 ∨ cq < 2 then finish s h 0x0D
  else if s.qpLimit (partNo f) ≤ s.qpCount (fnsOf (partNo f)) ∨ 4096 ≤ s.qpTotal then finish s h 0x03
  else
    match freeQp s f with
    | none => finish s h 0x03
    | some n =>
      let q : QRef := ⟨f, BitVec.ofNat 12 (n + 1)⟩
      let s := s.setQp q { sqAddr := e.addr1, cqAddr := e.outAddr, sqSize := sq, cqSize := cq, vector := BitVec.ofNat 16 (bits e.arg 15 0),
                           count := BitVec.ofNat 8 (bits e.arg 23 16), timeUs := BitVec.ofNat 8 (bits e.arg 31 24) }
      finish s h 0x00 (BitVec.ofNat 32 (n + 1))

/-- CREATE_QP (R484, R495): ADDR1 is the submission ring's address. -/
def execCreateQp (h : HostCmd) (s : State) : Res :=
  hostEntry (.createQp h) { h with data := some [] } { admin := true, addr1 := true, len1 := true, out := true, arg := true } (createQpAct h) s

/-! ## The BAR4 window (R30, R325, R429, R483) -/

/-- Whether the HBM unit at a data-space offset answers the Plinth FENCED: the unit, or a link on the way from the control-link tile (R256). -/
def State.offFenced (s : State) (die off : Nat) : Bool :=
  let (d, o) := s.home die off
  let dst : Dest := .hbm (BitVec.ofNat 3 d) (BitVec.ofNat 6 (dieChannel o))
  s.destFenced dst || s.rowFenced dst

/-- Whether any 256 B block of an HBM range answers FENCED. -/
def State.rangeFenced (s : State) (die off n : Nat) : Bool :=
  decide (n ≠ 0) && (List.range ((off % 256 + n + 255) / 256)).any (fun j => s.offFenced die (off / 256 * 256 + 256 * j))

/-- A core_id that names no core, for accesses that no core makes. -/
def noCore : CoreId := 0x3FFF

/-- Whether a range of data space meets a step area that holds the plaintext of a sealed request of a partition (R30). DEDUCED: log 135. -/
def State.sealedRange (s : State) (p a n : Nat) : Bool :=
  (tabGet ({} : Part) s.parts p).sealedAt.any (fun r => decide (a < r.1 + r.2) && decide (r.1 < a + n))

/-- The die and offset of a window access that R483 allows and R30 does not forbid: every byte in populated, non-reserved HBM of the function's partition. -/
def windowAt (s : State) (f : FnRef) (off : BitVec 36) (n : Nat) : Option (Nat × Nat) :=
  match partNo f with
  | none => none
  | some p =>
    let a := (s.fn f).winBase + off.zeroExtend 64
    match s.classify a with
    | .hbm die o =>
      if (tabGet {} s.set.parts p).dies.getLsbD die ∧ o + n ≤ s.hbmReserved ∧ !s.sealedRange p a.toNat n then some (die, o) else none
    | _ => none

/-- A refused access counts in WIN_ERR. -/
def windowError (s : State) (f : FnRef) : State := s.setFn f { s.fn f with winErr := (s.fn f).winErr + 1 }

/-- The controller queues that hold bytes of an HBM range of at most 256 B. -/
def rangeQueues (s : State) (die o n : Nat) : List Nat :=
  let q (x : Nat) : Nat := let (d, h) := s.home die x; 256 + 64 * d + dieChannel h
  if o / 256 = (o + n - 1) / 256 then [q o] else [q o, q (o + n - 1)]

/-- Read HBM for the host, unit by unit: bytes of a unit that cannot be read are free values. -/
def windowBytes : Nat → State → Nat → Nat → Nat → List Byte × State
  | 0, s, _, _, _ => ([], s)
  | fuel + 1, s, die, o, n =>
    if n = 0 then ([], s)
    else
      let m := min n (64 - o % 64)
      let (bs, ok, s) := if s.offFenced die o then (leBytes m 0, false, s) else hbmRead s die o m
      let (f, s) := if ok then (0, s) else s.freeVal 512
      let (rest, s) := windowBytes fuel s die (o + m) (n - m)
      ((if ok then bs else leBytes m f.toNat) ++ rest, s)

/-- BAR4_READ (R483): a refused read returns all ones. -/
def execBar4Read (fn : FnRef) (off : BitVec 36) (len : BitVec 7) (s : State) : Res :=
  if !s.present fn ∨ s.phase ≠ .ready then .next s
  else
    match windowAt s fn off len.toNat with
    | none => .next ((windowError s fn).emit (.readData fn (List.replicate len.toNat 0xFF)))
    | some (die, o) =>
      let a : W64 := (s.fn fn).winBase + off.zeroExtend 64
      let s := (rangeQueues s die o len.toNat).foldl (fun s q => readMoment s q noCore a len.toNat) s
      let (bs, s) := windowBytes 4 s die o len.toNat
      .next (s.emit (.readData fn bs))

/-- BAR4_WRITE (R483): a refused write is dropped. -/
def execBar4Write (fn : FnRef) (off : BitVec 36) (bytes : List Byte) (s : State) : Res :=
  if !s.present fn ∨ s.phase ≠ .ready ∨ bytes = [] then .next s
  else
    match windowAt s fn off bytes.length with
    | none => .next (windowError s fn)
    | some (die, o) =>
      let s := (rangeQueues s die o bytes.length).foldl performQueue s
      .next (if s.rangeFenced die o bytes.length then s else (hbmWrite s die o bytes).2)

end Sys2Proof.Machine
end

