-- ==== Sys2Proof/Machine/Record.lean ====
section
/-! DEFINITION. Units, physical positions and fault records (R267, R424, R425, R431, R447). -/

namespace Sys2Proof.Machine

/-! ## Physical positions (R21, R267) -/

/-- Key of the row segment that a core lies in. -/
def segKey (c : CoreId) : Nat := 64 * dieOf c + 2 * bits c 10 6 + (if bits c 5 0 < 24 then 0 else 1)
/-- Physical position of a core in its row: columns from the replaced one up to the segment's last have moved one position east. -/
def physPos (s : State) (c : CoreId) : Nat :=
  let col := bits c 5 0
  let base := if col < 24 then col else col + 1
  match tabLook s.spares (segKey c) with
  | some f => if f % 64 ≤ col then base + 1 else base
  | none => base
/-- PHYS of a record: physical row and position of a core or router, otherwise 0 (R447). -/
def physField (s : State) (unit : W32) : W32 :=
  if bits unit 31 28 < 2 then
    let c : CoreId := BitVec.ofNat 14 unit.toNat
    BitVec.ofNat 32 (bits c 10 6 * 256 + physPos s c)
  else 0
/-- The lowest set bit of a nibble, as a nibble: of the columns that need a bypass, the one that can have it (R182). -/
def lowBit (n : Nat) : Nat := if n % 2 = 1 then 1 else if n / 2 % 2 = 1 then 2 else if n / 4 % 2 = 1 then 4 else if n / 8 % 2 = 1 then 8 else 0
/-- Columns that need a bypass at a physical position, by the fuse and repair maps (R182). -/
def bypassAt (s : State) (c : CoreId) (pos : Nat) : Nat := (tabGet (0 : Byte) s.bypass (2048 * dieOf c + 64 * bits c 10 6 + pos)).toNat
/-- MX_WIDTH at a physical position of a core's row: W is 8 less the cube columns that have a bypass, at most one
each (R182, R185): of several the lowest. DEDUCED: log 145. -/
def widthAt (s : State) (c : CoreId) (pos : Nat) : W64 :=
  let lo := lowBit (bypassAt s c pos % 16)
  let hi := lowBit (bypassAt s c pos / 16)
  BitVec.ofNat 64 (8 - (if lo = 0 then 0 else 1) - (if hi = 0 then 0 else 1) + (lo + 16 * hi) * 256)
/-- MX_WIDTH of a core at its physical position (R182). -/
def widthOf (s : State) (c : CoreId) : W64 := widthAt s c (physPos s c)
/-- MX_WIDTH of a core that its segment's spare has just replaced: that of the spare's own position (R269). -/
def spareWidth (s : State) (c : CoreId) : W64 := widthAt s c (if bits c 5 0 < 24 then 24 else 49)
/-- W of an MX_WIDTH value. -/
def widthW (w : W64) : Nat := bits w 3 0
/-- Whether a cube column of a core needs more than one bypass (R182). -/
def overBypassed (s : State) (c : CoreId) : Bool :=
  let b := bypassAt s c (physPos s c)
  decide (lowBit (b % 16) ≠ b % 16) || decide (lowBit (b / 16) ≠ b / 16)

/-! ## Units (R424) -/

/-- Kind of a unit. -/
def unitKind (u : W32) : Nat := bits u 31 28
/-- The dies that a unit belongs to; none for a Plinth block and a placement. -/
def unitDies (u : W32) : List Nat :=
  let i := bits u 27 0
  match unitKind u with
  | 0 => [i / 2048]
  | 1 => [i / 2048]
  | 2 => [i % 16384 / 2048]
  | 3 => let d := i / 8 % 8; if i / 4 % 2 = 0 then [d, d + 1] else [d, d + 4]
  | 4 => [i / 64]
  | 5 => [i / 2]
  | 6 => [i / 32]
  | 7 => [i]
  | 8 => [i / 2]
  | _ => []
/-- Whether a unit identifier names a unit of the part (R424). -/
def unitExists (u : W32) : Bool :=
  let i := bits u 27 0
  let core (x : Nat) : Bool := decide (x < 16384) && isCore (BitVec.ofNat 14 x)
  match unitKind u with
  | 0 => core i
  | 1 => core i
  | 2 => decide (i < 32768) && core (i % 16384) && (if i < 16384 then decide (i % 64 ≠ 47) else decide (i % 2048 / 64 ≠ 31))
  | 3 => i % 4 == 0 && decide (i < 48 * 64) &&
      (if i / 4 % 2 = 0 then decide (i / 8 % 4 ≠ 3) && decide (i / 64 < 32) else decide (i / 8 % 8 < 4))
  | 4 => decide (i < 512)
  | 5 => decide (i < 16)
  | 6 => decide (i < 256)
  | 7 => decide (i < 8)
  | 8 => decide (i < 16)
  | 9 => decide (i < 16) && !(decide (4 < i) && decide (i < 8))
  | 10 => decide (i < 256)
  | _ => false

/-- Change a unit. -/
def State.onUnit (s : State) (u : W32) (f : Unit → Unit) : State := s.setUnit u (f (s.unit u))
/-- The unit of a placement (R424). -/
def unitPlace (key : Nat) : W32 := unitId 10 (key % 256)

/-- DISPUTED: set when the two states differ and neither a recovery nor a command is in progress on the unit (R450). DEDUCED: log 154. -/
def disputeCheck (s : State) (u : W32) : State :=
  s.onUnit u (fun x => { x with disputed := x.disputed || (x.dpath != x.mgmt && !x.recovering && x.setTo.isNone && !x.testing) })

/-- The data-path state of a unit that answers: DEGRADED for a core with W below 8 and for an edge on a spare link, IN_SERVICE otherwise (R425). DEDUCED: log 154. -/
def restState (s : State) (u : W32) : BitVec 4 :=
  let i := bits u 27 0
  match unitKind u with
  | 0 =>
    let c : CoreId := BitVec.ofNat 14 i
    let k := s.core c
    if widthW (if k.place.isSome then k.me.width else widthOf s c) < 8 then 1 else 0
  | 3 => if 0 < tabGet 0 s.links (i / 8 % 8 * 2 + i / 4 % 2) then 1 else 0
  | _ => 0

/-! ## Which placements use a unit (R424, R436, R444, R449) -/

/-- Whether a placement uses a unit: its cores and routers; for a die, a link or a memory unit, its cores on the die or its partition's hold
of the dies; a bridge edge, a partition that holds both its dies. -/
def usesUnit (s : State) (u : W32) (key : Nat) : Bool :=
  let cs := s.placeCores key
  let dies := (tabGet ({} : PartCfg) s.set.parts (key / 256)).dies
  match unitKind u with
  | 0 => cs.contains (BitVec.ofNat 14 u.toNat)
  | 1 => cs.contains (BitVec.ofNat 14 u.toNat)
  | 2 => cs.any (fun c => (unitDies u).contains (dieOf c))
  | 9 => false
  | 10 => u == unitPlace key
  | _ => decide (unitDies u ≠ []) && (unitDies u).all (fun d => dies.getLsbD d)
/-- The placements that use a unit. -/
def placesUsing (s : State) (u : W32) : List Nat := (s.places.map (·.1)).filter (usesUnit s u)

/-! ## Fault records (R447) -/

/-- Partition that a report names: its placement's, or that of the unit's dies; 0xFF package-wide. -/
def reportPart (s : State) (r : FaultRep) : Byte :=
  match r.place with
  | some p => BitVec.ofNat 8 (p / 256)
  | none =>
    match (unitDies r.unit).filterMap s.diePart with
    | [] => 0xFF
    | p :: rest => if rest.all (· == p) then BitVec.ofNat 8 p else 0xFF

/-- The serving step that runs on a placement: its slot number and attempt. -/
def stepOf (s : State) (place : Option Nat) : Option (Nat × Step) :=
  match place with
  | none => none
  | some p =>
    match (tabGet {} s.places p).running with
    | some { step := some sl, .. } => (tabGet {} s.slots sl).step.map (fun st => (sl, st))
    | _ => none

/-- DETAIL of a record about a placement: STEP_SEQ of the step that runs on it, or 0 (R447). DEDUCED: log 158. -/
def stepDetail (s : State) (place : Nat) : W64 :=
  match stepOf s (some place) with | some (sl, _) => (tabGet ({} : Slot) s.slots sl).stepSeq | none => 0
/-- The functions that a record of a partition concerns: its virtual functions, or every function for a package-wide record. -/
def recordFns (s : State) (part : Byte) : List FnRef :=
  ((if part = 0xFF then (List.range 9).flatMap (fun n => [⟨0, BitVec.ofNat 4 n⟩, ⟨1, BitVec.ofNat 4 n⟩])
    else fnsOf (some part.toNat)) : List FnRef).filter s.present

/-- Each write of a record raises MSI-X on ERR_VEC and an event to management. -/
def recordNotice (s : State) (part : Byte) (n : Nat) : State :=
  let s := (recordFns s part).foldl (fun s f => if s.err.vec.toNat < s.vectors f then s.emit (.msix f s.err.vec) else s) s
  s.emit (.event 1 (BitVec.ofNat 64 n))

/-- Write a fault record with an ACTION; gives its number among the records written. A record of class 0, of a RECONCILE, counts no fault (R435,
R448, R450). -/
def recordFault (s : State) (r : FaultRep) (action : Byte) : Nat × State :=
  let st := stepOf s r.place
  let rec_ : FRec :=
    { time := s.time, cls := r.cls, code := r.code, action := action, part := reportPart s r, unit := r.unit, phys := physField s r.unit,
      slot := match st with | some (sl, _) => BitVec.ofNat 16 (sl % 16) | none => 0xFFFF,
      attempt := match st with | some (_, x) => x.attempt.truncate 16 | none => 0,
      detail := r.detail }
  let n := s.err.flogWr.toNat
  let log := s.err.log ++ [rec_]
  let s := { s with err := { s.err with log := if 4096 < log.length then log.drop 1 else log, flogWr := s.err.flogWr + 1 } }
  let s := s.onUnit r.unit (fun x => { x with fcount := if r.cls = 0 then x.fcount else satInc x.fcount, times := if r.cls = 0 then x.times else s.time :: x.times, records := if action = 0xFF then n :: x.records else x.records })
  (n, recordNotice s rec_.part n)

/-- Rewrite the ACTION of a record that is still in the ring. -/
def rewriteAction (s : State) (n : Nat) (action : Byte) : State :=
  let first := s.err.flogWr.toNat - s.err.log.length
  if n < first ∨ s.err.flogWr.toNat ≤ n then s
  else
    match s.err.log[n - first]? with
    | none => s
    | some r =>
      if r.action = action then s
      else recordNotice { s with err := { s.err with log := listSet s.err.log (n - first) { r with action := action } } } r.part n

/-- Settle the pending records of a unit with an ACTION. -/
def settleRecord (s : State) (u : W32) (action : Byte) : State :=
  ((s.unit u).records.foldl (fun s n => rewriteAction s n action) s).onUnit u (fun x => { x with records := [] })

end Sys2Proof.Machine
end

