-- ==== Sys2Proof/Machine/Place.lean ====
section
/-! DEFINITION. Placements and the commands that run on them: casts (R302 to R305), realignment and its reset (R298 to R301), the start and
end of a command (R492, R494), cancellation (R436, R437), drain and restore (R307, R308), and PLACE_CREATE and PLACE_DESTROY (R303, R502). -/

namespace Sys2Proof.Machine

/-- Key of placement `n` of partition `p`. -/
def placeKey (p n : Nat) : Nat := 256 * p + n
/-- A placement, if it exists. -/
def State.place? (s : State) (key : Nat) : Option Place := tabLook s.places key
/-- A placement; empty where none exists. -/
def State.place (s : State) (key : Nat) : Place := tabGet {} s.places key
/-- Replace a placement. -/
def State.setPlace (s : State) (key : Nat) (p : Place) : State := { s with places := tabPut s.places key p }
/-- Every thread of a list of cores. -/
def threadsOf (cs : List CoreId) : List (CoreId × BitVec 2) := cs.flatMap (fun c => allThreads.map (fun t => (c, t)))

/-! ## Casts (R302 to R305) -/

/-- Bytes of a cast area (R303). -/
def castSize (cores : Nat) : Nat := (256 + 1536 * cores + 65535) / 65536 * 65536

/-- First offset from `off` on at which `n` bytes are free, given the used ranges in rising order. -/
def firstFit (n : Nat) : Tab Nat → Nat → Nat
  | [], off => off
  | (o, sz) :: r, off => if off + n ≤ o then off else firstFit n r (max off (o + sz))

/-- Data-space address of a die's cast region (R333). -/
def State.castBase (s : State) (die : Nat) : Nat := 0x10000000000 + die * hbmRegion + s.hbmReserved + 72 * 0x100000

/-- The lowest core_id of a core list. -/
def lowestCore (cs : List CoreId) : Nat := (cs.map (·.toNat)).foldl min 0x3FFF

/-- Address of a new cast area in the region of the die that holds the lowest core_id. -/
def castAlloc (s : State) (cs : List CoreId) : W64 :=
  let die := lowestCore cs / 2048
  let base := s.castBase die
  let used := s.places.foldl (fun (t : Tab Nat) e =>
    if base ≤ e.2.area.toNat ∧ e.2.area.toNat < base + 160 * 0x100000 then tabPut t (e.2.area.toNat - base) (castSize e.2.cores.length) else t) []
  BitVec.ofNat 64 (base + firstFit (castSize cs.length) used 0)

/-- Write the Plinth's own bytes to HBM, behind the writes that the controllers have accepted; fenced HBM takes nothing. -/
def plinthWrite (s : State) (a : W64) (bs : List Byte) : State :=
  match s.classify a with
  | .hbm die o => if s.rangeFenced die o bs.length then s else (hbmWrite (performHbm s) die o bs).2
  | _ => s

/-- Read bytes of HBM for the Plinth; whether every unit could be read. -/
def plinthRead (s : State) (a : W64) (n : Nat) : List Byte × Bool × State :=
  match s.classify a with
  | .hbm die o => if s.rangeFenced die o n then (leBytes n 0, false, s) else hbmRead s die o n
  | _ => ([], false, s)

/-- The 256 B header of a cast area (R303). -/
def castHeader (key : Nat) (p : Place) (x : Cast) (valid : Bool) (ended : W64) : List Byte :=
  leBytes 4 0x54534143 ++ leBytes 2 1 ++ leBytes 1 x.cause ++ leBytes 1 (flagAt valid 0) ++ leBytes 4 p.seq.toNat ++ leBytes 2 x.trigC
    ++ leBytes 1 x.trigT ++ leBytes 1 0 ++ leBytes 8 x.started.toNat ++ leBytes 8 ended.toNat ++ leBytes 4 (key % 256)
    ++ leBytes 4 p.cores.length ++ leBytes 4 p.later.toNat ++ leBytes 212 0

/-- The 16 B of a thread in a core record (R304, R305). -/
def castThread (s : State) (th : Thread) : List Byte :=
  let (obj, us) := match th.wait with | some w => (waitObject w, waited s th w / 1000) | none => (0, 0)
  leBytes 1 th.st.code ++ leBytes 1 (bits th.fault 7 0) ++ leBytes 2 th.pc.toNat ++ leBytes 8 obj.toNat ++ leBytes 4 (min us 0xFFFFFFFF)

/-- The 1,536 B record of a core (R304). -/
def castRecord (s : State) (c : CoreId) : List Byte :=
  let k := s.core c
  leBytes 2 c.toNat ++ [k.altitude] ++ leBytes 1 (flagAt (s.coreFenced c) 0 + flagAt (tabLook s.spares (segKey c)).isSome 1) ++ leBytes 4 0
    ++ leBytes 8 s.time.toNat
    ++ allThreads.flatMap (fun t => castThread s (k.thread t))
    ++ (List.range 8).flatMap (fun p => leBytes 1 (k.port p).length)
    ++ (List.range 32).flatMap (fun n => leBytes 4 (bits (k.acnt n) 31 0))
    ++ (List.range 16).flatMap (fun n => let b := k.bar n
        leBytes 4 b.phase.toNat ++ leBytes 1 (b.arrived.toNat * 16 + b.mask.toNat) ++ leBytes 1 (flagAt b.member 0) ++ leBytes 2 0)
    ++ (List.range 64).flatMap (fun n => let r := k.ring n
        leBytes 2 r.wr.toNat ++ leBytes 2 r.rd.toNat ++ leBytes 2 r.promised ++ leBytes 2 (flagAt r.en 0 + flagAt r.mode 1 + r.size.toNat * 16))
    ++ (List.range 64).flatMap (fun n => leBytes 8 (bindRead (k.bind n)).toNat)
    ++ (List.range 8).flatMap (fun n => leBytes 8 (capRead (k.cap n)).toNat)
    ++ leBytes 4 (bits k.sync.alignStat 31 0) ++ leBytes 4 0 ++ leBytes 8 k.sync.failRings.toNat ++ leBytes 8 k.sync.failBinds.toNat
    ++ leBytes 80 0

/-- Take a cast, or count a further trigger of the command in LATER. Every running or waiting thread is parked first; the records are
sampled; VALID is 0 until CAST_COMPLETE. Gives whether a cast was taken (R302, R303). -/
def takeCast (s : State) (key : Nat) (x : Cast) : Bool × State :=
  let p := s.place key
  if p.cast.isSome || (match p.running with | some r => r.cast | none => false) then
    let p := { p with later := p.later + 1 }
    (false, plinthWrite (s.setPlace key p) (p.area + 40) (leBytes 4 p.later.toNat))
  else
    let cs := sortBy (fun (a b : CoreId) => decide (a.toNat ≤ b.toNat)) (p.cores.map (·.core))
    let parked := (threadsOf cs).filter (fun (c, t) => (s.thread c t).st == .running || (s.thread c t).st == .waiting)
    let s := parked.foldl (fun s (c, t) => parkThread s c t) s
    let x := { x with started := s.time, parked := parked }
    let p := { p with seq := p.seq + 1, later := 0, cast := some x, running := p.running.map (fun r => { r with cast := true }) }
    (true, plinthWrite (s.setPlace key p) p.area (castHeader key p x false 0 ++ cs.flatMap (castRecord s)))

/-! ## Realignment (R298 to R301) -/

/-- Bytes of the baseline table as local memory holds them. -/
def baselines (s : State) (c : CoreId) : List Nat × State :=
  let (bs, _, s) := lmRead s c (s.core c).sync.alignBase.toNat 128
  ((List.range 32).map (fun n => leNat ((bs.drop (4 * n)).take 4)), s)

/-- The comparisons of one core: counters that fail, rings, bindings, a barrier slot, a queue port (R299). -/
structure Align where
  cnt   : Nat
  rings : Nat
  binds : Nat
  bar   : Bool
  port  : Bool
deriving DecidableEq, Repr

/-- Compare a core with its baselines (R299). -/
def compareCore (s : State) (c : CoreId) (base : List Nat) : Align :=
  let k := s.core c
  let mask (n : Nat) (bad : Nat → Bool) : Nat := ((List.range n).map (fun i => flagAt (bad i) i)).sum
  { cnt := mask 32 (fun n => k.sync.alignMask.getLsbD n && (bits (k.acnt n) 31 0 != base.getD n 0 || (k.acnt n).getLsbD 63))
    rings := mask 64 (fun n => let r := k.ring n; r.en && (r.wr != r.rd || decide (r.promised ≠ 0)))
    binds := mask 64 (fun n => let b := k.bind n; b.state == 2 && decide (b.credit.toNat ≠ ((s.core b.target).ring b.ring.toNat).cap))
    bar := (List.range 16).any (fun n => (k.bar n).arrived != 0)
    port := (List.range 8).any (fun n => !(k.port n).isEmpty) }

/-- Whether any comparison failed. -/
def Align.bad (a : Align) : Bool := a.cnt != 0 || a.rings != 0 || a.binds != 0 || a.bar || a.port

/-- Record a core's comparisons; DRIFT is that of the whole realignment (R301, R304). -/
def recordAlign (s : State) (c : CoreId) (a : Align) (drift : Bool) : State :=
  let k := s.core c
  s.setCore c (k.setSync { k.sync with
    alignStat := BitVec.ofNat 64 (a.cnt + flagAt (a.rings != 0 || a.binds != 0) 32 + flagAt a.bar 33 + flagAt a.port 34 + flagAt drift 63)
    failRings := BitVec.ofNat 64 a.rings, failBinds := BitVec.ofNat 64 a.binds })

/-- The reset of a core at the end of realignment (R300): counters, WR and RD, promised slots, credits, queue ports, USED and REFUSED. -/
def resetSync (s : State) (c : CoreId) : State :=
  let k := s.core c
  let y := k.sync
  s.setCore c { k.setSync { y with
      acnt := []
      rings := y.rings.map (fun e => (e.1, { e.2 with wr := 0, rd := 0, grants := [], claims := [] }))
      binds := y.binds.map (fun e => (e.1, if e.2.state = 2 then { e.2 with credit := BitVec.ofNat 11 ((s.core e.2.target).ring e.2.ring.toNat).cap } else e.2))
      caps := y.caps.map (fun e => (e.1, { e.2 with used := 0, refused := 0 })) } with ports := [] }

/-- Reset every core of a placement. -/
def resetPlace (s : State) (key : Nat) : State := (s.placeCores key).foldl resetSync s

/-! ## Ends of commands (R298, R428, R436) -/

/-- Whether a packet belongs to a list of cores: a response to the core that it answers, any other packet to its sender. -/
def ownPacket (cs : List CoreId) (p : Packet) : Bool :=
  if p.cls = 1 then (match p.dst with | .core c => cs.contains c | _ => false) else cs.contains p.src

/-- Whether every engine of a core is done: no queued operation, no moving DMA channel, no open request, no undelivered fault (R428). -/
def coreDone (s : State) (c : CoreId) : Bool :=
  let k := s.core c
  k.me.queue.isEmpty && k.fcq.isEmpty && k.chans.all (fun e => e.2.st != .active && e.2.st != .stopping)
    && k.slots.all (fun e => !e.2.isOpen) && allThreads.all (fun t => (k.thread t).async.isEmpty)

/-- Whether nothing of a placement is under way: packets delivered, the engines of its cores done (but
for a fenced core's), reports arrived, those of a unit that it uses among them (R298, R428, R436). -/
def drainedOut (s : State) (key : Nat) : Bool :=
  let cs := s.placeCores key
  cs.all (fun c => s.coreFenced c || coreDone s c) && !s.net.any (ownPacket cs) && s.err.reports.all (fun r => match r.place with | some p => p != key | none => !usesUnit s r.unit key)

/-- Whether every thread of a placement is STOPPED with no START held (R298). -/
def allStopped (s : State) (key : Nat) : Bool :=
  (threadsOf (s.placeCores key)).all (fun (c, t) => (s.thread c t).st == .stopped && !(s.thread c t).startHeld)

/-- Place of a status in the order of R437. -/
def statusRank (st : Byte) : Nat := ([0x10, 0x07, 0x09, 0x0B, 0x0D, 0x0A] : List Byte).findIdx (· == st)

/-- The first status of a list in the order of R437. -/
def firstStatus : List Byte → Option Byte
  | [] => none
  | x :: r =>
    match firstStatus r with
    | none => some x
    | some y => some (if statusRank x ≤ statusRank y then x else y)

/-- Stop every thread of a placement. -/
def stopThreads (s : State) (key : Nat) : State := (threadsOf (s.placeCores key)).foldl (fun s (c, t) => stopThread s c t) s

/-- Park every thread of a placement. -/
def parkThreads (s : State) (key : Nat) : State := (threadsOf (s.placeCores key)).foldl (fun s (c, t) => parkThread s c t) s

/-- Stop every active DMA channel of a placement (R243). -/
def stopChannels (s : State) (key : Nat) : State :=
  (s.placeCores key).foldl (fun s c => (List.range 8).foldl (fun s n =>
    if ((s.core c).chan n).st = .active then chanStop s c n else s) s) s

/-- Whether a core has lost its capacity (R425, R444). -/
def coreLost (s : State) (c : CoreId) : Bool :=
  s.effective (unitCore c) == 6 || s.effective (unitId 1 c.toNat) == 6 || s.effective (unitId 7 (dieOf c)) == 6

/-! ## Starting a command (R298, R436, R492) -/

/-- The dispatch time of a step attempt goes into its header and its record (R400, R423). -/
def stampStep (s : State) (sl : Nat) : State :=
  let x := tabGet {} s.slots sl
  let s := { s with slots := tabPut s.slots sl { x with step := x.step.map (fun e => { e with dispatch := s.time }) } }
  plinthWrite s ((tabGet {} s.set.slots sl).stepBase + 24) (leBytes 8 s.time.toNat)

/-- Launch a command: sh0 of each core is ARG for a RUN; threads with a START_PC start; the CLAMP watch begins. -/
def launch (s : State) (key : Nat) (r : Command) : State :=
  let p := s.place key
  let s := s.setPlace key { p with running := some { r with began := s.time }, later := 0 }
  let s := match r.step with | some sl => stampStep s sl | none => s
  p.cores.foldl (fun s e =>
    let k := s.core e.core
    let k := k.setSync { k.sync with clampCmd := false }
    let k := if r.step.isNone then { k with sh := tabSet 0 k.sh 0 (r.arg.zeroExtend 64) } else k
    allThreads.foldl (fun s t =>
      let pc := e.startPc.getD t.toNat 0xFFFF
      if pc = 0xFFFF then s else thrCtlOp s e.core t (BitVec.ofNat 64 (pc.toNat * 2 ^ 16 + 1))) (s.setCore e.core k)) s

/-- The completion of a command: a RUN's completion entry, or the result of a serving step. SATURATED stands in for OK when a CLAMP bit was
set in the command (R281), and REPLAYED_OK for an OK after an internal retry (R497). -/
def reportEnd (s : State) (key : Nat) (r : Command) (status : Byte) : State :=
  let clamp := (s.placeCores key).any (fun c => (s.core c).sync.clampCmd)
  let st : Byte := if status ≠ 0 then status else if clamp then 0x11 else if r.retried then 0x0C else 0
  match r.step with
  | some sl =>
    let x := tabGet {} s.slots sl
    { s with slots := tabPut s.slots sl { x with step := x.step.map (fun e => { e with result := some (if st = 0x0C then 0 else st), ended := s.time }) } }
  | none =>
    match r.q with
    | some q => post s q (cmdDone st r.hostTag 0 0)
    | none => s

/-- Start waiting commands while none runs: one on a placement with a LOST core completes CAPACITY_LOST; dispatch waits while a cast is
written, the placement is drained, a spare is being loaded, or a core or a link on the way to it is fenced (R307, R425, R442 to R444). -/
def dispatchNext : Nat → State → Nat → State
  | 0, s, _ => s
  | fuel + 1, s, key =>
    match s.place? key with
    | none => s
    | some p =>
      match p.waiting with
      | [] => s
      | r :: rest =>
        if p.running.isSome || p.cast.isSome || p.draining || p.drained || p.loading then s
        else if p.failed || p.cores.any (fun e => coreLost s e.core) then
          dispatchNext fuel (reportEnd (s.setPlace key { p with waiting := rest }) key r 0x10) key
        else if p.cores.any (fun e => s.coreFenced e.core || s.rowFenced (.core e.core)) then s
        else launch (s.setPlace key { p with waiting := rest }) key r

/-- Start the next commands of a placement. -/
def kick (s : State) (key : Nat) : State := dispatchNext ((s.place key).waiting.length + 1) s key

/-- End the running command with a status and start the next. -/
def endCommand (s : State) (key : Nat) (status : Byte) (aligned : Bool) : State :=
  let p := s.place key
  match p.running with
  | none => s
  | some r =>
    let s := s.setPlace key { p with running := none, sinceAlign := if aligned then 0 else p.sinceAlign + 1 }
    kick (reportEnd s key r status) key

/-- End a cancelled command once its packets are delivered: threads stop, the channel state is reset, and it completes with its status
(R436, R437, R494). -/
def endCancelled (s : State) (key : Nat) : State :=
  let p := s.place key
  match p.running with
  | none => s
  | some r =>
    match r.status with
    | none => s
    | some st => if p.cast.isSome || !drainedOut s key then s else endCommand (resetPlace (stopThreads (performAll s) key) key) key st true

/-- Cancel the running command of a placement: threads are parked and channels stopped; it ends when its packets are delivered (R436). -/
def cancelCommand (s : State) (key : Nat) (status : Byte) : State :=
  let p := s.place key
  match p.running with
  | none => s
  | some r =>
    let touched := r.touched ++ [status]
    let s := s.setPlace key { p with running := some { r with touched := touched, status := firstStatus touched } }
    endCancelled (stopChannels (parkThreads s key) key) key

/-- Whether realignment is due at the end of the running command: every step, and every REALIGN_N-th command (R298). -/
def alignDue (p : Place) (r : Command) : Bool := r.step.isSome || decide (p.cfg.realignN.toNat ≤ p.sinceAlign.toNat + 1)

/-- COMMAND_END (R298): every thread stopped, every packet delivered, every write performed; no realignment is due. A cancelled command
ends here as R436 states. -/
def execCommandEnd (place : Nat) (now : W64) (s : State) : Res :=
  let s := s.atTime now
  let p := s.place place
  match p.running with
  | none => .next s
  | some r =>
    if r.status.isSome then .next (endCancelled s place)
    else if alignDue p r || !allStopped s place || !drainedOut s place then .next s
    else .next (endCommand (performAll s) place 0 false)

/-- Compare every core of a placement. -/
def compareAll : List CoreId → State → List (CoreId × Align) × State
  | [], s => ([], s)
  | c :: r, s =>
    let (base, s) := baselines s c
    let (rest, s) := compareAll r s
    ((c, compareCore s c base) :: rest, s)

/-- REALIGNMENT (R298 to R301). -/
def execRealignment (place : Nat) (now : W64) (s : State) : Res :=
  let s := s.atTime now
  let p := s.place place
  match p.running with
  | none => .next s
  | some r =>
    if r.status.isSome || !alignDue p r || !allStopped s place || !drainedOut s place then .next s
    else
      let (as, s) := compareAll (s.placeCores place) (performAll s)
      let drift := as.any (fun a => a.2.bad)
      let s := as.foldl (fun s a => recordAlign s a.1 a.2 drift) s
      if !drift then .next (endCommand (resetPlace s place) place 0 true)
      else
        let (_, s) := recordFault s { unit := unitPlace place, cls := 11, code := 0, place := some place, detail := stepDetail s place } (if r.step.isSome then 1 else 0)
        let s := s.setPlace place { s.place place with running := some { r with status := some 0x0A, touched := [0x0A] } }
        let (taken, s) := takeCast s place { cause := 2, started := s.time }
        if taken then .next s else .next (endCancelled s place)

/-- CAST_COMPLETE: VALID is set; a cast command's threads continue and it completes; any other cast's command ends (R302, R303). -/
def execCastComplete (place : Nat) (now : W64) (s : State) : Res :=
  let s := s.atTime now
  let p := s.place place
  match p.cast with
  | none => .next s
  | some x =>
    let s := plinthWrite s p.area (castHeader place p x true s.time)
    let s := s.setPlace place { p with cast := none }
    if x.cause = 3 then
      let ending := match p.running with | some r => r.status.isSome | none => false
      let s := if ending then s else x.parked.foldl (fun s (c, t) => unparkThread s c t) s
      let s := match x.q with | some (q, tag) => post s q (cmdDone 0 tag 0 0) | none => s
      .next (kick (endCancelled s place) place)
    else .next (kick (endCancelled s place) place)

/-- CMD_LIMIT_EXPIRY (R494): a cast with CAUSE 4, then every thread and channel stops and the command ends TIMEOUT. -/
def execCmdLimitExpiry (place : Nat) (now : W64) (s : State) : Res :=
  let s := s.atTime now
  let p := s.place place
  match p.running with
  | none => .next s
  | some r =>
    if r.step.isSome || r.status.isSome || decide (s.since r.began < p.cfg.cmdLimit.toNat * 1000000) || allStopped s place then .next s
    else
      let (_, s) := recordFault s { unit := unitPlace place, cls := 5, code := 0, place := some place, detail := 0 } 0
      let (_, s) := takeCast s place { cause := 4, started := s.time }
      .next (cancelCommand s place 0x0B)

/-- WAIT_TIMEOUT (R81, R139, R302): the wait is abandoned with no effect, the thread faults, and the command's first one takes a cast. -/
def execWaitTimeout (core : CoreId) (thr : BitVec 2) (now : W64) (s : State) : Res :=
  onCore s core (fun s =>
    let s := s.atTime now
    let th := s.thread core thr
    match th.wait with
    | none => s
    | some w =>
      if th.st != .waiting || waitHolds s core thr w || decide (waited s th w < th.waitTo.toNat * 1000) then s
      else
        let s := takeFault (abandonWait s core thr true) core thr 0x0C th.pc (waitObject w)
        match (s.core core).place with
        | none => s
        | some key =>
          if (s.place key).running.isNone then s
          else
            let (_, s) := takeCast s key { cause := 1, trigC := core.toNat, trigT := thr.toNat, started := s.time }
            cancelCommand s key 0x0B)

/-- STEP_CANCEL (R436, R437). -/
def execStepCancel (place : Nat) (status : Byte) (now : W64) (s : State) : Res :=
  let s := s.atTime now
  if statusRank status < 6 then .next (cancelCommand s place status) else .next s

/-! ## Direct commands of the host (R302, R490, R492) -/

/-- The placement of the function's partition that an entry's INDEX names, if it exists. -/
def entryPlace (s : State) (h : HostCmd) : Option Nat :=
  match partNo h.q.fn with
  | none => none
  | some p =>
    let key := placeKey p h.e.index.toNat
    if h.e.index.toNat < 256 ∧ (s.place? key).isSome then some key else none

/-- The effect of RUN: the command waits for those before it, and starts when none runs. -/
def runAct (h : HostCmd) (s : State) : State :=
  match entryPlace s h with
  | none => finish s h 0x0D
  | some key =>
    let p := s.place key
    kick (s.setPlace key { p with waiting := p.waiting ++
      [{ q := some h.q, hostTag := h.e.hostTag, retried := h.retried, step := none, began := s.time, arg := h.e.arg }] }) key
/-- RUN (R492). -/
def execRun (h : HostCmd) (s : State) : Res := hostEntry (.run h) h { index := true, arg := true } (runAct h) s

/-- The effect of CAST: a further trigger of a command that has its cast is counted, and completes OK. -/
def castAct (h : HostCmd) (s : State) : State :=
  match entryPlace s h with
  | none => finish s h 0x0D
  | some key =>
    let (taken, s) := takeCast s key { cause := 3, started := s.time, q := some (h.q, h.e.hostTag) }
    if taken then s else finish s h 0
/-- CAST (R302). -/
def execCast (h : HostCmd) (s : State) : Res := hostEntry (.castCmd h) h { index := true } (castAct h) s

/-- The effect of READ_CAST: the area's header and records go to host memory (R303, R490). -/
def readCastAct (h : HostCmd) (s : State) : State :=
  match entryPlace s h with
  | none => finish s h 0x0D
  | some key =>
    let p := s.place key
    let n := 256 + 1536 * p.cores.length
    if h.e.len1.toNat < n then finish s h 0x0D
    else
      let (bs, ok, s) := plinthRead s p.area n
      if ok then finish (hostWrite s h.e.addr1 bs) h 0 else finish s h 0x09
/-- READ_CAST (R490). -/
def execReadCast (h : HostCmd) (s : State) : Res :=
  hostEntry (.readCast h) h { index := true, addr1 := true, len1 := true } (readCastAct h) s

/-! ## PLACE_CREATE and PLACE_DESTROY (R72, R99, R182, R224, R260, R303, R442, R502) -/

/-- A core-list entry (R502). -/
def coreEntry (bs : List Byte) : Nat × CoreEntry :=
  let f (o n : Nat) : Nat := leNat ((bs.drop o).take n)
  (f 0 2, { core := BitVec.ofNat 14 (f 0 2), altitude := BitVec.ofNat 8 (f 2 1), istoreLen := BitVec.ofNat 32 (f 4 4),
            preloadLen := BitVec.ofNat 32 (f 8 4), image := BitVec.ofNat 64 (f 16 8),
            startPc := (List.range 4).map (fun t => BitVec.ofNat 16 (f (24 + 2 * t) 2)) })

/-- Whether `n` bytes from an address lie in the populated, non-reserved HBM of a partition. -/
def inPartHbm (s : State) (p : Nat) (a : W64) (n : Nat) : Bool :=
  match s.classify a with
  | .hbm die o => (tabGet {} s.set.parts p).dies.getLsbD die && decide (o + n ≤ s.hbmReserved)
  | _ => false

/-- Whether an entry meets the limits of R502 for a new placement of a partition. -/
def coreEntryOk (s : State) (p : Nat) (raw : List Byte) : Bool :=
  let (id, e) := coreEntry raw
  let n := e.istoreLen.toNat + e.preloadLen.toNat
  decide (raw.length = 32) && decide (id < 16384) && isCore e.core && (tabGet {} s.set.parts p).dies.getLsbD (dieOf e.core)
    && raw[3]? == some 0 && decide (leNat ((raw.drop 12).take 4) = 0)
    && decide (e.istoreLen.toNat % 16 = 0) && decide (e.istoreLen.toNat ≤ 0x10000) && decide (e.preloadLen.toNat ≤ 0x50000)
    && (n == 0 || inPartHbm s p e.image n) && (s.core e.core).place.isNone

/-- The 32 B entries of a core list. -/
def rawEntries (bs : List Byte) (n : Nat) : List (List Byte) := (List.range n).map (fun i => (bs.drop (32 * i)).take 32)

/-- A core at placement creation (R55, R72, R99, R145, R182, R229, R261, R295, R528): every register of its threads, memories, engines and
channels at its reset value. What belongs to its router and to its integrity record stays. -/
def createdCore (s : State) (key : Nat) (cfg : PlaceCfg) (e : CoreEntry) : Core :=
  let k := s.core e.core
  { place := some key, altitude := e.altitude, part := BitVec.ofNat 3 (key / 256), me := { width := widthOf s e.core }
    sync := { bars := (List.range 16).map (fun n => (n, { member := true })) }
    insts := tabPut (tabPut k.insts 0 (filledInst (k.inst 0))) 1 (filledInst (k.inst 1))
    e2e := k.e2e, stale := k.stale, perf := k.perf, slots := k.slots, cairnHold := cfg.cairnHold, dorhal := cfg.dorhal
    rotCls := k.rotCls, rotPort := k.rotPort, group := k.group, crcFails := k.crcFails, replay := k.replay }

/-- Apply a core's load image: the instruction store from address 0, then the preload into local memory from address 0 (R442). Words that
cannot be read leave the image unapplied. -/
def applyImage (s : State) (e : CoreEntry) : Bool × State :=
  let n := e.istoreLen.toNat + e.preloadLen.toNat
  if n = 0 then (true, s)
  else
    let (bs, ok, s) := plinthRead s e.image n
    if !ok then (false, s)
    else
      let k := s.core e.core
      let ist := (writeBytes 0xFF k.istore (k.inst 1) 0 (bs.take e.istoreLen.toNat)).2
      let lm := (writeBytes 0 k.lm (k.inst 0) 0 (bs.drop e.istoreLen.toNat)).2
      (true, s.setCore e.core (({ k with istore := ist.1, lm := lm.1 }.setInst 1 ist.2).setInst 0 lm.2))

/-- A core that no placement holds: MESH_CFG returns to native mode (R260), and nothing of its engines goes on. -/
def releaseCore (s : State) (c : CoreId) : State :=
  let k := s.core c
  let slots := k.slots.map (fun e => (e.1, if e.2.isOpen then { e.2 with isOpen := false, epoch := e.2.epoch + 1 } else e.2))
  s.setCore c { k with place := none, cairnHold := 8, dorhal := false, sync := { k.sync with bars := [] }, me := { k.me with queue := [] }, fcq := [], slots := slots }

/-- Record W of a core in the placement tables (R183). -/
def recordW (s : State) (key : Nat) (c : CoreId) : State :=
  let p := s.place key
  s.setPlace key { p with cores := p.cores.map (fun e => if e.core = c then { e with w := widthW (s.core c).me.width } else e) }
/-- Set the cores of a placement up with their load images; `none` when an image cannot be read (R442). -/
def loadCores (s : State) (key : Nat) : Option State :=
  let p := s.place key
  p.cores.foldl (fun (r : Option State) e =>
    match r with
    | none => none
    | some s =>
      let (ok, s) := applyImage (recordW (s.setCore e.core (createdCore s key p.cfg e)) key e.core) e
      if ok then some s else none) (some s)
/-- Create a placement from its block and core list; `none` when a load image cannot be read. -/
def createPlace (s : State) (key : Nat) (es : List CoreEntry) : Option State :=
  loadCores (s.setPlace key { cores := es, cfg := tabGet {} s.set.places key, area := castAlloc s (es.map (·.core)) }) key

/-- The arrival of a packet, by what it carries and where it goes. -/
def arrive (p : Packet) (s : State) : Res :=
  match p.body with
  | .load _ _ _ => (match p.dst with | .slice _ _ => execCommonsRequestArrive p.id s | .hbm _ _ => execHbmRequestArrive p.id s | _ => execRemoteWriteArrive p.id s)
  | .atomic _ _ _ _ => execCommonsRequestArrive p.id s
  | .store _ _ _ _ => (match p.dst with | .slice _ _ => execCommonsRequestArrive p.id s | .hbm _ _ => execHbmRequestArrive p.id s | _ => execRemoteWriteArrive p.id s)
  | .reply _ _ _ => execFarResponseArrive p.id s
  | .ack _ _ => execWriteAckArrive p.id s
  | .fenced _ => execFencedAnswerArrive p.id s
  | .msg _ _ _ _ _ _ _ _ => execRingMessageArrive p.id true s
  | .credit _ _ => execCreditReturnArrive p.id s
  | .bindReq _ _ _ _ => execBindRequestArrive p.id s
  | .bindAns _ _ _ _ => execBindAnswerArrive p.id s
  | .unbind _ _ => execUnbindArrive p.id s
  | .claim _ _ _ _ _ => execRouteClaimArrive p.id s
  | .claimAns _ _ _ _ => execRouteClaimAnswer p.id s
  | .unclaim _ _ _ => execRouteClaimArrive p.id s
  | .cairn _ _ _ _ _ _ _ _ _ _ => execCairnFinalCombine p.id true s
/-- Deliver the first packet of a list of cores, and what follows from it, until none is left (R320, R322). DEDUCED: log 147. -/
def deliverOwn : Nat → List CoreId → State → State
  | 0, cs, s => { s with net := s.net.filter (fun p => !ownPacket cs p) }
  | fuel + 1, cs, s =>
    match s.net.find? (ownPacket cs) with
    | none => s
    | some p =>
      let there : Packet := { p with at_ := destRouter p.dst, free := true, after := [], out := false }
      let s := { s with net := s.net.map (fun q => if q.id = p.id then there else q) }
      let s := match arrive there s with | .next t => t | _ => s
      deliverOwn fuel cs { s with net := s.net.filter (fun q => decide (q.id ≠ p.id)) }
/-- End a placement: its threads and channels stop, its packets are delivered and its writes performed, its commands complete CANCELLED, its
cores are released and its cast area is free (R320, R322). DEDUCED: log 147. -/
def endPlace (s : State) (key : Nat) : State :=
  match s.place? key with
  | none => s
  | some p =>
    let s := stopChannels (stopThreads s key) key
    let s := performAll (deliverOwn (4 * s.net.length + 4) (p.cores.map (·.core)) s)
    let cmds := (match p.running with | some r => [r] | none => []) ++ p.waiting
    let s := s.setPlace key { p with running := none, waiting := [], cast := none }
    let s := cmds.foldl (fun s r => reportEnd s key r 0x04) s
    let s := match p.cast with | some { q := some (q, tag), .. } => post s q (cmdDone 0x04 tag 0 0) | _ => s
    let s := p.cores.foldl (fun s e => releaseCore s e.core) s
    { s with places := tabDel s.places key }

/-! ## Drain and restore (R307, R308) -/

/-- DRAIN: the placement's threads are parked and its channels stopped (R307). -/
def startDrain (s : State) (key : Nat) : State :=
  match s.place? key with
  | none => s
  | some p =>
    if p.draining || p.drained then s
    else
      let cs := p.cores.map (·.core)
      let thr := (threadsOf cs).filter (fun (c, t) => (s.thread c t).st == .running || (s.thread c t).st == .waiting)
      let chs := cs.flatMap (fun c => ((List.range 8).filter (fun n => ((s.core c).chan n).st == .active)).map (fun n => (c, n)))
      stopChannels (parkThreads (s.setPlace key { p with draining := true, drainedThr := thr, drainedCh := chs }) key) key

/-- What a drain image holds of each core: thread state, shared registers, queue ports, tiles, rings, bindings, counters, barrier slots, DMA
and routing registers, and local memory, the words of remap entries in their places (R307, R356). -/
def drainImage (s : State) (cs : List CoreId) : Tab Core :=
  cs.foldl (fun (t : Tab Core) c => let k := s.core c; tabPut t c.toNat { k with lm := gatherWords 0 k.lm (k.inst 0) }) []

/-- Data-space address of the save area of a die (R333). -/
def State.saveBase (s : State) (die : Nat) : Nat := 0x10000000000 + die * hbmRegion + s.hbmReserved + 1024 * 0x100000

/-- Data-space address of a context: 8 MiB + 256 × (i mod 262,144) into the reserved range of die i div 262,144 (R333, R362). -/
def ctxAddr (s : State) (i : Nat) : W64 := BitVec.ofNat 64 (0x10000000000 + i / 262144 * hbmRegion + s.hbmReserved + 8 * 0x100000 + 256 * (i % 262144))

/-- The drain image is sealed under the partition's save key and written to the save area of the die of the lowest core_id (R307). DESIGN CHOICE: log 137. -/
def finishDrain (s : State) (key : Nat) : State :=
  match s.place? key with
  | none => s
  | some p =>
    if !p.draining then s
    else
      let s := performAll s
      let cs := p.cores.map (·.core)
      let k := (tabGet ({} : Part) s.parts (key / 256)).saveKey
      let (off, bs) := Config.drainSeal k key s.freeCtr
      let a : W64 := BitVec.ofNat 64 (s.saveBase (lowestCore cs / 2048) + off % 0x40000000)
      let bs := bs.take (0x40000000 - off % 0x40000000)
      let s := plinthWrite { s with freeCtr := s.freeCtr + 1 } a bs
      s.setPlace key { p with draining := false, drained := true, image := some { cores := drainImage s cs, key := k, at_ := a, bytes := bs } }

/-- A restored core: what the image holds, on a core that keeps its router, its integrity record, its own MX_WIDTH and the slots' epochs; words
that its remap entries serve go into them. -/
def restoredCore (s : State) (k img : Core) : Core :=
  { img with place := k.place, insts := k.insts, e2e := k.e2e, stale := k.stale, perf := k.perf, slots := k.slots, istore := k.istore
             lm := spreadWords 0 img.lm (k.inst 0), me := { img.me with width := k.me.width }
             rotCls := k.rotCls, rotPort := k.rotPort, group := k.group, crcFails := k.crcFails, replay := k.replay
             threads := img.threads.map (fun e => (e.1, { e.2 with wait := e.2.wait.map (fun w => { w with begun := s.time }) })) }

/-- Whether the tag of an image holds: its save key still lives, and its sealed bytes stand in the save area as they were written (R308, R460). DESIGN CHOICE: log 137. -/
def imageHolds (s : State) (key : Nat) (img : DrainImage) : Bool × State :=
  let (bs, ok, s) := plinthRead s img.at_ img.bytes.length
  (ok && bs == img.bytes && img.key == (tabGet ({} : Part) s.parts (key / 256)).saveKey, s)

/-- The image goes back onto the same logical cores: each thread resumes in the state it held, and channels that were active continue from
POS. An image whose tag fails leaves the placement drained, and the command completes AUTH_FAILED (R308). -/
def restorePlace (s : State) (key : Nat) : State :=
  match s.place? key with
  | none => s
  | some p =>
    match p.image with
    | none => s
    | some img =>
      if !p.drained || p.cores.any (fun e => s.coreFenced e.core) then s
      else
        let (good, s) := imageHolds s key img
        if !good then s.emit (.event 2 0x0F)
        else
          let s := p.cores.foldl (fun s e => s.setCore e.core (restoredCore s (s.core e.core) (tabGet {} img.cores e.core.toNat))) s
          let s := p.drainedThr.foldl (fun s (c, t) => unparkThread s c t) s
          let s := p.drainedCh.foldl (fun s (c, n) => if ((s.core c).chan n).st = .stopped then chanResume s c n else s) s
          kick (s.setPlace key { p with drained := false, image := none }) key

end Sys2Proof.Machine
end

