-- ==== Sys2Proof/Machine/Requests.lean ====
section
/-! DEFINITION. Requests: contexts (R362 to R367), contracts and KV supply (R368 to R373, R408 to R413), histograms (R417 to R420),
notices and output chunks (R385, R475, R491), and the ways in which a request ends or pauses. -/

namespace Sys2Proof.Machine

/-- Handle of a context (R363). -/
def handleOf (i : Nat) (x : Ctx) : W32 := BitVec.ofNat 32 (i % 2 ^ 21 + x.gen.toNat * 2 ^ 21)

/-- State codes of R366. -/
def RqSt.code : RqSt → Nat
  | .free => 0 | .admitted => 1 | .prefill => 2 | .decode => 3 | .spec => 4 | .paused => 5 | .draining => 6 | .done => 7 | .cancelled => 8
  | .failed => 9

/-- The final states. -/
def RqSt.final (st : RqSt) : Bool := st == .done || st == .cancelled || st == .failed
/-- A live request: neither FREE nor final (R369). -/
def Ctx.live (x : Ctx) : Bool := x.st != .free && !x.st.final
/-- PAUSED with cause DEFERRED (R369). -/
def Ctx.deferred (x : Ctx) : Bool := x.st == .paused && x.cause == 1
/-- ACTIVE of a contract (R369). -/
def State.active (s : State) (ctr : Nat) : Nat := (s.ctxsWhere (fun x => x.live && x.ctr == ctr && !x.deferred)).length
/-! ## Contracts (R370, R377, R379, R387) -/

/-- The token bucket B of a contract, BURST until it has been charged, never above BURST. -/
def State.bucket (s : State) (ctr : Nat) : Int :=
  let c := s.contract ctr
  let burst : Int := ((s.ctrCfg ctr).burst.toNat : Nat)
  if c.started then min c.bucket burst else burst
/-- A GUARANTEED contract in rate (R370). -/
def State.inRate (s : State) (ctr : Nat) : Bool := (s.ctrCfg ctr).cls == 0 && decide (0 < s.bucket ctr)
/-- Add to a counter of a contract, by its offset in the counter block (R387). -/
def countCtr (s : State) (ctr off n : Nat) : State :=
  let c := s.contract ctr
  s.setContract ctr { c with counters := tabSet 0 c.counters off (tabGet 0 c.counters off + BitVec.ofNat 64 n) }
/-- Charge one committed token: out of rate it counts in DEMOTED; B falls by one and never below −2^31 (R370). -/
def chargeOne (ctr : Nat) (s : State) : State :=
  let cfg := s.ctrCfg ctr
  if cfg.rate = 0 then s
  else
    let b := s.bucket ctr
    let s := if cfg.cls = 0 ∧ b ≤ 0 then countCtr s ctr 0x30 1 else s
    s.setContract ctr { s.contract ctr with bucket := if b ≤ -2147483648 then b else b - 1, started := true }
/-- Charge tokens to a contract. -/
def charge (s : State) (ctr n : Nat) : State := (List.range n).foldl (fun s _ => chargeOne ctr s) s

/-- DEADLINE (R377). -/
def deadline (s : State) (x : Ctx) : W64 :=
  let cfg := s.ctrCfg x.ctr
  if x.emitted = 0 then x.tArrive + BitVec.ofNat 64 (cfg.ttftP99.toNat * 1000) else x.tLast + BitVec.ofNat 64 (cfg.itlP99.toNat * 1000)
/-- Ranking key of a request (R379): group, time, contract, INDEX. -/
def rankKey (s : State) (i : Nat) : List Nat :=
  let x := s.ctx i
  let c := (s.ctrCfg x.ctr).cls
  if c = 2 then [2, x.tArrive.toNat, x.contract.toNat, i]
  else if s.inRate x.ctr then [0, (deadline s x).toNat, x.contract.toNat, i]
  else [1, x.tArrive.toNat, x.contract.toNat, i]
/-- Requests in the order of R379. -/
def ranked (s : State) (is : List Nat) : List Nat := sortBy (fun a b => lexLe (rankKey s a) (rankKey s b)) is

/-! ## KV pages (R372, R373, R382, R408 to R413) -/

/-- Pages for `n` positions. -/
def pagesFor (tpp n : Nat) : Nat := (n + tpp - 1) / tpp
/-- References of a page: the requests that hold it and the prefix entries that name it (R413). -/
def Slot.pageRefs (x : Slot) (p : Nat) : Nat := tabGet 0 x.refs p + x.prefixes.countP (fun e => e.pages.contains p)
/-- The leading pages of a request's list that it does not hold alone (R401, R413). -/
def State.sharedOf (s : State) (x : Ctx) : Nat := (x.pages.takeWhile (fun p => decide (2 ≤ (s.mslot x.slotKey).pageRefs p))).length
/-- Pages that live requests with a property hold in a slot; shared pages count against no contract (R413). -/
def State.pagesHeld (s : State) (sl : Nat) (f : Ctx → Bool) : Nat :=
  (s.ctxs.map (fun e => if e.2.live && e.2.slotKey == sl && f e.2 then e.2.pages.length - s.sharedOf e.2 else 0)).sum
/-- Pages that the live requests of a contract hold in a slot. -/
def State.heldPages (s : State) (sl ctr : Nat) : Nat := s.pagesHeld sl (fun x => x.ctr == ctr)
/-- Reserved supply of a contract in a slot. -/
def State.reservedSupply (s : State) (sl ctr : Nat) : Nat :=
  let c := s.ctrCfg ctr
  if c.slots.getLsbD (sl % 16) then c.kvReserve.toNat - s.heldPages sl ctr else 0
/-- The sum of the reserved supply of all contracts in a slot. -/
def State.reservedAll (s : State) (sl : Nat) : Nat :=
  ((s.ctrEff.filter (fun e => e.1 / 256 = sl / 16)).map (fun e => s.reservedSupply sl e.1)).sum
/-- Shared supply of a slot's pool, never below zero (R373). -/
def State.sharedSupply (s : State) (sl : Nat) : Nat := s.freePages sl - s.reservedAll sl
/-- Reserved supply that a contract may draw: pages that the reserves lack, as after a raised KV_RESERVE, come off it, so that no contract
draws another's reserve. DEDUCED: log 140. -/
def State.ownSupply (s : State) (sl ctr : Nat) : Nat :=
  if (s.ctrCfg ctr).cls = 0 then s.reservedSupply sl ctr - (s.reservedAll sl - s.freePages sl) else 0
/-- Supply of a contract in a slot (R373). -/
def State.supply (s : State) (sl ctr : Nat) : Nat := s.ownSupply sl ctr + s.sharedSupply sl

/-- Pages that a slot's prefix entries name. -/
def Slot.prefixPages (x : Slot) : List Nat := x.prefixes.flatMap (·.pages)
/-- The first number from `i` on, round a pool of `n`, that is not used. -/
def firstUnused (used : Nat → Bool) (n : Nat) : Nat → Nat → Option Nat
  | 0, _ => none
  | fuel + 1, i => if used (i % n) then firstUnused used n fuel (i + 1) else some (i % n)
/-- The least recently hit prefix entry that names a page which no request holds. -/
def oldestPrefix (x : Slot) : Option PrefixEnt :=
  (x.prefixes.filter (fun e => e.pages.any (fun p => (tabLook x.refs p).isNone))).foldl
    (fun (b : Option PrefixEnt) e => match b with | none => some e | some y => if e.hit < y.hit then some e else b) none
/-- Pick a page for a request: any page that nothing names, else one freed by removing the least recently hit prefix entry that names such
a page (R413). Which of several the Plinth picks is a free value. -/
def pickPage : Nat → Nat → State → Option Nat × State
  | 0, _, s => (none, s)
  | fuel + 1, sl, s =>
    let x := s.mslot sl
    let n := (s.slotCfg sl).poolPages.toNat
    let (f, s) := s.freeVal 32
    let named := x.prefixPages
    match firstUnused (fun p => (tabLook x.refs p).isSome || named.contains p) n (min n (x.refs.length + named.length + 1)) f.toNat with
    | some p => (some p, s)
    | none =>
      match oldestPrefix x with
      | none => (none, s)
      | some e => pickPage fuel sl (s.setMslot sl { x with prefixes := x.prefixes.filter (fun y => y != e) })
/-- Hold a page once more. -/
def holdPage (s : State) (sl p : Nat) : State :=
  let x := s.mslot sl
  s.setMslot sl { x with refs := tabPut x.refs p (tabGet 0 x.refs p + 1) }
/-- Drop one hold of a page. -/
def dropPage (s : State) (sl p : Nat) : State :=
  let x := s.mslot sl
  let n := tabGet 0 x.refs p
  s.setMslot sl { x with refs := if n ≤ 1 then tabDel x.refs p else tabPut x.refs p (n - 1) }
/-- Draw `n` pages for a request. -/
def drawPages : Nat → State → Nat → State
  | 0, s, _ => s
  | n + 1, s, i =>
    let sl := (s.ctx i).slotKey
    let (p, s) := pickPage ((s.mslot sl).prefixes.length + 1) sl s
    match p with
    | none => s
    | some p =>
      let s := holdPage s sl p
      let x := s.ctx i
      drawPages n (s.setCtx i { x with pages := x.pages ++ [p] }) i
/-- Drop the pages of a request after the first `keep`. -/
def releasePages (s : State) (i keep : Nat) : State :=
  let x := s.ctx i
  let s := (x.pages.drop keep).foldl (fun s p => dropPage s x.slotKey p) s
  s.setCtx i { s.ctx i with pages := x.pages.take keep }

/-! ## Histograms (R417 to R420) -/

/-- Bin of a sample: the number of bounds L(b) = ceil(1,000 × 2^((b − 1) / 4)), b = 1 to 127, that it reaches (R418). -/
def binOf (v : Nat) : Nat := (List.range 127).countP (fun j => decide (10 ^ 12 * 2 ^ j ≤ v ^ 4))
/-- The least n below 2^k with n^4 ≥ x, built from its top bit down. -/
def ceilRoot4 (x : Nat) : Nat → Nat → Nat
  | 0, lo => if x ≤ lo ^ 4 then lo else lo + 1
  | k + 1, lo => ceilRoot4 x k (if (lo + 2 ^ k) ^ 4 ≤ x then lo + 2 ^ k else lo)
/-- L(b), the lower bound of bin b, b = 1 to 127 (R418). -/
def binBound (b : Nat) : Nat := ceilRoot4 (10 ^ 12 * 2 ^ (b - 1)) 50 0
/-- Key of a histogram. -/
def histKey (ctr metric : Nat) : Nat := 4 * ctr + metric
/-- Saturating increment of a miss counter (R419). -/
def missInc (x : W32) (hit : Bool) : W32 := if hit && x != 0xFFFFFFFF then x + 1 else x
/-- Take `n` equal samples of a metric. -/
def sample (s : State) (ctr metric v n : Nat) : State :=
  let h := tabGet ({} : Hist) s.hists (histKey ctr metric)
  let c := s.ctrCfg ctr
  let b := binOf v
  let (lo, hi) := match metric with
    | 0 => (c.ttftP50.toNat, c.ttftP99.toNat)
    | _ => (c.itlP99.toNat, c.itlP999.toNat)
  let miss (x : W32) (t : Nat) : W32 := if metric < 2 then (List.range n).foldl (fun x _ => missInc x (decide (t * 1000 < v))) x else x
  let h' : Hist := { bins := tabSet 0 h.bins b (tabGet 0 h.bins b + BitVec.ofNat 64 n), missLo := miss h.missLo lo, missHi := miss h.missHi hi }
  { s with hists := tabPut s.hists (histKey ctr metric) h' }

/-! ## Notices and output (R385, R475, R491, R496) -/

/-- Post a request notice: HANDLE, HOST_TAG, status and reason; the context keeps them. -/
def notice (s : State) (i : Nat) (status reason : Byte) (info1 : W32) (info2 : W64) : State :=
  let x := s.ctx i
  let s := s.setCtx i { x with status := status, reason := reason }
  post s x.q { handle := handleOf i x, status := status, reason := reason, kind := 1, phase := false, hostTag := x.hostTag, sqHead := 0,
               info1 := info1, info2 := info2 }

/-- The header of an output chunk (R475). -/
def chunkHeader (handle : W32) (flags first count : Nat) : List Byte :=
  leBytes 4 handle.toNat ++ leBytes 1 flags ++ leBytes 3 0 ++ leBytes 8 first ++ leBytes 4 count ++ leBytes 12 0
/-- A list cut or filled to a length. -/
def fitLen (n : Nat) (bs : List Byte) : List Byte := (bs ++ List.replicate (n - bs.length) 0).take n
/-- The bytes of a chunk: header, SALT in the first sealed one, and the tokens, sealed under the request's output secret or in clear. -/
def chunkBytes (x : Ctx) (handle : W32) (endCode : Nat) (toks : List W32) : List Byte :=
  let plain := toks.flatMap (fun t => leBytes 4 t.toNat)
  if x.sealedRq then
    let salt := if x.chunks = 0 then x.salt else []
    let hdr := chunkHeader handle (flagAt (x.chunks == 0) 0 + 2 * endCode) x.chunkNext.toNat toks.length ++ salt
    hdr ++ fitLen (plain.length + 16) (Config.chunkSeal x.salt x.secret (leBytes 4 0 ++ leBytes 8 x.chunkNext.toNat) hdr plain)
  else chunkHeader handle (2 * endCode) x.chunkNext.toNat toks.length ++ plain
/-- Write one chunk to the next 64 B aligned offset of the output region and post its notice (R491, R496). -/
def writeChunk (s : State) (i endCode : Nat) (toks : List W32) : State :=
  let x := s.ctx i
  let h := handleOf i x
  let bs := chunkBytes x h endCode toks
  let s := hostWrite s (x.outAddr + x.outOff.zeroExtend 64) bs
  let s := s.setCtx i { x with status := 0, chunks := x.chunks + 1, chunkNext := x.chunkNext + BitVec.ofNat 32 toks.length
                               outOff := x.outOff + BitVec.ofNat 32 ((bs.length + 63) / 64 * 64) }
  post s x.q { handle := h, status := 0, reason := 0, kind := 2, phase := false, hostTag := x.hostTag, sqHead := 0, info1 := x.outOff
               info2 := BitVec.ofNat 64 (bs.length + toks.length * 2 ^ 32) }
/-- Write the chunks of every commit not yet written; the last one carries END when `endCode` is not 0, a final chunk of no tokens where no
commit waits. -/
def writeChunks (i endCode : Nat) : List (List W32) → State → State
  | [], s => if endCode = 0 then s else writeChunk s i endCode []
  | [t], s => writeChunk s i endCode t
  | t :: r, s => writeChunks i endCode r (writeChunk s i 0 t)
/-- Write what a request has waiting. -/
def flushOutput (s : State) (i endCode : Nat) : State :=
  let x := s.ctx i
  writeChunks i endCode x.unsealed (s.setCtx i { x with unsealed := [] })

/-! ## Ends and pauses (R366, R367, R374, R376, R382, R384, R416) -/

/-- Keep the latest 1,024 times. -/
def addTime (now : W64) (ts : List W64) : List W64 := (now :: ts).take 1024
/-- Mean interval between the last 1,024 releases of a resource, or TTFT_P50 with fewer (R376). -/
def meanInterval (s : State) (sl ctr short : Nat) : Nat :=
  let ts := if short = 3 then (s.contract ctr).done_ else if short = 2 then (s.contract ctr).refills else (s.mslot sl).rels
  if ts.length < 1024 then (s.ctrCfg ctr).ttftP50.toNat * 1000 else ((ts.headD 0).toNat - (ts.getLastD 0).toNat) / 1023
/-- T_EST of a place in the defer queue (R376). -/
def estStart (s : State) (sl ctr short pos : Nat) : W64 := s.time + BitVec.ofNat 64 ((pos + 1) * meanInterval s sl ctr short)

/-- DEFER_POS and T_EST follow the queues (R378). -/
def updateQueue (s : State) (ctr : Nat) : State :=
  ((s.contract ctr).defers.zipIdx).foldl (fun s (i, pos) =>
    let x := s.ctx i
    if x.deferPos.toNat = pos then s
    else s.setCtx i { x with deferPos := BitVec.ofNat 32 pos, tEst := estStart s x.slotKey ctr x.short pos }) s
/-- A request leaves its contract's defer queue, which advances. -/
def leaveQueue (s : State) (i : Nat) : State :=
  let c := (s.ctx i).ctr
  let x := s.contract c
  if x.defers.contains i then updateQueue (s.setContract c { x with defers := x.defers.filter (· != i) }) c else s
/-- A request reaches a final state: it leaves its queue, writes its final chunk unless `endCode` is 0, drops its pages, counts in the
counter at offset `ctrOff`, and its notice is posted. -/
def endRequest (s : State) (i : Nat) (st : RqSt) (status reason : Byte) (endCode ctrOff : Nat) : State :=
  let s := leaveQueue s i
  let s := if endCode = 0 then s.setCtx i { s.ctx i with unsealed := [] } else flushOutput s i endCode
  let s := releasePages s i 0
  let x := s.ctx i
  let s := s.setCtx i { x with st := st, cause := 0 }
  let s := countCtr s x.ctr ctrOff 1
  let s := s.setContract x.ctr { s.contract x.ctr with done_ := addTime s.time (s.contract x.ctr).done_ }
  let m := s.mslot x.slotKey
  let s := s.setMslot x.slotKey { m with rels := addTime s.time m.rels, sealQ := m.sealQ.filter (· != i) }
  notice s i status reason 0 0
/-- End a request CANCELLED. -/
def cancelRequest (s : State) (i : Nat) (status : Byte) : State := endRequest s i .cancelled status 0 2 0x20
/-- End a request FAILED; AUTH_FAILED writes no final chunk (R475). -/
def failRequest (s : State) (i : Nat) (status : Byte) : State := endRequest s i .failed status 0 (if status = 0x0F then 0 else 3) 0x28
/-- End every live request with a property CANCELLED. -/
def cancelAll (s : State) (f : Ctx → Bool) (status : Byte) : State := (s.ctxsWhere (fun x => x.live && f x)).foldl (fun s i => cancelRequest s i status) s
/-- The state to return to: a request paused from SPEC resumes in DECODE (R367). -/
def resumeOf (st : RqSt) : RqSt := if st = .spec then .decode else st
/-- Pause a request with a cause; one already paused keeps its cause. -/
def pauseRequest (s : State) (i : Nat) (cause : Byte) : State :=
  let x := s.ctx i
  if x.st = .admitted ∨ x.st = .prefill ∨ x.st = .decode ∨ x.st = .spec then s.setCtx i { x with st := .paused, cause := cause, resume := resumeOf x.st }
  else s
/-- Suspend a live request: any non-final state goes to PAUSED with cause SUSPENDED; one already paused returns to its own pause (R366). -/
def suspendRequest (s : State) (i : Nat) : State :=
  let x := s.ctx i
  if !x.live || (x.st == .paused && x.cause == 4) then s
  else if x.st = .paused then s.setCtx i { x with cause := 4, resume := .paused, prior := some (x.cause, x.resume) }
  else s.setCtx i { x with st := .paused, cause := 4, resume := resumeOf x.st }
/-- Remove a pause cause: the request returns to RESUME, or to the pause that a suspension stood over. -/
def resumeRequest (s : State) (i : Nat) (cause : Byte) : State :=
  let x := s.ctx i
  if x.st = .paused ∧ x.cause = cause ∧ cause ≠ 1 then
    match x.prior with
    | some (c, r) => s.setCtx i { x with cause := c, resume := r, prior := none }
    | none => s.setCtx i { x with st := x.resume, cause := 0 }
  else s
/-- A request whose own pages are gone re-enters PREFILL over its prompt and its emitted tokens, after its shared pages (R382, R445). -/
def restartPrefill (s : State) (i : Nat) : State :=
  let keep := s.sharedOf (s.ctx i)
  let s := releasePages s i keep
  let x := s.ctx i
  s.setCtx i { x with pos := BitVec.ofNat 32 (keep * (s.slotCfg x.slotKey).tpp.toNat), pending := 0
                      resume := if x.resume = .admitted then .admitted else .prefill }
/-- Preempt a request at a step end (R381, R382). -/
def preempt (s : State) (i : Nat) : State :=
  let s := restartPrefill (pauseRequest s i 2) i
  notice (countCtr s (s.ctx i).ctr 0x18 1) i 0x06 0 0 0

/-- Whether a partition is suspended (R463). -/
def State.suspended (s : State) (p : Nat) : Bool := (tabGet ({} : Part) s.parts p).suspended
/-- Suspend the live requests of a slot (R374). -/
def suspendSlot (s : State) (sl : Nat) : State := (s.ctxsWhere (fun x => x.live && x.slotKey == sl)).foldl suspendRequest s
/-- Resume the requests of a slot that were suspended. -/
def resumeSlot (s : State) (sl : Nat) : State := (s.ctxsWhere (fun x => x.live && x.slotKey == sl)).foldl (fun s i => resumeRequest s i 4) s

/-! ## The context as a host reads it (R364, R409, R476) -/

/-- Bytes of a context, with the 64 B that are the scheduler's. With `mask`, a sealed request shows zero in PROMPT_LEN, MAX_NEW, KV and SAMPLE. -/
def ctxImage (s : State) (i : Nat) (mask : Bool) (sched : List Byte) : List Byte :=
  let x := s.ctx i
  let sl := x.sealedRq && mask
  leBytes 4 (handleOf i x).toNat ++ leBytes 1 x.st.code ++ [x.status, x.reason, if x.st = .paused then x.cause else 0, x.contract, x.slot]
    ++ leBytes 2 (x.q.q.toNat + flagAt (x.q.fn.port == 1) 15) ++ leBytes 1 x.resume.code
    ++ leBytes 1 (flagAt x.sealedRq 0 + flagAt x.specOk 1 + flagAt x.cancelRx 2 + flagAt x.replayed 3) ++ leBytes 2 0
    ++ leBytes 4 (if sl then 0 else x.promptLen.toNat) ++ leBytes 4 (if sl then 0 else x.maxNew.toNat) ++ leBytes 4 x.emitted.toNat
    ++ leBytes 4 x.deferPos.toNat ++ leBytes 8 x.tArrive.toNat ++ leBytes 8 x.tDispatch.toNat ++ leBytes 8 x.tFirst.toNat
    ++ leBytes 8 x.tLast.toNat ++ leBytes 8 (deadline s x).toNat ++ leBytes 8 x.tEst.toNat ++ leBytes 8 x.hostTag.toNat
    ++ leBytes 4 0 ++ leBytes 4 (if sl then 0 else x.pages.length) ++ leBytes 4 (if sl then 0 else x.pos.toNat)
    ++ leBytes 4 (if sl then 0 else x.pending.toNat)
    ++ [x.keyId, if x.sealedRq then 1 else 0] ++ leBytes 2 0 ++ leBytes 4 x.chunkNext.toNat ++ leBytes 8 0 ++ leBytes 4 x.chunks.toNat ++ leBytes 4 0
    ++ (if sl then leBytes 64 0 else fitLen 64 x.sample) ++ sched
/-- A context as a host reads it: the scheduler's fields are zero. -/
def ctxBytes (s : State) (i : Nat) : List Byte := ctxImage s i true (leBytes 64 0)
/-- The Plinth writes a context back to the reserved range: what the scheduler keeps in its 64 B is open, so free values (R333, R362, R364). -/
def writeBackCtx (s : State) (i : Nat) : State :=
  let (d, s) := s.freeVal 512
  plinthWrite s (ctxAddr s i) (ctxImage s i false (leBytes 64 d.toNat))
/-- The Plinth writes the contexts of a partition's live requests back, before a drain of the partition completes (R362). -/
def writeBackPart (s : State) (p : Nat) : State := (s.ctxsWhere (fun x => x.live && x.part.toNat == p)).foldl writeBackCtx s

end Sys2Proof.Machine
end

