-- ==== Sys2Proof/Machine/Bind.lean ====
section
/-! DEFINITION. How a model slot is bound to a placement: readiness (R372, R393, R394, R466, R493) and the alternatives after a loss of
capacity (R445). -/

namespace Sys2Proof.Machine

/-! ## Slots becoming READY (R372, R445, R466, R493) -/

/-- Whether `n` bytes at a 64 KiB aligned address lie in a partition's non-reserved HBM (R393). -/
def areaOk (s : State) (p : Nat) (a : W64) (n : Nat) : Bool := decide (a.toNat % 65536 = 0) && inPartHbm s p a n
/-- Whether a slot has a valid pool and a valid step area (R393). -/
def slotAreas (s : State) (sl : Nat) : Bool :=
  let c := s.slotCfg sl
  areaOk s (sl / 16) c.poolBase (c.poolPages.toNat * 65536) && areaOk s (sl / 16) c.stepBase c.stepSize.toNat
/-- The program and load images of a placement in core_id order; `none` when bytes of them cannot be read (R466). -/
def programBytes (s : State) (key : Nat) : Option (List Byte) :=
  (sortBy (fun (a b : CoreEntry) => decide (a.core.toNat ≤ b.core.toNat)) (s.place key).cores).foldl (fun r e =>
    match r with
    | none => none
    | some bs =>
      let n := e.istoreLen.toNat + e.preloadLen.toNat
      if n = 0 then some bs else (match plinthRead s e.image n with | (x, true, _) => some (bs ++ x) | _ => none)) (some [])
/-- Bind a loaded slot to a placement that exists and serves no other slot: PROGRAMS is recorded, the slot is READY, and its suspended
requests resume (R372, R374, R394, R466). -/
def bindSlot (s : State) (sl key : Nat) : State :=
  let m := s.mslot sl
  let free := s.slots.all (fun e => e.1 == sl || e.2.place != some key)
  if m.ready || m.weights.isNone || (s.place? key).isNone || (s.place key).failed || !free || !slotAreas s sl then s
  else
    match programBytes s key with
    | none => s
    | some bs =>
      let s := s.setMslot sl { m with ready := true, place := some key, programs := some (Config.sha384 bs), lostAt := none }
      if s.suspended (sl / 16) then s else resumeSlot s sl
/-- Whether `n` bytes at an address lie in HBM that answers (R445). -/
def intact (s : State) (a : W64) (n : Nat) : Bool :=
  match s.classify a with
  | .hbm die o => !s.rangeFenced die o n
  | _ => false
/-- Whether a slot's weights and KV pool lie wholly in intact HBM. -/
def slotIntact (s : State) (sl : Nat) : Bool :=
  let c := s.slotCfg sl
  intact s c.weightBase c.weightLen.toNat && intact s c.poolBase (c.poolPages.toNat * 65536)
/-- Whether an alternative placement can take a slot: it exists, runs nothing, and all its cores are IN_SERVICE (R445). -/
def altOk (s : State) (sl key : Nat) : Bool :=
  let p := s.place key
  (s.place? key).isSome && p.running.isNone && p.waiting.isEmpty && !p.failed && !p.draining && !p.drained && !p.loading
    && p.cores.all (fun e => s.effective (unitCore e.core) == 0 && s.effective (unitId 1 e.core.toNat) == 0 && !s.coreFenced e.core)
    && s.slots.all (fun e => e.1 == sl || e.2.place != some key) && slotIntact s sl
/-- Move a slot that has lost its placement to the first of its alternatives that can take it: the load images are applied, the slot is
bound and its requests resume; one with a page in HBM that is lost prefills again (R445). -/
def altSlot (s : State) (sl : Nat) : State :=
  let m := s.mslot sl
  if m.lostAt.isNone || m.ready then s
  else
    match ((s.slotCfg sl).alts.map (fun a => placeKey (sl / 16) a.toNat)).find? (altOk s sl) with
    | none => s
    | some key =>
      match loadCores s key with
      | none => s
      | some s =>
        let base := (s.slotCfg sl).poolBase
        bindSlot ((s.ctxsWhere (fun x => x.live && x.slotKey == sl
          && x.pages.any (fun p => !intact s (base + BitVec.ofNat 64 (p * 65536)) 65536))).foldl restartPrefill s) sl key
/-- Try the placement that a slot's block names. -/
def readySlot (s : State) (sl : Nat) : State := bindSlot s sl (placeKey (sl / 16) (s.slotCfg sl).placement.toNat)
/-- Try every slot of a partition, and the alternatives of those that have lost their placement. -/
def readySlots (s : State) (p : Nat) : State := (List.range 16).foldl (fun s n => altSlot (readySlot s (slotKey p n)) (slotKey p n)) s

end Sys2Proof.Machine
end

