-- ==== Sys2Proof/Machine/Admit.lean ====
section
/-! DEFINITION. Admission (R375 to R378), sealed envelopes (R470 to R474), and the host's commands on requests (R384, R490, R491): SUBMIT,
CANCEL, HOLD, RELEASE, READ_CTX; with deferral expiry, bucket refill and the return of a context to FREE. -/

namespace Sys2Proof.Machine

/-! ## Sealed envelopes (R467 to R474) -/

/-- What a submission asks for, from the entry or from the opened envelope (R471, R491). -/
structure Ask where
  promptLen : W32
  maxNew    : W32
  specOk    : Bool
  publish   : Bool
  prefixKey : W64
  sample    : List Byte
  tokens    : List W32
  keyId     : Byte := 0
  secret    : List Byte := []
deriving DecidableEq, Repr

/-- Bytes `[o, o + n)` of a list as a number. -/
def field (bs : List Byte) (o n : Nat) : Nat := leNat ((bs.drop o).take n)
/-- `n` tokens of 4 B from offset `o`. -/
def tokensAt (bs : List Byte) (o n : Nat) : List W32 := (List.range n).map (fun j => BitVec.ofNat 32 (field bs (o + 4 * j) 4))
/-- The info string of R467. -/
def hpkeInfo (p : Nat) (keyId : Byte) : List Byte :=
  ([0x70, 0x6F, 0x72, 0x6C, 0x61, 0x6D, 0x6F, 0x73, 0x2D, 0x6C, 0x79, 0x73, 0x79, 0x74, 0x68, 0x2D, 0x73, 0x65, 0x61, 0x6C, 0x2D, 0x76, 0x31] : List Byte)
    ++ leBytes 1 p ++ [keyId]
/-- Whether an envelope's header is right (R470). -/
def envelopeOk (bs : List Byte) : Bool :=
  decide (1136 ≤ bs.length) && field bs 0 4 == 0x4C414553 && field bs 4 2 == 1 && field bs 7 1 == 1 && field bs 12 4 == 0
    && decide (field bs 8 4 ≤ 0x1000000) && decide (16 ≤ field bs 8 4) && decide (1136 + field bs 8 4 ≤ bs.length)
/-- The live key that KEY_ID names (R468, R469). -/
def liveKey (x : Part) (keyId : Byte) : Option Nat :=
  if keyId = x.curId then some x.curKey else if keyId = x.prevId ∧ keyId ≠ 0 then some x.prevKey else none
/-- The plaintext of an envelope as a request, when its length, reserved fields, padding and PIN are right (R471, R472). -/
def plainAsk (pt secret : List Byte) (keyId : Byte) (weights : Option (List Byte)) : Option Ask :=
  let n := field pt 0 4
  let pin := (pt.drop 32).take 48
  if pt.length < 192 + 4 * n ∨ field pt 8 4 > 3 ∨ field pt 12 4 ≠ 0 ∨ field pt 24 8 ≠ 0 ∨ field pt 80 48 ≠ 0 ∨ leNat (pt.drop (192 + 4 * n)) ≠ 0 then none
  else if leNat pin ≠ 0 ∧ weights ≠ some pin then none
  else some { promptLen := BitVec.ofNat 32 n, maxNew := BitVec.ofNat 32 (field pt 4 4), specOk := field pt 8 4 % 2 == 1
              publish := field pt 8 4 / 2 % 2 == 1, prefixKey := BitVec.ofNat 64 (field pt 16 8), sample := (pt.drop 128).take 64
              tokens := tokensAt pt 192 n, keyId := keyId, secret := secret }
/-- Count an envelope that is refused (R472, R473). -/
def sealFail (s : State) (p : Nat) (replay : Bool) : State :=
  let x := tabGet ({} : Part) s.parts p
  { s with parts := tabPut s.parts p (if replay then { x with replay := x.replay + 1 } else { x with sealFail := x.sealFail + 1 }) }
/-- Open an envelope (R472): its ENC must not match one of the last 1,048,576 envelopes opened. -/
def openEnvelope (s : State) (p : Nat) (weights : Option (List Byte)) (bs : List Byte) : Option Ask × State :=
  let x := tabGet ({} : Part) s.parts p
  if !envelopeOk bs then (none, sealFail s p false)
  else
    let keyId : Byte := BitVec.ofNat 8 (field bs 6 1)
    match liveKey x keyId with
    | none => (none, sealFail s p false)
    | some k =>
      let enc := (bs.drop 16).take 1120
      let h := Config.sha256 enc
      if x.seen.contains h then (none, sealFail s p true)
      else
        match Config.hpkeOpen k (hpkeInfo p keyId) (bs.take 16) enc ((bs.drop 1136).take (field bs 8 4)) with
        | none => (none, sealFail s p false)
        | some (pt, e) =>
          let s := { s with parts := tabPut s.parts p { x with seen := (h :: x.seen).take 1048576 } }
          match plainAsk pt e keyId weights with
          | none => (none, sealFail s p false)
          | some a => (some a, s)

/-! ## The decision (R373, R375, R376) -/

/-- A slot admits requests when it is READY (R372). -/
def State.slotReady (s : State) (sl : Nat) : Bool := (s.mslot sl).ready
/-- Pages that admission needs (R373). -/
def needPages (s : State) (sl : Nat) (promptLen : W32) : Nat := pagesFor (s.slotCfg sl).tpp.toNat (promptLen.toNat + 1)
/-- Pages that the SCAVENGE requests of a slot hold. -/
def scavengePages (s : State) (sl : Nat) : Nat := s.pagesHeld sl (fun x => (s.ctrCfg x.ctr).cls == 2)
/-- preempt_covers (R381). -/
def preemptCovers (s : State) (sl ctr need : Nat) : Bool := decide (need ≤ scavengePages s sl + s.supply sl ctr)
/-- The resource a request is short of: 0 none, else the refusal reason of R386. -/
def shortage (s : State) (sl ctr need : Nat) : Nat :=
  let c := s.ctrCfg ctr
  if c.conc.toNat ≤ s.active ctr then 3
  else if c.rate ≠ 0 ∧ s.bucket ctr ≤ -((c.burst.toNat : Nat) : Int) then 2
  else if s.supply sl ctr < need then 4
  else 0
/-- A FREE context whose INDEX admission may give, from a starting number on (R362, R446). -/
def freeCtx (s : State) (start : Nat) : Option Nat :=
  ((List.range 8).map (fun j => (start / 262144 + j) % 8)).findSome? (fun d =>
    if tabGet false s.err.deadIdx d then none
    else (firstUnused (fun i => (s.ctx (262144 * d + i)).st != .free) 262144 (min 262144 (s.ctxs.length + 1)) (start % 262144)).map (fun i => 262144 * d + i))

/-- The prefix entry that a request hits (R412). -/
def prefixHit (s : State) (sl : Nat) (contract : Byte) (a : Ask) : Option PrefixEnt :=
  if a.prefixKey = 0 then none
  else (s.mslot sl).prefixes.find? (fun e => e.key == a.prefixKey && e.contract == contract && decide (e.count ≤ a.promptLen.toNat)
    && e.hash == Config.sha256 ((a.tokens.take e.count).flatMap (fun t => leBytes 4 t.toNat)))
/-- Give a request the pages of the prefix entry it hits, and its starting position (R412). -/
def takePrefix (s : State) (i : Nat) (a : Ask) : State :=
  let x := s.ctx i
  let sl := x.slotKey
  match prefixHit s sl x.contract a with
  | none => s
  | some e =>
    let tpp := (s.slotCfg sl).tpp.toNat
    let n := if e.count = a.promptLen.toNat then e.count / tpp - 1 else e.count / tpp
    let s := (e.pages.take n).foldl (fun s p => holdPage s sl p) s
    let m := s.mslot sl
    let s := s.setMslot sl { m with hits := m.hits + 1, prefixes := m.prefixes.map (fun y => if y = e then { y with hit := m.hits + 1 } else y) }
    s.setCtx i { x with pages := e.pages.take n, pos := BitVec.ofNat 32 (n * tpp) }
/-- Admit the request of a context: it receives its shared pages and draws the rest of need (R410, R412). -/
def admitCtx (s : State) (i : Nat) : State :=
  let x := s.ctx i
  let a : Ask := { promptLen := x.promptLen, maxNew := x.maxNew, specOk := x.specOk, publish := x.publish, prefixKey := x.prefixKey
                   sample := x.sample, tokens := x.tokens }
  let s := takePrefix (s.setCtx i { x with st := .admitted, cause := 0, deferPos := 0 }) i a
  let s := drawPages (needPages s x.slotKey x.promptLen - (s.ctx i).pages.length) s i
  countCtr s x.ctr 0x00 1
/-- Defer the request of a context, at the head or at the tail of its contract's queue (R376, R381). T_EST at the head is the end of the
current step: a free value, not before now. DEDUCED: log 71. -/
def deferCtx (s : State) (i short : Nat) (head : Bool) : State :=
  let x := s.ctx i
  let c := s.contract x.ctr
  let (est, s) := if head then (let (f, s) := s.freeVal 64; (if f.toNat < s.time.toNat then s.time else f, s))
    else (estStart s x.slotKey x.ctr short c.defers.length, s)
  let pos := if head then 0 else c.defers.length
  let s := s.setContract x.ctr { c with defers := if head then i :: c.defers else c.defers ++ [i] }
  let s := countCtr s x.ctr 0x08 1
  let s := s.setCtx i { x with st := .paused, cause := 1, resume := .admitted, deferPos := BitVec.ofNat 32 pos, tEst := est, short := short }
  notice (updateQueue s x.ctr) i 0x02 0 (BitVec.ofNat 32 pos) est
/-- Refuse a submission: no context is taken (R385, R387). -/
def refuse (s : State) (h : HostCmd) (ctr : Nat) (reason : Byte) : State :=
  post (countCtr s ctr 0x10 1) h.q { handle := 0, status := 0x03, reason := reason, kind := 1, phase := false, hostTag := h.e.hostTag, sqHead := 0,
                                     info1 := 0, info2 := 0 }
/-- The context of a submission before its outcome is known. -/
def newCtx (s : State) (h : HostCmd) (p i : Nat) (a : Ask) (salt : List Byte) : Ctx :=
  let isSealed := h.e.flags.getLsbD 0
  { gen := (s.ctx i).gen, contract := h.e.contract, slot := h.e.slot, part := BitVec.ofNat 3 p, q := h.q, sealedRq := isSealed
    specOk := a.specOk, publish := a.publish, prefixKey := a.prefixKey, promptLen := a.promptLen
    maxNew := if isSealed then (if a.maxNew.toNat ≤ h.e.outLen.toNat / 64 - 2 then a.maxNew else BitVec.ofNat 32 (h.e.outLen.toNat / 64 - 2)) else a.maxNew
    tArrive := s.time, hostTag := h.e.hostTag, tokens := a.tokens, sample := a.sample, outAddr := h.e.outAddr, outLen := h.e.outLen
    keyId := a.keyId, secret := a.secret, salt := salt }
/-- The decision of R375 on an opened submission. -/
def decide375 (s : State) (h : HostCmd) (p : Nat) (a : Option Ask) : State :=
  let ctr := ctrKey p h.e.contract.toNat
  let sl := slotKey p (h.e.slot.toNat % 16)
  let cfg := s.ctrCfg ctr
  if s.suspended p then refuse s h ctr 8
  else
    match a with
    | none => refuse s h ctr 9
    | some a =>
      if 16 ≤ h.e.slot.toNat ∨ !cfg.slots.getLsbD h.e.slot.toNat ∨ !s.slotReady sl then refuse s h ctr 5
      else
        let (f, s) := s.freeVal 21
        match freeCtx s f.toNat with
        | none => refuse s h ctr 1
        | some i =>
          let (salt, s) := if h.e.flags.getLsbD 0 then (let (v, s) := s.freeVal 256; (leBytes 32 v.toNat, s)) else (([] : List Byte), s)
          let need := needPages s sl a.promptLen
          let short := shortage s sl ctr need
          let c := s.contract ctr
          let taken := s.setCtx i (newCtx s h p i a salt)
          if short = 0 then admitCtx taken i
          else if short = 4 ∧ s.inRate ctr ∧ preemptCovers s sl ctr need then deferCtx taken i short true
          else if cfg.deferDepth = 0 then refuse s h ctr (BitVec.ofNat 8 short)
          else if cfg.deferDepth.toNat ≤ c.defers.length then refuse s h ctr 6
          else if s.time.toNat + cfg.maxDefer.toNat * 1000 < (estStart s sl ctr short c.defers.length).toNat then refuse s h ctr 7
          else deferCtx taken i short false

/-! ## SUBMIT (R490, R491) -/

/-- Checks of R491 on an entry whose data have arrived. -/
def submitOk (s : State) (h : HostCmd) (p : Nat) : Bool :=
  let e := h.e
  decide (e.outAddr.toNat % 64 = 0) &&
    (if e.flags.getLsbD 0 then decide (192 ≤ e.outLen.toNat)
     else (tabGet {} s.set.parts p).plain && decide (64 * (e.maxNew.toNat + 2) ≤ e.outLen.toNat) && decide (64 + 4 * e.promptLen.toNat ≤ e.len1.toNat))
/-- The effect of SUBMIT. -/
def submitAct (self : Instr) (h : HostCmd) (s : State) : State :=
  match partNo h.q.fn with
  | none => finish s h 0x0D
  | some p =>
    if h.e.flags.getLsbD 0 && s.sec.entropyBad.isSome then holdDraw s self
    else if !submitOk s h p then finish s h 0x0D
    else
      let bs := h.data.getD []
      if h.e.flags.getLsbD 0 then
        let (a, s) := openEnvelope s p (s.mslot (slotKey p (h.e.slot.toNat % 16))).weights bs
        settleSnow (decide375 s h p a)
      else
        settleSnow (decide375 s h p (some { promptLen := h.e.promptLen, maxNew := h.e.maxNew, specOk := h.e.flags.getLsbD 1
                                            publish := h.e.flags.getLsbD 2, prefixKey := h.e.prefixKey, sample := bs.take 64
                                            tokens := tokensAt bs 64 h.e.promptLen.toNat }))
/-- SUBMIT: MAX_NEW, PROMPT_LEN and PREFIX_KEY belong to an unsealed entry only (R490, R491). -/
def execSubmit (h : HostCmd) (s : State) : Res :=
  hostEntry (.submit h) h { flags := 7, sched := true, slot := true, contract := true, addr1 := true, len1 := true, out := true, lens := !h.e.flags.getLsbD 0,
                             crypto := h.e.flags.getLsbD 0 }
    (submitAct (.submit h) h) s

/-! ## Commands on a handle (R363, R384, R490) -/

/-- The context that an entry's HANDLE names: of the function's partition, with its GEN, not FREE (R363). -/
def entryCtx (s : State) (h : HostCmd) : Option Nat :=
  let i := bits h.e.handle 20 0
  let x := s.ctx i
  match partNo h.q.fn with
  | none => none
  | some p => if x.st ≠ .free ∧ x.gen.toNat = bits h.e.handle 31 21 ∧ x.part.toNat = p then some i else none
/-- The effect of CANCEL (R384). -/
def cancelAct (h : HostCmd) (s : State) : State :=
  match entryCtx s h with
  | none => finish s h 0x0D
  | some i =>
    let x := s.ctx i
    if x.st.final then finish s h 0x0D
    else
      let s := finish s h 0
      if x.st = .paused ∨ x.st = .draining then settleSnow (cancelRequest s i 0x04)
      else if x.inStep then s.setCtx i { s.ctx i with cancelRx := true }
      else settleSnow (cancelRequest s i 0x05)
/-- CANCEL (R384). -/
def execCancel (h : HostCmd) (s : State) : Res := hostEntry (.cancel h) h { handle := true, sched := true } (cancelAct h) s
/-- The effect of HOLD. -/
def holdAct (h : HostCmd) (s : State) : State :=
  match entryCtx s h with
    | none => finish s h 0x0D
    | some i => pauseRequest (finish s h 0) i 3
/-- HOLD (R490): adds the pause cause HELD. -/
def execHold (h : HostCmd) (s : State) : Res := hostEntry (.hold h) h { handle := true, sched := true } (holdAct h) s
/-- The effect of RELEASE. -/
def releaseAct (h : HostCmd) (s : State) : State :=
  match entryCtx s h with
    | none => finish s h 0x0D
    | some i =>
      let s := finish s h 0
      let x := s.ctx i
      match x.prior with
      | some (c, r) => if c = 3 then s.setCtx i { x with resume := r, prior := none } else s
      | none => resumeRequest s i 3
/-- RELEASE (R490): removes the pause cause HELD. -/
def execRelease (h : HostCmd) (s : State) : Res := hostEntry (.release h) h { handle := true, sched := true } (releaseAct h) s
/-- The effect of READ_CTX. -/
def readCtxAct (h : HostCmd) (s : State) : State :=
  match entryCtx s h with
  | none => finish s h 0x0D
  | some i => if h.e.len1.toNat < 256 then finish s h 0x0D else finish (hostWrite s h.e.addr1 (ctxBytes s i)) h 0
/-- READ_CTX (R364, R490). -/
def execReadCtx (h : HostCmd) (s : State) : Res :=
  hostEntry (.readCtx h) h { handle := true, addr1 := true, len1 := true } (readCtxAct h) s

/-! ## Admission passes (R378) -/

/-- Whether the head of a defer queue can be admitted now. -/
def headFits (s : State) (i : Nat) : Bool :=
  let x := s.ctx i
  !s.suspended x.part.toNat && (s.ctrCfg x.ctr).slots.getLsbD x.slot.toNat && s.slotReady x.slotKey && x.cause == 1
    && shortage s x.slotKey x.ctr (needPages s x.slotKey x.promptLen) == 0
/-- Heads of the defer queues of a partition. -/
def deferHeads (s : State) (p : Nat) : List Nat :=
  s.contracts.filterMap (fun e => if e.1 / 256 = p then e.2.defers.head? else none)
/-- Admit heads one at a time in the order of R379; gives the requests admitted. -/
def passLoop (p : Nat) : Nat → State → State
  | 0, s => s
  | fuel + 1, s =>
    match ranked s ((deferHeads s p).filter (headFits s)) with
    | [] => s
    | i :: _ =>
      let s := admitCtx (leaveQueue s i) i
      passLoop p fuel (notice s i 0x00 0 0 0)
/-- The contract changes written since the last admission pass take effect (R371). DEDUCED: log 139. -/
def applyContracts (s : State) (p : Nat) : State :=
  { s with ctrEff := (s.set.contracts.filter (fun e => e.1 / 256 = p)).foldl (fun t e => tabPut t e.1 e.2) s.ctrEff }
/-- An admission pass over the defer queues of a partition (R371, R378); fenced admission hardware runs none (R425). -/
def admissionPass (s : State) (p : Nat) : State :=
  if s.fenced (unitPlinth 1) then s
  else passLoop p (((s.contracts.filter (fun e => e.1 / 256 = p)).map (fun e => e.2.defers.length)).sum + 1) (applyContracts s p)

/-! ## Time and context events (R366, R370) -/

/-- DEFER_EXPIRY: package time has passed T_ARRIVE + MAX_DEFER (R366). -/
def execDeferExpiry (ctx : BitVec 21) (now : W64) (s : State) : Res :=
  let s := s.atTime now
  let i := ctx.toNat
  let x := s.ctx i
  if x.st = .paused ∧ x.cause = 1 ∧ x.tArrive.toNat + (s.ctrCfg x.ctr).maxDefer.toNat * 1000 < s.time.toNat then
    .next (settleSnow (endRequest s i .failed 0x03 0x07 3 0x10))
  else .next s

/-- BUCKET_REFILL (R370): B rises by one and never above BURST. -/
def execBucketRefill (part : BitVec 3) (contract : Byte) (s : State) : Res :=
  let ctr := ctrKey part.toNat contract.toNat
  let cfg := s.ctrCfg ctr
  if cfg.rate = 0 then .next s
  else
    let c := s.contract ctr
    let b := s.bucket ctr
    if ((cfg.burst.toNat : Nat) : Int) ≤ b then .next s
    else .next (s.setContract ctr { c with bucket := b + 1, started := true, refills := addTime s.time c.refills })

/-- Whether the final notice of a context still waits for its ring. -/
def noticeHeld (s : State) (i : Nat) : Bool :=
  let x := s.ctx i
  match s.qp? x.q with
  | none => false
  | some q => q.held.any (fun c => c.kind == 1 && c.handle == handleOf i x)

/-- CONTEXT_FREE: the final notice has been written; the context is written back, GEN increments and the context is FREE; an admission pass runs (R363, R366, R378). -/
def execContextFree (ctx : BitVec 21) (now : W64) (s : State) : Res :=
  let s := s.atTime now
  let i := ctx.toNat
  let x := s.ctx i
  if !x.st.final ∨ noticeHeld s i then .next s
  else .next (settleSnow (admissionPass ((writeBackCtx s i).setCtx i { gen := x.gen + 1 }) x.part.toNat))

end Sys2Proof.Machine
end

