-- ==== Sys2Proof/Machine/Serve.lean ====
section
/-! DEFINITION. Serving steps: batch formation (R397 to R399), the step area (R400 to R403), commit and replay (R404 to R407, R412 to R415),
preemption (R381), the step's events (R395, R396), token sealing (R415, R416, R475), and the drain and restore of a placement that serves. -/

namespace Sys2Proof.Machine

/-! ## Formation (R397 to R399) -/

/-- Entries formed so far, tokens left and bytes of the step area in use. -/
structure Batch where
  ents : List StepEnt := []
  left : Nat
  used : Nat := 0
deriving DecidableEq, Repr

/-- Round up to 64 B. -/
def up64 (n : Nat) : Nat := (n + 63) / 64 * 64
/-- Bytes that an entry needs in the area: its entry, its output record, its sample copy, its tokens and its page list. -/
def entryBytes (nIn pages kind : Nat) : Nat := 192 + (if kind < 2 then up64 (4 * nIn) else 0) + up64 (4 * pages)
/-- Whether a request is passed over because more than 65,536 notices are held for its ring (R488). -/
def tooManyHeld (s : State) (x : Ctx) : Bool := match s.qp? x.q with | some q => decide (65536 < q.held.length) | none => false
/-- A request that was preempted or waits for KV comes back when its supply covers what it needs (R382, R366). -/
def comeBack (s : State) (i : Nat) : State :=
  let x := s.ctx i
  let tpp := (s.slotCfg x.slotKey).tpp.toNat
  if x.st ≠ .paused then s
  else if x.cause = 2 then
    let need := pagesFor tpp (x.promptLen.toNat + x.emitted.toNat + 1)
    if need ≤ s.supply x.slotKey x.ctr then resumeRequest (drawPages (need - x.pages.length) s i) i 2 else s
  else if x.cause = 5 then
    if pagesFor tpp (x.pos.toNat + 1) - x.pages.length ≤ s.supply x.slotKey x.ctr then resumeRequest s i 5 else s
  else s
/-- The largest N_IN from `n` down to 1 whose missing pages the supply covers (R398). -/
def fitSupply (s : State) (i : Nat) : Nat → Nat
  | 0 => 0
  | n + 1 =>
    let x := s.ctx i
    if pagesFor (s.slotCfg x.slotKey).tpp.toNat (x.pos.toNat + (n + 1)) - x.pages.length ≤ s.supply x.slotKey x.ctr then n + 1 else fitSupply s i n
/-- N_IN and draft depth that a request would take with `left` tokens left (R397): N_IN 0 passes it over. -/
def wantIn (s : State) (i left : Nat) : Nat × Nat :=
  let x := s.ctx i
  let cfg := s.slotCfg x.slotKey
  if x.st = .decode then
    let d := if x.specOk then min cfg.specDepth.toNat (min (x.maxNew.toNat - x.emitted.toNat - 1) (left - 1)) else 0
    (if left = 0 then 0 else d + 1, d)
  else (min (x.promptLen.toNat + x.emitted.toNat - x.pos.toNat) (min cfg.prefillChunk.toNat left), 0)
/-- Write one entry for a request: its pages are drawn, ADMITTED goes to PREFILL, a DECODE request with KIND 3 to SPEC, the first dispatch is
stamped (R384, R398, R399). -/
def addEntry (b : Batch) (s : State) (i n : Nat) : Batch × State :=
  let x := s.ctx i
  let cfg := s.slotCfg x.slotKey
  let kind := if x.st = .decode then (if n = 1 then 2 else 3) else if n = x.promptLen.toNat + x.emitted.toNat - x.pos.toNat then 1 else 0
  let need := pagesFor cfg.tpp.toNat (x.pos.toNat + n)
  if cfg.stepSize.toNat < 64 + b.used + entryBytes n (max need x.pages.length) kind then (b, s)
  else
    let s := drawPages (need - x.pages.length) s i
    let (seed, s) := s.freeVal 64
    let x := s.ctx i
    let first := x.tDispatch == 0
    let s := s.setCtx i { x with inStep := true, st := if x.st = .admitted then .prefill else if kind = 3 then .spec else x.st
                                 tDispatch := if first then s.time else x.tDispatch }
    let s := if first then sample s x.ctr 2 (s.since x.tArrive) 1 else s
    ({ ents := b.ents ++ [{ ctx := i, handle := handleOf i x, kind := kind, depth := if kind = 3 then n - 1 else 0, pos := x.pos.toNat, nIn := n, seed := seed }]
       left := b.left - n, used := b.used + entryBytes n (s.ctx i).pages.length kind }, s)
/-- One candidate of a batch (R397, R398). -/
def tryEntry (sl : Nat) (bs : Batch × State) (i : Nat) : Batch × State :=
  let (b, s) := bs
  if (s.slotCfg sl).maxBatch.toNat ≤ b.ents.length || b.left == 0 || tooManyHeld s (s.ctx i) then (b, s)
  else
    let s := comeBack s i
    let x := s.ctx i
    if x.st ≠ .admitted ∧ x.st ≠ .prefill ∧ x.st ≠ .decode then (b, s)
    else
      let (n, _) := wantIn s i b.left
      if n = 0 then (b, s)
      else
        let m := fitSupply s i n
        if m = 0 then (b, pauseRequest s i 5) else addEntry b s i m
/-- Candidates of a slot: its requests in ADMITTED, PREFILL and DECODE, and those that may come back from PREEMPTED or KV_WAIT. -/
def candidatesOf (s : State) (sl : Nat) : List Nat :=
  s.ctxsWhere (fun x => x.slotKey == sl && !x.inStep && (x.st == .admitted || x.st == .prefill || x.st == .decode
    || (x.st == .paused && (x.cause == 2 || x.cause == 5))))

/-! ## The step area (R400, R401, R403, R407) -/

/-- Bytes behind the output records that an entry points to: the sample copy, the input tokens of a prefill, the page list. -/
def entryParts (s : State) (e : StepEnt) : List Byte :=
  let x := s.ctx e.ctx
  let toks := if e.kind < 2 then (((x.tokens ++ x.history).drop e.pos).take e.nIn).flatMap (fun t => leBytes 4 t.toNat) else []
  let pages := x.pages.flatMap (fun p => leBytes 4 p)
  fitLen 64 x.sample ++ fitLen (if e.kind < 2 then up64 (4 * e.nIn) else 0) toks ++ fitLen (up64 pages.length) pages
/-- The 64 B of an entry whose parts begin at offset `o` (R401). -/
def entryImage (s : State) (base : W64) (o : Nat) (e : StepEnt) : List Byte :=
  let x := s.ctx e.ctx
  let at_ (n : Nat) : List Byte := leBytes 8 (base + BitVec.ofNat 64 (o + n)).toNat
  leBytes 4 e.handle.toNat ++ leBytes 1 e.kind ++ leBytes 1 e.depth ++ leBytes 2 0 ++ leBytes 4 e.pos ++ leBytes 4 e.nIn
    ++ leBytes 4 (if e.kind < 2 then 0 else x.pending.toNat) ++ leBytes 4 x.pages.length ++ leBytes 4 (s.sharedOf x) ++ leBytes 4 0
    ++ (if e.kind < 2 then at_ 64 else leBytes 8 0) ++ at_ (64 + if e.kind < 2 then up64 (4 * e.nIn) else 0) ++ at_ 0 ++ leBytes 8 e.seed.toNat
/-- The entries of a step and what they point to, from offset `o` on. -/
def stepImage (s : State) (base : W64) : List StepEnt → Nat → List Byte × List Byte
  | [], _ => ([], [])
  | e :: r, o =>
    let parts := entryParts s e
    let (es, ps) := stepImage s base r (o + parts.length)
    (entryImage s base o e ++ es, parts ++ ps)
/-- Write the whole input part of a step from the Plinth's copy, and zero its output records, which stand behind the entries (R400, R403,
R407). DEDUCED: log 143. -/
def writeArea (s : State) (sl : Nat) : State :=
  match (s.mslot sl).step with
  | none => s
  | some st =>
    let cfg := s.slotCfg sl
    let n := st.entries.length
    let hdr := leBytes 8 (s.mslot sl).stepSeq.toNat ++ leBytes 4 st.attempt.toNat ++ leBytes 2 n ++ leBytes 2 cfg.tpp.toNat
      ++ leBytes 8 cfg.poolBase.toNat ++ leBytes 8 st.dispatch.toNat ++ leBytes 4 st.outOff ++ leBytes 28 0
    plinthWrite s cfg.stepBase (hdr ++ st.inEnts ++ leBytes (64 * n) 0 ++ st.inParts)
/-- The step area of a slot holds plaintext of a sealed request when an entry's request is sealed (R30). -/
def markSealed (s : State) (sl : Nat) (st : Step) : State :=
  if st.entries.any (fun e => (s.ctx e.ctx).sealedRq) then
    let x := tabGet ({} : Part) s.parts (sl / 16)
    let cfg := s.slotCfg sl
    let r := (cfg.stepBase.toNat, cfg.stepSize.toNat)
    if x.sealedAt.contains r then s else { s with parts := tabPut s.parts (sl / 16) { x with sealedAt := r :: x.sealedAt } }
  else s
/-- Dispatch the step of a slot on its placement. -/
def dispatchStep (s : State) (sl : Nat) : State :=
  match (s.mslot sl).place with
  | none => s
  | some key =>
    let p := s.place key
    kick (s.setPlace key { p with waiting := p.waiting ++ [{ q := none, hostTag := 0, step := some sl, began := s.time }] }) key
/-- Whether a slot can form a step: READY, none in flight, its partition not suspended, its placement serving, the scheduler and the DRBG at
work and not fenced (R394, R425, R440, R461). -/
def canForm (s : State) (sl : Nat) : Bool :=
  let x := s.mslot sl
  x.ready && x.step.isNone && !s.suspended (sl / 16) && s.sec.entropyBad.isNone && !s.err.schReload && !s.fenced (unitPlinth 1)
    && (match x.place with | some key => (match s.place? key with | some p => !p.failed && !p.draining && !p.drained | none => false) | none => false)
/-- Remove the least recently hit prefix entry (R413). -/
def dropOldest (es : List PrefixEnt) : List PrefixEnt :=
  let oldest := es.foldl (fun (b : Option PrefixEnt) y => match b with | none => some y | some z => if y.hit < z.hit then some y else b) none
  es.filter (fun y => some y != oldest)
/-- Hold a prefix table to a number of entries. -/
def trimPrefixes (n : Nat) : Nat → List PrefixEnt → List PrefixEnt
  | 0, es => es
  | fuel + 1, es => if es.length ≤ n then es else trimPrefixes n fuel (dropOldest es)
/-- PREFIX_MAX as written takes effect at batch formation (R393, R412). -/
def applyPrefixMax (s : State) (sl : Nat) : State :=
  let m := s.mslot sl
  let n := (s.slotCfg sl).prefixMax.toNat
  s.setMslot sl { m with prefixMax := n, prefixes := trimPrefixes n m.prefixes.length m.prefixes }
/-- Form a batch, write the step area and dispatch the step (R396 stage 4). -/
def formStep (s : State) (sl : Nat) : State :=
  if !canForm s sl then s
  else
    let s := applyPrefixMax s sl
    let (b, s) := (ranked s (candidatesOf s sl)).foldl (tryEntry sl) ({ left := (s.slotCfg sl).maxTokens.toNat }, s)
    if b.ents.isEmpty then s
    else
      let n := b.ents.length
      let (es, ps) := stepImage s (s.slotCfg sl).stepBase b.ents (64 * (2 * n + 1))
      let st : Step := { entries := b.ents, outOff := 64 * (n + 1), inEnts := es, inParts := ps, limit := (s.slotCfg sl).stepLimit, dispatch := s.time }
      dispatchStep (writeArea (markSealed (s.setMslot sl { s.mslot sl with step := some st }) sl st) sl) sl
/-- STEP_FORMATION (R397). -/
def execStepFormation (part : BitVec 3) (slot : BitVec 4) (now : W64) (s : State) : Res :=
  .next (settleSnow (formStep (s.atTime now) (slotKey part.toNat slot.toNat)))

/-! ## Commit (R404 to R406, R412 to R414) -/

/-- An output record (R402). -/
structure OutRec where
  accept : Nat
  stop   : Bool
  stopIdx : Nat
  toks   : List W32
deriving DecidableEq, Repr

/-- The record in 64 B. -/
def outRec (bs : List Byte) : OutRec :=
  { accept := field bs 0 1, stop := field bs 1 1 % 2 == 1, stopIdx := field bs 2 1, toks := tokensAt bs 8 9 }
/-- Fields of a record that are ignored or clamped (R405). -/
def badRecs (e : StepEnt) (r : OutRec) : Nat :=
  (if e.kind = 0 ∧ r.stop then 1 else 0) + (if e.kind < 3 ∧ r.accept ≠ 0 then 1 else 0) + (if e.kind = 3 ∧ e.depth < r.accept then 1 else 0)
/-- Tokens that an entry takes before MAX_NEW bounds them (R404, R405). -/
def takenToks (e : StepEnt) (r : OutRec) : List W32 :=
  let a := min r.accept e.depth
  let base := if e.kind = 0 then [] else if e.kind = 3 then r.toks.take (a + 1) else r.toks.take 1
  if r.stop ∧ e.kind ≠ 0 then base.take (r.stopIdx + 1) else base
/-- Publish the prefix of a request at the commit of its KIND 1 entry (R412, R413). -/
def publishPrefix (s : State) (i : Nat) : State :=
  let x := s.ctx i
  let sl := x.slotKey
  let cfg := s.slotCfg sl
  let m := s.mslot sl
  let n := x.promptLen.toNat / cfg.tpp.toNat
  if !x.publish || x.prefixKey == 0 || m.prefixMax == 0 then s
  else
    let e : PrefixEnt := { key := x.prefixKey, contract := x.contract, count := n * cfg.tpp.toNat
                           hash := Config.sha256 ((x.tokens.take (n * cfg.tpp.toNat)).flatMap (fun t => leBytes 4 t.toNat)), pages := x.pages.take n, hit := m.hits + 1 }
    let rest := m.prefixes.filter (fun y => !(y.key == e.key && y.contract == e.contract))
    s.setMslot sl { m with hits := m.hits + 1, prefixes := (if m.prefixMax ≤ rest.length then dropOldest rest else rest) ++ [e] }
/-- The tokens that an entry keeps: EMITTED, the bucket, T_FIRST and T_LAST, the latency samples, and the output to seal (R405, R415, R417). -/
def keepToks (s : State) (i : Nat) (toks : List W32) : State :=
  let x := s.ctx i
  let n := toks.length
  if n = 0 then s
  else
    let s := if x.emitted = 0 then sample s x.ctr 0 (s.since x.tArrive) 1 else sample s x.ctr 1 (s.since x.tLast / n) n
    let s := charge s x.ctr n
    let s := s.setMslot x.slotKey { s.mslot x.slotKey with sealQ := (s.mslot x.slotKey).sealQ ++ [i] }
    s.setCtx i { s.ctx i with emitted := x.emitted + BitVec.ofNat 32 n, tLast := s.time, tFirst := if x.emitted = 0 then s.time else x.tFirst
                              history := x.history ++ toks, unsealed := x.unsealed ++ [toks] }
/-- The state after a commit goes into the context, or into the RESUME of its pause where the request has been paused meanwhile. -/
def committed (x : Ctx) (st : RqSt) : Ctx :=
  if x.st = .paused then (match x.prior with | some (c, _) => { x with prior := some (c, st) } | none => { x with resume := st })
  else { x with st := st }
/-- Commit one entry (R384, R404, R405). -/
def commitEntry (sl : Nat) (s : State) (er : StepEnt × OutRec) : State :=
  let (e, r) := er
  let i := e.ctx
  let x := s.ctx i
  if handleOf i x ≠ e.handle ∨ !x.live then s
  else
    let s := s.setCtx i { x with inStep := false }
    let x := s.ctx i
    if x.cancelRx then cancelRequest s i 0x04
    else if e.kind = 3 ∧ x.st ≠ .spec then s
    else
      let m := s.mslot sl
      let a := min r.accept e.depth
      let s := s.setMslot sl { m with badrec := m.badrec + BitVec.ofNat 64 (badRecs e r), draft := m.draft + BitVec.ofNat 64 (if e.kind = 3 then e.depth else 0)
                                      accept := m.accept + BitVec.ofNat 64 (if e.kind = 3 then a else 0) }
      let kept := (takenToks e r).take (x.maxNew.toNat - x.emitted.toNat)
      let s := keepToks s i kept
      let x := s.ctx i
      let tail := e.pos + (if e.kind < 2 then e.nIn else if e.kind = 2 then 1 else a + 1)
      let pend : W32 := if e.kind = 0 then 0 else if e.kind = 3 then r.toks.getD a 0 else r.toks.getD 0 0
      let st : RqSt := if (e.kind ≠ 0 ∧ r.stop) ∨ x.emitted = x.maxNew then .draining else if e.kind = 0 then .prefill else .decode
      let s := s.setCtx i (committed { x with pos := BitVec.ofNat 32 tail, pending := pend } st)
      if e.kind = 1 then publishPrefix s i else s
/-- Read the output records of a step; whether every one could be read. -/
def readRecs (a : W64) : List StepEnt → State → List (StepEnt × OutRec) × Bool × State
  | [], s => ([], true, s)
  | e :: r, s =>
    let (bs, ok, s) := plinthRead s a 64
    let (rest, ok', s) := readRecs (a + 64) r s
    ((e, outRec bs) :: rest, ok && ok', s)
/-- A suspended partition whose steps in flight are all committed or dropped pauses its live requests (R463). -/
def pausePart (s : State) (p : Nat) : State :=
  if !s.suspended p || ((List.range 16).map (slotKey p)).any (fun k => (s.mslot k).step.isSome) then s
  else (s.ctxsWhere (fun x => x.live && x.part.toNat == p)).foldl suspendRequest s
/-- Commit a step (R404, R423); the requests of a partition whose TDI has left RUN are suspended once it is committed (R463). -/
def commitStep (s : State) (sl : Nat) (st : Step) (recs : List (StepEnt × OutRec)) : State :=
  let s := recs.foldl (commitEntry sl) s
  let m := s.mslot sl
  pausePart (s.setMslot sl { m with step := none, stepSeq := m.stepSeq + 1, stepNs := st.ended - st.dispatch }) (sl / 16)

/-! ## Replay (R407, R436) -/

/-- Mark the requests of a step replayed. -/
def markReplayed (s : State) (st : Step) : State :=
  st.entries.foldl (fun s e => let x := s.ctx e.ctx; if handleOf e.ctx x = e.handle then s.setCtx e.ctx { x with replayed := true } else s) s
/-- The commands of a slot's dropped step leave its placement: one that waits is forgotten, one that runs is cancelled and reports to no
step (R394, R436). -/
def detachStep (s : State) (sl key : Nat) : State :=
  match s.place? key with
  | none => s
  | some p =>
    let s := s.setPlace key { p with waiting := p.waiting.filter (fun r => r.step != some sl)
                                     running := p.running.map (fun r => if r.step = some sl then { r with step := none, q := none } else r) }
    match p.running with
    | some r => if r.step = some sl ∧ r.status.isNone then cancelCommand s key 0x04 else s
    | none => s
/-- The step of a slot is dropped: its requests take no part in it any more, and its command does not go on. -/
def dropStep (s : State) (sl : Nat) : State :=
  let m := s.mslot sl
  match m.step with
  | none => s
  | some st =>
    let s := st.entries.foldl (fun s e =>
      let x := s.ctx e.ctx
      if handleOf e.ctx x = e.handle ∧ x.live then
        let s := s.setCtx e.ctx { x with inStep := false, st := resumeOf x.st }
        if x.cancelRx then cancelRequest s e.ctx 0x04 else s
      else s) s
    let s := pausePart (s.setMslot sl { s.mslot sl with step := none }) (sl / 16)
    match m.place with
    | some key => detachStep s sl key
    | none => s
/-- The slots that a placement serves. -/
def slotsOn (s : State) (key : Nat) : List Nat := (s.slots.filter (fun e => e.2.place == some key)).map (·.1)
/-- Capacity loss of a slot: it is not READY, its step is dropped, its live requests are suspended, and its alternative placements are tried
(R374, R444, R445). -/
def loseSlot (s : State) (sl : Nat) : State :=
  let s := suspendSlot (dropStep s sl) sl
  altSlot (s.setMslot sl { s.mslot sl with ready := false, place := none, programs := none, lostAt := some s.time }) sl
/-- A placement has failed: each slot on it is not READY and its requests are suspended (R444). -/
def failPlace (s : State) (key : Nat) : State :=
  let s := if (s.place? key).isSome then s.setPlace key { s.place key with failed := true } else s
  (slotsOn s key).foldl loseSlot s
/-- Replay a step: the attempt's records are discarded, the input part is written again with the same entries and seeds, and it is dispatched
again; a step that has failed REPLAY_MAX attempts in a row fails its placement (R407, R436). -/
def replayStep (s : State) (sl : Nat) (st : Step) : State :=
  let m := s.mslot sl
  if bits s.set.policy 2 0 ≤ st.fails + 1 then
    match m.place with
    | none => dropStep s sl
    | some key =>
      let (_, s) := recordFault s { unit := unitPlace key, cls := 12, code := 0, place := some key, detail := m.stepSeq } 7
      failPlace s key
  else
    let st := { st with attempt := st.attempt + 1, fails := st.fails + 1, result := none, dispatch := s.time }
    dispatchStep (writeArea (markReplayed (s.setMslot sl { m with step := some st, replay := m.replay + 1 }) st) sl) sl

/-! ## Preemption (R381) -/

/-- Requests that a preemption may serve, in rank order, with the pages each needs: heads of defer queues and requests in KV_WAIT of
GUARANTEED contracts in rate. DEDUCED: log 141. -/
def preemptDemands (s : State) (sl : Nat) : List (Nat × Nat) :=
  (ranked s (s.ctxsWhere (fun x => x.slotKey == sl && x.live && s.inRate x.ctr
      && ((x.st == .paused && x.cause == 5) || (x.st == .paused && x.cause == 1 && x.short == 4))))).map (fun i =>
    let x := s.ctx i
    let tpp := (s.slotCfg sl).tpp.toNat
    (i, if x.cause = 1 then needPages s sl x.promptLen else pagesFor tpp (x.pos.toNat + 1) - x.pages.length))
/-- The SCAVENGE request of a slot with the latest T_ARRIVE that can be preempted. -/
def preemptVictim (s : State) (sl : Nat) : Option Nat :=
  (ranked s (s.ctxsWhere (fun x => x.slotKey == sl && (s.ctrCfg x.ctr).cls == 2
      && (x.st == .admitted || x.st == .prefill || x.st == .decode || x.st == .spec)))).getLast?
/-- Pages of shared supply that promises need beside the promised contracts' own supply. -/
def sharedNeed (s : State) (sl : Nat) (ds : Tab Nat) : Nat := (ds.map (fun e => e.2 - s.ownSupply sl e.1)).sum
/-- Preempt until the supply covers every promise. -/
def preemptUntil (sl : Nat) (ds : Tab Nat) : Nat → State → State
  | 0, s => s
  | fuel + 1, s =>
    if sharedNeed s sl ds ≤ s.sharedSupply sl then s
    else match preemptVictim s sl with
      | none => s
      | some i => preemptUntil sl ds fuel (preempt s i)
/-- Preemption at a step end, for the demands in rank order, each on top of what those before it have been promised. DEDUCED: log 141. -/
def preemption (s : State) (sl : Nat) : State :=
  ((preemptDemands s sl).foldl (fun (a : Tab Nat × State) d =>
    let s := a.2
    let ctr := (s.ctx d.1).ctr
    let ds := tabPut a.1 ctr (tabGet 0 a.1 ctr + d.2)
    if sharedNeed s sl ds ≤ scavengePages s sl + s.sharedSupply sl then (ds, preemptUntil sl ds (s.ctxs.length + 1) s) else a) ([], s)).2

/-! ## Step events (R395, R396) -/

/-- A committed step's later stages: preemption, admission pass, formation. -/
def stepStages (s : State) (sl : Nat) : State :=
  let s := settleSnow (preemption (settleSnow s) sl)
  let s := settleSnow (admissionPass s (sl / 16))
  settleSnow (formStep s sl)
/-- STEP_COMMAND_COMPLETE (R396): an OK or SATURATED attempt is committed, any other replayed. -/
def execStepCommandComplete (part : BitVec 3) (slot : BitVec 4) (now : W64) (s : State) : Res :=
  let sl := slotKey part.toNat slot.toNat
  if s.err.schReload then .next s
  else
    match (s.mslot sl).step with
    | none => .next s
    | some st =>
      match st.result with
      | none => .next s
      | some res =>
        let s := s.atTime now
        if res ≠ 0 ∧ res ≠ 0x11 then .next (settleSnow (replayStep s sl st))
        else
          let (recs, ok, s) := readRecs ((s.slotCfg sl).stepBase + BitVec.ofNat 64 st.outOff) st.entries s
          if ok then .next (stepStages (commitStep s sl st recs) sl) else .next (settleSnow (replayStep s sl st))

/-- STEP_LIMIT_EXPIRY: an attempt has run for STEP_LIMIT; its threads stop and it completes TIMEOUT (R395). -/
def execStepLimitExpiry (part : BitVec 3) (slot : BitVec 4) (now : W64) (s : State) : Res :=
  let sl := slotKey part.toNat slot.toNat
  let s := s.atTime now
  match (s.mslot sl).place with
  | none => .next s
  | some key =>
    match (s.place key).running with
    | none => .next s
    | some r =>
      if r.step ≠ some sl ∨ r.status.isSome ∨ s.since r.began < (match (s.mslot sl).step with | some st => st.limit.toNat | none => 0) * 1000 then .next s
      else
        let (_, s) := recordFault s { unit := unitPlace key, cls := 5, code := 0, place := some key, detail := (s.mslot sl).stepSeq } 1
        .next (cancelCommand s key 0x0B)

/-! ## Sealing (R415, R416, R463, R475) -/

/-- Write the oldest chunk that a request has waiting; the last one of a request that drains ends it. -/
def writeOutput (s : State) (i : Nat) : State :=
  let x := s.ctx i
  match x.unsealed with
  | t :: u :: r => writeChunk (s.setCtx i { x with unsealed := u :: r }) i 0 t
  | ts =>
    if x.st = .draining then
      let s := endRequestDone s i
      sample s x.ctr 3 (s.since x.tArrive) 1
    else
      match ts with
      | t :: _ => writeChunk (s.setCtx i { x with unsealed := [] }) i 0 t
      | [] => s
where
  /-- A DRAINING request goes to DONE: its last chunk carries END, its pages are dropped, its final notice is posted. -/
  endRequestDone (s : State) (i : Nat) : State :=
    let s := releasePages (flushOutput s i 1) i 0
    let x := s.ctx i
    let s := s.setCtx i { x with st := .done }
    let s := s.setContract x.ctr { s.contract x.ctr with done_ := addTime s.time (s.contract x.ctr).done_ }
    let s := s.setMslot x.slotKey { s.mslot x.slotKey with rels := addTime s.time (s.mslot x.slotKey).rels }
    notice s i 0x00 0 0 0
/-- Whether the crypto engine takes a request's output next: it is the oldest of its slot, or the request drains with nothing left to
write. DEDUCED: log 144. -/
def sealTurn (s : State) (i : Nat) : Bool :=
  let x := s.ctx i
  x.live && (if x.unsealed.isEmpty then x.st == .draining else (s.mslot x.slotKey).sealQ.head? == some i)
/-- The oldest output of a slot has been taken. -/
def popSeal (s : State) (i : Nat) : State :=
  let x := s.ctx i
  let m := s.mslot x.slotKey
  if x.unsealed.isEmpty then s else s.setMslot x.slotKey { m with sealQ := m.sealQ.tail }
/-- TOKEN_SEAL (R415): in entry order, the tokens of one commit of a request are sealed and written; tokens that cannot be sealed, and later
ones, are withheld and the request ends FAILED with AUTH_FAILED; while the partition is suspended the output is held (R463). DEDUCED: log 144. -/
def execTokenSeal (ctx : BitVec 21) (sealable : Bool) (now : W64) (s : State) : Res :=
  let s := s.atTime now
  let i := ctx.toNat
  let x := s.ctx i
  if !sealTurn s i then .next s
  else if !sealable then .next (settleSnow (failRequest s i 0x0F))
  else if s.suspended x.part.toNat then
    let s := popSeal s i
    let p := tabGet ({} : Part) s.parts x.part.toNat
    .next { s with parts := tabPut s.parts x.part.toNat { p with heldOut := if x.unsealed.isEmpty && p.heldOut.contains i then p.heldOut else p.heldOut ++ [i] } }
  else .next (settleSnow (writeOutput (popSeal s i) i))

/-! ## Drain and restore of a serving placement (R307, R308, R366) -/

/-- DRAIN (R307): the requests of the slots on the placement are paused with cause SUSPENDED. -/
def drainPlace (s : State) (key : Nat) : State := (slotsOn s key).foldl suspendSlot (startDrain s key)
/-- DRAIN. -/
def execDrain (place : Nat) (s : State) : Res := .next (drainPlace s place)
/-- RESTORE (R308): after a restore the requests resume. -/
def execRestore (place : Nat) (s : State) : Res :=
  let s' := restorePlace s place
  if (s.place place).drained && !(s'.place place).drained && !s.suspended (place / 256) then .next ((slotsOn s' place).foldl resumeSlot s') else .next s'

end Sys2Proof.Machine
end

