-- ==== Sys2Proof/Machine/Cfg.lean ====
section
/-! DEFINITION. The host's administrative commands (R484, R490 to R493, R495, R499 to R502): configuration blocks, partition changes (R460), model
slots, the end of a placement, host zeroing (R337, R338), DELETE_QP. -/

namespace Sys2Proof.Machine

/-! ## Slots -/

/-- A slot loses its binding: it is not READY, its step is dropped and its live requests are suspended. -/
def unbindSlot (s : State) (sl : Nat) : State :=
  let s := suspendSlot (dropStep s sl) sl
  s.setMslot sl { s.mslot sl with ready := false, place := none, programs := none }
/-- A slot without weights, its counters kept. -/
def Slot.unloaded (m : Slot) : Slot :=
  { m with ready := false, loaded := 0, weights := none, programs := none, wbytes := [], place := none, prefixes := [], step := none, lostAt := none }

/-! ## PLACE_CREATE, PLACE_DESTROY -/

/-- The effect of PLACE_CREATE; the entry's data are the bytes of the core list at CORE_LIST of the placement block. -/
def placeCreateAct (h : HostCmd) (s : State) : State :=
  match partNo h.q.fn with
  | none => finish s h 0x0D
  | some p =>
    let key := placeKey p h.e.index.toNat
    let n := (tabGet {} s.set.places key).cores.toNat
    match h.data with
    | none => finish s h 0x08
    | some bs =>
      let raws := rawEntries bs n
      let es := raws.map (fun r => (coreEntry r).2)
      if 256 ≤ h.e.index.toNat ∨ (s.place? key).isSome ∨ n = 0 ∨ !raws.all (coreEntryOk s p) ∨ !(es.map (·.core)).Nodup then finish s h 0x0D
      else
        match createPlace s key es with
        | none => finish s h 0x09
        | some s => settleSnow (finish (readySlots s p) h 0)
/-- PLACE_CREATE (R490, R502). -/
def execPlaceCreate (h : HostCmd) (s : State) : Res :=
  hostEntry (.placeCreate h) h { admin := true, index := true } (placeCreateAct h) s


/-- End a placement; the slots bound to it lose their binding. -/
def destroyPlace (s : State) (key : Nat) : State := endPlace ((slotsOn s key).foldl unbindSlot s) key
/-- The effect of PLACE_DESTROY. -/
def placeDestroyAct (h : HostCmd) (s : State) : State :=
  match entryPlace s h with
  | none => finish s h 0x0D
  | some key => settleSnow (finish (destroyPlace s key) h 0)
/-- PLACE_DESTROY (R303, R490). -/
def execPlaceDestroy (h : HostCmd) (s : State) : Res :=
  hostEntry (.placeDestroy h) h { admin := true, index := true } (placeDestroyAct h) s

/-! ## SLOT_LOAD, SLOT_UNLOAD (R374, R490, R493) -/

/-- Write one accepted segment; at WEIGHT_LEN the load is complete. -/
def loadSegment (s : State) (sl off : Nat) (bs : List Byte) : State :=
  let m := s.mslot sl
  let c := s.slotCfg sl
  let old := if off = 0 then [] else m.wbytes
  let all := old ++ bs
  let s := plinthWrite s (c.weightBase + BitVec.ofNat 64 off) bs
  if all.length = c.weightLen.toNat then
    readySlot (s.setMslot sl { m with loaded := all.length, wbytes := [], weights := some (Config.sha384 all), programs := none
                                      loadSeq := m.loadSeq + 1 }) sl
  else s.setMslot sl { m with loaded := all.length, wbytes := all, weights := none, programs := none }
/-- The effect of SLOT_LOAD. -/
def slotLoadAct (h : HostCmd) (s : State) : State :=
  match partNo h.q.fn with
  | none => finish s h 0x0D
  | some p =>
    let sl := slotKey p h.e.index.toNat
    let m := s.mslot sl
    let c := s.slotCfg sl
    let off := h.e.arg.toNat * 65536
    let n := h.e.len1.toNat
    if 16 ≤ h.e.index.toNat then finish s h 0x0D
    else if m.ready then finish s h 0x03
    else if (off ≠ 0 ∧ (m.weights.isSome ∨ off ≠ m.loaded)) ∨ c.weightLen.toNat < off + n ∨ (off + n < c.weightLen.toNat ∧ n % 65536 ≠ 0)
        ∨ (n ≠ 0 ∧ !inPartHbm s p (c.weightBase + BitVec.ofNat 64 off) n) then finish s h 0x0D
    else settleSnow (finish (loadSegment s sl off (fitLen n (h.data.getD []))) h 0)
/-- SLOT_LOAD (R493). -/
def execSlotLoad (h : HostCmd) (s : State) : Res :=
  hostEntry (.slotLoad h) h { admin := true, index := true, addr1 := true, len1 := true, arg := true } (slotLoadAct h) s

/-- Unload a slot: its live requests end CANCELLED. -/
def unloadSlot (s : State) (sl : Nat) : State :=
  let s := dropStep (cancelAll s (fun x => x.slotKey == sl) 0x04) sl
  s.setMslot sl (s.mslot sl).unloaded
/-- The effect of SLOT_UNLOAD. -/
def slotUnloadAct (h : HostCmd) (s : State) : State :=
  match partNo h.q.fn with
  | none => finish s h 0x0D
  | some p =>
    let sl := slotKey p h.e.index.toNat
    if 16 ≤ h.e.index.toNat then finish s h 0x0D
    else if !(s.ctxsWhere (fun x => x.live && x.slotKey == sl)).isEmpty ∧ !h.e.flags.getLsbD 3 then finish s h 0x03
    else settleSnow (finish (unloadSlot s sl) h 0)
/-- SLOT_UNLOAD (R374). -/
def execSlotUnload (h : HostCmd) (s : State) : Res :=
  hostEntry (.slotUnload h) h { admin := true, index := true, flags := 8 } (slotUnloadAct h) s

/-! ## DELETE_QP (R495) -/

/-- The effect of DELETE_QP: INDEX names the queue pair. -/
def deleteQpAct (h : HostCmd) (s : State) : State :=
  let q : QRef := ⟨h.q.fn, h.e.index.truncate 12⟩
  let mine (x : Ctx) : Bool := x.q == q
  if h.e.index = 0 ∨ 4096 ≤ h.e.index.toNat ∨ (s.qp? q).isNone then finish s h 0x0D
  else if !(s.ctxsWhere (fun x => x.live && mine x)).isEmpty ∧ !h.e.flags.getLsbD 3 then finish s h 0x03
  else settleSnow (finish (cancelAll { s with qps := tabDel s.qps (qpKey q) } mine 0x04) h 0)
/-- DELETE_QP (R495). -/
def execDeleteQp (h : HostCmd) (s : State) : Res :=
  hostEntry (.deleteQp h) h { admin := true, index := true, flags := 8 } (deleteQpAct h) s

/-! ## Clearing HBM (R332, R337, R338) -/

/-- Clear every page of a die's HBM, once the writes accepted before have been performed. -/
def clearDie (s : State) (die : Nat) : State := clearPages s die 0 s.hbmSize
/-- Zero the blocks of one home page that lie in a data-space range: the page is cleared when all 16 do, and otherwise the 64 B units of the
blocks inside are written with zero. -/
def zeroPage (lo hi : Nat) (s : State) (page : Nat) : State :=
  let die := page * 4096 / hbmRegion
  let off := page * 4096 % hbmRegion
  let inside (j : Nat) : Bool :=
    let (d, o) := s.unhome die (off + 256 * j)
    decide (lo ≤ hbmKey d o) && decide (hbmKey d o < hi)
  let js := (List.range 16).filter inside
  if js.length = 16 then clearPages s die off (off + 4096)
  else js.foldl (fun s j => (List.range 4).foldl (fun s u => writeUnit s die (off + 256 * j + 64 * u) 0) s) s
/-- Zero the blocks of a data-space range of one die region; only written pages hold anything. -/
def zeroBlocks (s : State) (die off n : Nat) : State :=
  let s := performHbm s
  ((s.hbm.pages.filter (·.2)).map (·.1)).foldl (zeroPage (hbmKey die off) (hbmKey die off + n)) s
/-- Add a clear that the controllers apply; its command completes at ZERO_RANGE_COMPLETE. -/
def addJob (s : State) (h : HostCmd) (status : Byte) (info2 : W64) : State :=
  { s with jobCtr := s.jobCtr + 1
           zeroJobs := s.zeroJobs ++ [{ id := s.jobCtr, q := h.q, hostTag := h.e.hostTag, status := status, info2 := info2 }] }
/-- The effect of ZERO_RANGE: LEN1 counts 4 KiB units. -/
def zeroRangeAct (h : HostCmd) (s : State) : State :=
  match partNo h.q.fn with
  | none => finish s h 0x0D
  | some p =>
    let n := h.e.len1.toNat * 4096
    if h.e.addr1.toNat % 4096 ≠ 0 ∨ !inPartHbm s p h.e.addr1 n then finish s h 0x0D
    else
      match s.classify h.e.addr1 with
      | .hbm die o => addJob (zeroBlocks s die o n) h 0 0
      | _ => finish s h 0x0D
/-- ZERO_RANGE (R337, R490): ADDR1 is a data-space address. -/
def execZeroRange (h : HostCmd) (s : State) : Res :=
  hostEntry (.zeroRange h) { h with data := some [] } { admin := true, addr1 := true, len1 := true } (zeroRangeAct h) s
/-- ZERO_RANGE_COMPLETE: every controller has applied the clear (R337). -/
def execZeroRangeComplete (id : Nat) (s : State) : Res :=
  match s.zeroJobs.find? (fun j => j.id == id) with
  | none => .next s
  | some j =>
    let s := { s with zeroJobs := s.zeroJobs.filter (fun x => x.id != id) }
    .next (post s j.q (cmdDone j.status j.hostTag 0 j.info2))

/-! ## The fields of a configuration block (R330, R368, R393, R499, R500) -/

/-- Sizes of a block's fields in table order (R499). -/
def blockSizes : Nat → List Nat
  | 1 => [1, 1, 2, 2, 8, 8, 8, 8, 8, 8, 8, 8]
  | 2 => [1, 2, 4, 4, 4, 4, 4, 4, 4, 4, 4, 2]
  | 3 => [2, 8, 4, 8, 4, 2, 4, 4, 1, 2, 4, 2, 2, 2, 2, 2, 8, 8]
  | 4 => [8, 2, 1, 1, 2, 4]
  | _ => []
/-- Offsets of fields from `o` on, each at the next offset aligned to its own size. -/
def fieldOffs : Nat → List Nat → List Nat
  | _, [] => []
  | o, n :: r => let a := (o + n - 1) / n * n; a :: fieldOffs (a + n) r
/-- Field `i` of a block's bytes; none when it lies wholly or partly beyond them. -/
def rawField (ty : Nat) (bs : List Byte) (i : Nat) : Option Nat :=
  let o := (fieldOffs 16 (blockSizes ty)).getD i 0
  let n := (blockSizes ty).getD i 0
  if o + n ≤ bs.length then some (field bs o n) else none

/-- A field as applied, and whether it was clamped or defaulted. -/
abbrev Fld := Nat × Bool
/-- A numeric field: the nearest bound outside its range; its default, within the range, when it is not there. -/
def numFld (lo hi dflt : Nat) : Option Nat → Fld
  | some v => let c := max lo (min v hi); (c, c != v)
  | none => (max lo (min dflt hi), true)
/-- An enumeration of values 0 to `n`: its default otherwise. -/
def enumFld (n dflt : Nat) : Option Nat → Fld
  | some v => if v ≤ n then (v, false) else (dflt, true)
  | none => (dflt, true)
/-- A field that takes any value. -/
def anyFld (dflt : Nat) : Option Nat → Fld
  | some v => (v, false)
  | none => (dflt, true)
/-- An interleaved-region entry (R330): LEN is clamped so that OFF + LEN does not pass the end, and LEN 0 takes EN = 0. -/
def irFld (top : Nat) : Option Nat → Fld
  | some v =>
    let off := v % 65536
    let len := min (v / 65536 % 65536) (top - off)
    let w := (if len = 0 then 0 else v / 2 ^ 63 % 2 * 2 ^ 63) + len * 65536 + off
    (w, w != v / 2 ^ 63 % 2 * 2 ^ 63 + v % 2 ^ 32)
  | none => (0, true)

/-- Bound of QPS: what the other existing partitions leave of 4,080 (R499). -/
def qpsBound (s : State) (p : Nat) : Nat :=
  4080 - ((s.parts.filter (fun e => e.1 ≠ p)).map (fun e => (tabGet ({} : PartCfg) s.set.parts e.1).qps.toNat)).sum
/-- Pages of the pools of the slots in a mask that no other contract of the partition has reserved, the least of the pools (R368). -/
def unreserved (s : State) (ctr slots : Nat) : Nat :=
  ((List.range 16).filter (fun n => slots / 2 ^ n % 2 == 1)).foldl (fun m n =>
    let others := (s.set.contracts.filter (fun e => e.1 / 256 = ctr / 256 ∧ e.1 ≠ ctr ∧ e.2.slots.getLsbD n)).map (fun e => e.2.kvReserve.toNat)
    min m ((s.slotCfg (slotKey (ctr / 256) n)).poolPages.toNat - others.sum)) 0xFFFFFFFF

/-- The fields of a partition block. -/
def partFlds (s : State) (p : Nat) (raw : Nat → Option Nat) : List Fld :=
  [anyFld 0 (raw 0), enumFld 1 0 (raw 1), numFld 0 (qpsBound s p) 64 (raw 2), numFld 1 2048 64 (raw 3)]
    ++ (List.range 8).map (fun n => irFld (s.hbmReserved / gib) (raw (4 + n)))
/-- The fields of a contract block. -/
def ctrFlds (s : State) (ctr : Nat) (raw : Nat → Option Nat) : List Fld :=
  let cls := enumFld 2 2 (raw 0)
  let slots := anyFld 0xFFFF (raw 1)
  let rate := numFld (if cls.1 = 0 then 1 else 0) 0xFFFFFFFF 0 (raw 2)
  let us (d : Nat) (i : Nat) : Fld := numFld 1 100000000 d (raw i)
  let t99 := us 1000000 7
  [cls, slots, rate, numFld 1 0x7FFFFFFF (min (max rate.1 1) 0x7FFFFFFF) (raw 3), numFld 1 2097152 1024 (raw 4),
    numFld 0 (unreserved s ctr slots.1) 0 (raw 5), us 1000000 6, t99, us 100000 8, us 100000 9, numFld 0 10000000 t99.1 (raw 10),
    numFld 0 65535 64 (raw 11)]
/-- The fields of a slot block. -/
def slotFlds (raw : Nat → Option Nat) : List Fld :=
  [numFld 1 4096 16 (raw 0), anyFld 0 (raw 1), numFld 1 16777216 1 (raw 2), anyFld 0 (raw 3), numFld 0x100000 0x40000000 0x4000000 (raw 4),
    numFld 1 4096 256 (raw 5), numFld 1 65536 8192 (raw 6), numFld 1 65536 2048 (raw 7), numFld 0 8 0 (raw 8), numFld 0 65535 1024 (raw 9),
    numFld 10 1000000 10000 (raw 10), anyFld 0 (raw 11), anyFld 0xFFFF (raw 12), anyFld 0xFFFF (raw 13), anyFld 0xFFFF (raw 14),
    anyFld 0xFFFF (raw 15), anyFld 0 (raw 16), anyFld 0 (raw 17)]
/-- The fields of a placement block. -/
def placeFlds (raw : Nat → Option Nat) : List Fld :=
  [anyFld 0 (raw 0), anyFld 0 (raw 1), enumFld 1 0 (raw 2), numFld 0 255 8 (raw 3), numFld 1 65535 1 (raw 4), numFld 1 0xFFFFFFFF 600000 (raw 5)]

/-- Fields that are ignored keep their old values, without a map bit (R501). -/
def freeze (frozen : List Nat) (old : List Nat) (fs : List Fld) : List Fld :=
  fs.zipIdx.map (fun (f, i) => if frozen.contains i then (old.getD i 0, false) else f)
/-- The clamp map (R500). -/
def clampMap (fs : List Fld) : W64 := fs.zipIdx.foldl (fun (m : W64) (f, i) => if f.2 then m ||| ((1 : W64) <<< (min i 63)) else m) 0

/-- A partition block from its values. -/
def partOf (v : Nat → Nat) : PartCfg :=
  { dies := BitVec.ofNat 8 (v 0), plain := v 1 == 1, qps := BitVec.ofNat 16 (v 2), vectors := BitVec.ofNat 16 (v 3)
    ir := (List.range 8).map (fun n => BitVec.ofNat 64 (v (4 + n))) }
/-- Its values. -/
def partVals (c : PartCfg) : List Nat := [c.dies.toNat, flagAt c.plain 0, c.qps.toNat, c.vectors.toNat] ++ c.ir.map (·.toNat)
/-- A contract from its values. -/
def ctrOf (v : Nat → Nat) : ContractCfg :=
  let w (i : Nat) : W32 := BitVec.ofNat 32 (v i)
  { cls := BitVec.ofNat 8 (v 0), slots := BitVec.ofNat 16 (v 1), rate := w 2, burst := w 3, conc := w 4, kvReserve := w 5, ttftP50 := w 6
    ttftP99 := w 7, itlP99 := w 8, itlP999 := w 9, maxDefer := w 10, deferDepth := BitVec.ofNat 16 (v 11) }
/-- Its values. -/
def ctrVals (c : ContractCfg) : List Nat :=
  [c.cls.toNat, c.slots.toNat, c.rate.toNat, c.burst.toNat, c.conc.toNat, c.kvReserve.toNat, c.ttftP50.toNat, c.ttftP99.toNat, c.itlP99.toNat,
    c.itlP999.toNat, c.maxDefer.toNat, c.deferDepth.toNat]
/-- A slot from its values. -/
def slotOf (v : Nat → Nat) : SlotCfg :=
  let w (i : Nat) : W32 := BitVec.ofNat 32 (v i)
  let h (i : Nat) : W16 := BitVec.ofNat 16 (v i)
  let d (i : Nat) : W64 := BitVec.ofNat 64 (v i)
  { tpp := h 0, poolBase := d 1, poolPages := w 2, stepBase := d 3, stepSize := w 4, maxBatch := h 5, maxTokens := w 6, prefillChunk := w 7
    specDepth := BitVec.ofNat 8 (v 8), prefixMax := h 9, stepLimit := w 10, placement := h 11, alts := [h 12, h 13, h 14, h 15], weightBase := d 16
    weightLen := d 17 }
/-- Its values. -/
def slotVals (c : SlotCfg) : List Nat :=
  [c.tpp.toNat, c.poolBase.toNat, c.poolPages.toNat, c.stepBase.toNat, c.stepSize.toNat, c.maxBatch.toNat, c.maxTokens.toNat,
    c.prefillChunk.toNat, c.specDepth.toNat, c.prefixMax.toNat, c.stepLimit.toNat, c.placement.toNat] ++ c.alts.map (·.toNat)
    ++ [c.weightBase.toNat, c.weightLen.toNat]
/-- A placement from its values. -/
def placeOf (v : Nat → Nat) : PlaceCfg :=
  { coreList := BitVec.ofNat 64 (v 0), cores := BitVec.ofNat 16 (v 1), dorhal := v 2 == 1, cairnHold := BitVec.ofNat 8 (v 3)
    realignN := BitVec.ofNat 16 (v 4), cmdLimit := BitVec.ofNat 32 (v 5) }
/-- Its values. -/
def placeVals (c : PlaceCfg) : List Nat :=
  [c.coreList.toNat, c.cores.toNat, flagAt c.dorhal 0, c.cairnHold.toNat, c.realignN.toNat, c.cmdLimit.toNat]

/-! ## Partition changes (R224, R236, R332, R337, R341, R459, R460) -/

/-- A fresh number for a key that the DRBG generates. -/
def newKey (s : State) : Nat × State := (s.sec.nextKey, { s with sec := { s.sec with nextKey := s.sec.nextKey + 1 } })
/-- Zero the local memories of a die's cores, with their poison. -/
def zeroLocal (s : State) (die : Nat) : State :=
  { s with cores := s.cores.map (fun e => if e.1 / 2048 = die then (e.1, { e.2 with lm := {} }.setInst 0 (filledInst (e.2.inst 0))) else e) }
/-- Zero the commons of a die, with their poison. -/
def zeroCommons (s : State) (die : Nat) : State :=
  { s with commons := s.commons.filter (fun e => decide (e.1 / 32 ≠ die)), writeQ := s.writeQ.filter (fun e => decide (e.1 / 32 ≠ die) || decide (256 ≤ e.1))
           sliceInst := s.sliceInst.map (fun e => if e.1 / 32 = die then (e.1, filledInst e.2) else e) }
/-- Everything that stands for a partition ends: its live requests CANCELLED, its placements, its slots' loads. -/
def endPartition (s : State) (p : Nat) : State :=
  let s := cancelAll s (fun x => x.part.toNat == p) 0x04
  let s := ((s.places.filter (fun e => e.1 / 256 = p)).map (·.1)).foldl destroyPlace s
  { s with slots := s.slots.map (fun e => if e.1 / 16 = p then (e.1, e.2.unloaded) else e) }
/-- Steps 3: the bits of the dies are cleared and their local memories and commons zeroed. -/
def clearDies (s : State) (dies : List Nat) : State := dies.foldl (fun s d => zeroCommons (zeroLocal (clearDie s d) d) d) (performAll s)
/-- New keys of a partition: memory, save and seal keys (R459, R468). -/
def rekey (s : State) (x : Part) : Part × State :=
  let (m, s) := newKey s
  let (v, s) := newKey s
  let (c, s) := newKey s
  ({ x with memKey := m, saveKey := v, curKey := c, prevKey := 0, curId := 1, prevId := 0, rotated := s.time, seen := [] }, s)
/-- A partition's virtual functions become absent: their registers and queue pairs are gone (R479). -/
def dropFunctions (s : State) (p : Nat) : State :=
  let ks := (fnsOf (some p)).map fnKey
  { s with fns := s.fns.filter (fun e => !ks.contains e.1), qps := s.qps.filter (fun e => !ks.contains (e.1 / 4096)) }
/-- Destroy a partition: what it owns goes with it. -/
def destroyPart (s : State) (p : Nat) : State :=
  let old := (tabGet ({} : PartCfg) s.set.parts p).dieList
  let s := dropFunctions (clearDies (endPartition s p) old) p
  let keep {α : Type} (n : Nat) (t : Tab α) : Tab α := t.filter (fun e => decide (e.1 / n ≠ p))
  { s with parts := tabDel s.parts p, slots := keep 16 s.slots, contracts := keep 256 s.contracts, ctrEff := keep 256 s.ctrEff, hists := keep 1024 s.hists
           set := { s.set with parts := tabPut s.set.parts p { tabGet ({} : PartCfg) s.set.parts p with dies := 0 }, slots := keep 16 s.set.slots
                               contracts := keep 256 s.set.contracts, places := keep 256 s.set.places, rotateS := tabDel s.set.rotateS p } }
/-- MULTI_MATCH of a partition: two enabled interleaved regions cover one offset (R332). -/
def multiMatch (c : PartCfg) : Bool :=
  (List.range 8).any (fun i => (List.range 8).any (fun j => decide (i < j) &&
    (let a := c.ir.getD i 0; let b := c.ir.getD j 0
     irOn a && irOn b && decide (irOff a < irOff b + irLen b) && decide (irOff b < irOff a + irLen a))))
/-- Apply a partition block. A change of the dies is a partition change: a partition with no die is destroyed, otherwise it gets new keys
over cleared memories; a changed interleaved region clears its old and new ranges in every die. -/
def applyPart (s : State) (p : Nat) (c : PartCfg) : State :=
  let old := tabGet ({} : PartCfg) s.set.parts p
  let multi := multiMatch c
  if c.dies = 0 then
    let s := if (tabLook s.parts p).isSome then destroyPart s p else s
    { s with set := { s.set with parts := tabPut s.set.parts p c } }
  else if old.dies ≠ c.dies ∨ (tabLook s.parts p).isNone then
    let s := clearDies (endPartition s p) (old.dieList ++ c.dieList)
    let (x, s) := rekey s (tabGet {} s.parts p)
    { s with parts := tabPut s.parts p { x with multi := multi }, set := { s.set with parts := tabPut s.set.parts p c } }
  else
    let changed := ((List.range 8).map (fun i => (old.ir.getD i 0, c.ir.getD i 0))).filter (fun e => e.1 != e.2)
    let ranges := (changed.flatMap (fun e => [e.1, e.2])).filter irOn
    let s := performHbm s
    let s := c.dieList.foldl (fun s d => ranges.foldl (fun s w => clearPages s d (irOff w * gib) ((irOff w + irLen w) * gib)) s) s
    { s with parts := tabPut s.parts p { tabGet {} s.parts p with multi := multi }, set := { s.set with parts := tabPut s.set.parts p c } }

/-! ## CFG_WRITE, CFG_READ (R499 to R501) -/

/-- Whether a block type and object number may be named by a function (R499). -/
def blockOk (f : FnRef) (ty obj : Nat) : Bool :=
  match ty with
  | 1 => (partNo f).isNone && decide (obj < 8)
  | 2 => (partNo f).isSome && decide (obj < 256)
  | 3 => (partNo f).isSome && decide (obj < 16)
  | 4 => (partNo f).isSome && decide (obj < 256)
  | _ => false
/-- Whether a partition's clears make its command wait for the controllers (R337). -/
def partClears (s : State) (p : Nat) (c : PartCfg) : Bool :=
  let old := tabGet ({} : PartCfg) s.set.parts p
  old.dies != c.dies || (c.dies != 0 && old.ir != c.ir)
/-- Whether a DIES value names a die of another partition (R501). -/
def diesTaken (s : State) (p : Nat) (dies : Byte) : Bool :=
  s.parts.any (fun e => e.1 != p && ((tabGet ({} : PartCfg) s.set.parts e.1).dies &&& dies != 0))
/-- Complete a CFG_WRITE with its clamp map. -/
def cfgDone (s : State) (h : HostCmd) (fs : List Fld) : State :=
  finish s h (if clampMap fs = 0 then 0 else 1) 0 (clampMap fs)
/-- CFG_WRITE of a partition block. -/
def writePart (self : Instr) (h : HostCmd) (p : Nat) (raw : Nat → Option Nat) (s : State) : State :=
  let fs := partFlds s p raw
  let c := partOf (fun i => (fs.getD i (0, false)).1)
  let old := tabGet ({} : PartCfg) s.set.parts p
  if diesTaken s p c.dies ∨ ((tabLook s.parts p).isSome ∧ old.dies ≠ c.dies ∧ !h.e.flags.getLsbD 3) then finish s h 0x0D
  else if old.dies ≠ c.dies ∧ c.dies ≠ 0 ∧ s.sec.entropyBad.isSome then holdDraw s self
  else
    let clears := partClears s p c
    let s := settleSnow (applyPart s p c)
    if clears then addJob s h (if clampMap fs = 0 then 0 else 1) (clampMap fs) else cfgDone s h fs
/-- CFG_WRITE of a contract block. -/
def writeCtr (h : HostCmd) (ctr : Nat) (raw : Nat → Option Nat) (s : State) : State :=
  let fs := ctrFlds s ctr raw
  cfgDone { s with set := { s.set with contracts := tabPut s.set.contracts ctr (ctrOf (fun i => (fs.getD i (0, false)).1)) } } h fs
/-- CFG_WRITE of a slot block: TPP to STEP_SIZE are fixed once the slot is loaded. -/
def writeSlot (h : HostCmd) (sl : Nat) (raw : Nat → Option Nat) (s : State) : State :=
  let fs := freeze (if (s.mslot sl).weights.isSome then [0, 1, 2, 3, 4] else []) (slotVals (s.slotCfg sl)) (slotFlds raw)
  let s := { s with set := { s.set with slots := tabPut s.set.slots sl (slotOf (fun i => (fs.getD i (0, false)).1)) } }
  settleSnow (cfgDone (readySlot s sl) h fs)
/-- CFG_WRITE of a placement block: only REALIGN_N and CMD_LIMIT change once the placement exists. -/
def writePlace (h : HostCmd) (key : Nat) (raw : Nat → Option Nat) (s : State) : State :=
  let fs := freeze (if (s.place? key).isSome then [0, 1, 2, 3] else []) (placeVals (tabGet {} s.set.places key)) (placeFlds raw)
  let c := placeOf (fun i => (fs.getD i (0, false)).1)
  let s := { s with set := { s.set with places := tabPut s.set.places key c } }
  cfgDone (match s.place? key with | some p => s.setPlace key { p with cfg := c } | none => s) h fs
/-- The effect of CFG_WRITE: INDEX and the header give the type, ARG the object, and the block ends at LEN or at LEN1. -/
def cfgWriteAct (self : Instr) (h : HostCmd) (s : State) : State :=
  let bs := (h.data.getD []).take h.e.len1.toNat
  let ty := h.e.index.toNat
  let obj := h.e.arg.toNat
  if bs.length < 16 ∨ field bs 0 2 ≠ ty ∨ field bs 2 2 ≠ 1 ∨ field bs 4 4 < 16 ∨ !blockOk h.q.fn ty obj then finish s h 0x0D
  else
    let raw := rawField ty (bs.take (field bs 4 4))
    match ty, partNo h.q.fn with
    | 1, _ => writePart self h obj raw s
    | 2, some p => writeCtr h (ctrKey p obj) raw s
    | 3, some p => writeSlot h (slotKey p obj) raw s
    | _, some p => writePlace h (placeKey p obj) raw s
    | _, none => finish s h 0x0D
/-- CFG_WRITE (R499 to R501). -/
def execCfgWrite (h : HostCmd) (s : State) : Res :=
  hostEntry (.cfgWrite h) h { admin := true, index := true, flags := 8, arg := true, addr1 := true, len1 := true } (cfgWriteAct (.cfgWrite h) h) s

/-- The applied values of an object, in table order. -/
def cfgVals (s : State) (f : FnRef) (ty obj : Nat) : List Nat :=
  match ty, partNo f with
  | 1, _ => partVals (tabGet {} s.set.parts obj)
  | 2, some p => ctrVals (tabGet {} s.set.contracts (ctrKey p obj))
  | 3, some p => slotVals (s.slotCfg (slotKey p obj))
  | _, some p => placeVals (tabGet {} s.set.places (placeKey p obj))
  | _, none => []
/-- Lay field values out from offset `o` on, with zeros between them. -/
def layFields : Nat → List Nat → List Nat → List Byte
  | o, n :: ns, v :: vs => let a := (o + n - 1) / n * n; leBytes (a - o) 0 ++ leBytes n v ++ layFields (a + n) ns vs
  | _, _, _ => []
/-- The block as CFG_READ returns it; MULTI_MATCH of a partition is bit 0 of the header's byte 8 (R332). -/
def blockBytes4 (ty : Nat) (multi : Bool) (vs : List Nat) : List Byte :=
  let fs := layFields 16 (blockSizes ty) vs
  leBytes 2 ty ++ leBytes 2 1 ++ leBytes 4 (16 + fs.length) ++ leBytes 8 (flagAt multi 0) ++ fs
/-- The effect of CFG_READ: the first LEN1 bytes of the block. -/
def cfgReadAct (h : HostCmd) (s : State) : State :=
  let ty := h.e.index.toNat
  let obj := h.e.arg.toNat
  if !blockOk h.q.fn ty obj then finish s h 0x0D
  else
    let multi := ty == 1 && (tabGet ({} : Part) s.parts obj).multi
    finish (hostWrite s h.e.addr1 ((blockBytes4 ty multi (cfgVals s h.q.fn ty obj)).take h.e.len1.toNat)) h 0
/-- CFG_READ (R500). -/
def execCfgRead (h : HostCmd) (s : State) : Res :=
  hostEntry (.cfgRead h) h { admin := true, index := true, arg := true, addr1 := true, len1 := true } (cfgReadAct h) s

end Sys2Proof.Machine
end

