-- ==== Sys2Proof/Machine/Err.lean ====
section
/-! DEFINITION. Fault detection, containment and recovery (R424 to R450): reports, fences, fence notices, watchdogs, self-tests, spare
substitution, capacity loss, the twin controllers and the scheduler hardware, and management's unit commands. -/

namespace Sys2Proof.Machine

/-! ## Capacity loss (R270, R444 to R446) -/

/-- The die that a management link serves, as the unit that is lost with it; any other unit is itself (R424). -/
def lostUnit (u : W32) : W32 := if unitKind u = 9 ∧ 8 ≤ bits u 27 0 then unitId 7 (bits u 27 0 - 8) else u

/-- The reserved range of a die is lost: the live requests whose contexts lay there end CAPACITY_LOST, and their INDEX values are refused until
the next power-up. The stub gives their notices and names no output region, so no final chunk is written (R446). DEDUCED: log 157. -/
def loseContexts (s : State) (die : Nat) : State :=
  let s := { s with err := { s.err with deadIdx := tabPut s.err.deadIdx die true } }
  ((s.ctxs.filter (fun e => e.2.live && e.1 / 262144 == die)).map (·.1)).foldl (fun s i => endRequest s i .failed 0x10 0 0 0x28) s
/-- Mark a unit LOST: running attempts on it end CAPACITY_LOST, and the slots on it are not READY and suspend their requests (R437, R444). -/
def capLose (s : State) (u : W32) : State :=
  let s := s.onUnit u (fun x => { x with dpath := 6, recovering := false, testing := false })
  let keys := placesUsing s u
  let s := keys.foldl (fun s k => cancelCommand s k 0x10) s
  let s := if unitKind u = 5 ∨ unitKind u = 7 ∨ unitKind u = 8 then (unitDies u).foldl loseContexts s else s
  let s := (keys.flatMap (slotsOn s)).foldl loseSlot s
  disputeCheck (settleRecord s u 4) u
/-- CAPACITY_LOSS (R444): a unit is LOST, or a placement has failed; the record carries ACTION 4, or 7 for a placement. -/
def capacityLossOp (s : State) (u : W32) : State :=
  if !unitExists u then s
  else if unitKind u = 10 then
    match (s.places.map (·.1)).find? (fun k => unitPlace k == u) with
    | none => s
    | some key => settleSnow (failPlace (recordFault s { unit := u, cls := 12, code := 0, place := some key, detail := stepDetail s key } 7).2 key)
  else settleSnow (capLose (recordFault s { unit := u, cls := 7, code := 0, place := none, detail := 0 } 4).2 (lostUnit u))
/-- CAPACITY_LOSS. -/
def execCapacityLoss (unit : W32) (now : W64) (s : State) : Res := .next (capacityLossOp (s.atTime now) unit)

/-- ALT_PLACEMENT_TIMEOUT: 5 s have passed and no alternative has taken the slot; its requests end FAILED with CAPACITY_LOST (R374, R445). -/
def execAltPlacementTimeout (part : BitVec 3) (slot : BitVec 4) (now : W64) (s : State) : Res :=
  let sl := slotKey part.toNat slot.toNat
  let s := s.atTime now
  match (s.mslot sl).lostAt with
  | none => .next s
  | some t =>
    if s.since t < 5000000000 then .next s
    else
      let s := altSlot s sl
      if (s.mslot sl).ready then .next s
      else
        let s := s.setMslot sl { s.mslot sl with lostAt := none }
        .next (settleSnow ((s.ctxsWhere (fun x => x.live && x.slotKey == sl)).foldl (fun s i => failRequest s i 0x10) s))

/-! ## Fault reports (R427 to R430, R435 to R437) -/

/-- Take one report off those on their way. -/
def dropReport (r : FaultRep) : List FaultRep → List FaultRep
  | [] => []
  | x :: rest => if x = r then rest else x :: dropReport r rest
/-- Whether a report fences the unit it names: core logic or a router, for every class but those confined to one thread's access; of class 2, a fresh
error in local memory or the instruction store (R426, R435). -/
def fences (r : FaultRep) : Bool :=
  let core := unitKind r.unit == 0
  (core || unitKind r.unit == 1) && (r.cls == 1 || r.cls == 3 || r.cls == 6 || r.cls == 9 || (r.cls == 2 && core && !r.tile) || (r.cls == 5 && r.code == 0))
/-- Whether a report is hard whatever the self-test says, given the unit with the report counted (R435). -/
def hardFault (s : State) (r : FaultRep) : Bool :=
  let x := s.unit r.unit
  let window := bits s.set.policy 35 20 * 1000000000
  unitKind r.unit == 1 || (r.cls == 2 && !r.tile) || r.cls == 5 || r.cls == 9
    || decide (bits s.set.policy 11 8 ≤ (x.times.filter (fun t => decide (s.since t ≤ window))).length)
/-- The status that an attempt touched by a report is cancelled with; none for a latent checker fault (R436, R437). -/
def reportStatus (r : FaultRep) : Option Byte :=
  match r.cls.toNat with
  | 1 => some 0x07
  | 2 => some 0x09
  | 3 => some 0x07
  | 4 => some 0x09
  | 5 => some (if r.code = 0 then 0x07 else 0x0B)
  | 6 => some 0x07
  | 7 => some 0x10
  | 10 => some (if r.code = 9 then (if r.fenced then 0x07 else 0x09) else 0x0D)
  | _ => none
/-- The placements that a report touches: the one it names, and those that use the unit (R436). -/
def touched (s : State) (r : FaultRep) : List Nat :=
  let named := match r.place with | some k => [k] | none => []
  named ++ (placesUsing s r.unit).filter (fun k => !named.contains k)
/-- Whether the segment that a core lies in has its spare in use (R270). -/
def spareUsed (s : State) (c : CoreId) : Bool := (tabLook s.spares (segKey c)).isSome
/-- What is lost when a core or router cannot be replaced: the core, or for a router the die (R270). -/
def unrepaired (u : W32) : W32 := if unitKind u = 1 then unitId 7 (dieOf (BitVec.ofNat 14 u.toNat)) else u
/-- A core or router that cannot be replaced (R270). -/
def giveUp (s : State) (u : W32) : State :=
  let s := s.onUnit u (fun x => { x with recovering := false, testing := false })
  let s := settleRecord s u 4
  if unrepaired u = u then capLose s u
  else disputeCheck (capLose (recordFault s { unit := unrepaired u, cls := 3, code := 0, place := none, detail := 0 } 4).2 (unrepaired u)) u
/-- Fence the unit of a report and begin its self-test; a second hard fault of a spared segment is a loss of capacity (R270, R429, R435). -/
def fenceUnit (s : State) (r : FaultRep) : State :=
  let hard := hardFault s r
  let s := s.onUnit r.unit (fun x => { x with dpath := if x.dpath.toNat < 2 then 2 else x.dpath, recovering := true, testing := true, hard := x.hard || hard })
  if (s.unit r.unit).hard && spareUsed s (BitVec.ofNat 14 r.unit.toNat) then giveUp s r.unit else s
/-- A failed bridge link: the edge goes on with a spare link, degraded, or is lost when it needs a third (R266, R444). -/
def bridgeFault (s : State) (r : FaultRep) : State :=
  let i := bits r.unit 27 0
  if 2 ≤ tabGet 0 s.links (i / 8 % 8 * 2 + i / 4 % 2) then capLose s r.unit
  else s.onUnit r.unit (fun x => { x with dpath := if x.dpath = 0 then 1 else x.dpath })
/-- The ACTION that a report's record is written with (R447). -/
def reportAction (s : State) (r : FaultRep) : Byte :=
  if (s.unit r.unit).dpath = 6 then 4
  else if fences r then 0xFF
  else if unitKind r.unit = 3 ∧ r.cls = 3 then (if 2 ≤ tabGet 0 s.links (bits r.unit 27 0 / 8 % 8 * 2 + bits r.unit 27 0 / 4 % 2) then 4 else 3)
  else if (stepOf s r.place).isSome ∧ (reportStatus r).isSome then 1
  else 0
/-- The record of a report, and LCF for a checker that failed its own test (R427, R441, R447, R448). -/
def recordReport (s : State) (r : FaultRep) : State :=
  let s := (recordFault s r (reportAction s r)).2
  if r.cls = 9 then { s with err := { s.err with lcf := if s.err.lcf = 0xFF then s.err.lcf else s.err.lcf + 1 } } else s
/-- The commands and steps that the fault touched end with its status (R436, R437). -/
def cancelTouched (s : State) (keys : List Nat) (status : Option Byte) : State :=
  match status with
  | some st => keys.foldl (fun s k => cancelCommand s k st) s
  | none => s
/-- The unit of a report is fenced, or a bridge edge goes over to its spare link (R266, R428). -/
def containReport (s : State) (r : FaultRep) (lost : Bool) : State :=
  if lost then s
  else if fences r then fenceUnit s r
  else if unitKind r.unit = 3 ∧ r.cls = 3 then bridgeFault s r
  else s
/-- The cancelled command of the placement that a report names ends (R436). -/
def endReported (s : State) (place : Option Nat) : State :=
  match place with
  | some k => endCancelled s k
  | none => s
/-- A fault report reaches the Plinth: it becomes one record, the unit is fenced where its class says so, and the attempts it touches are
cancelled (R427, R429, R435, R436). -/
def faultReportOp (s : State) (r : FaultRep) : State :=
  let s := { s with err := { s.err with reports := dropReport r s.err.reports } }
  if !unitExists r.unit then s
  else
    let lost := decide ((s.unit r.unit).dpath = 6)
    let status := reportStatus r
    let s := recordReport s r
    let s := cancelTouched s (touched s r) status
    settleSnow (disputeCheck (endReported (containReport s r lost) r.place) r.unit)
/-- FAULT_REPORT (R427). -/
def execFaultReport (rep : FaultRep) (now : W64) (s : State) : Res := .next (faultReportOp (s.atTime now) rep)

/-- The destination that a request's unit names (R424). -/
def destOfUnit (r : W32) (target : Option CoreId) : Option Dest :=
  let i := bits r 27 0
  match target with
  | some c => some (.core c)
  | none =>
    if unitKind r = 6 then some (.slice (BitVec.ofNat 3 (i / 32)) (BitVec.ofNat 5 i))
    else if unitKind r = 4 then some (.hbm (BitVec.ofNat 3 (i / 64)) (BitVec.ofNat 6 i))
    else none
/-- The links that a packet crosses from a router to its destination (R253, R424). -/
def routeLinks : Nat → CoreId → Dest → List W32
  | 0, _, _ => []
  | fuel + 1, r, d =>
    match neighbour r (outPort r d) with
    | some n => linkUnit r n (outPort r d) :: routeLinks fuel n d
    | none => []
/-- Whether a request from a core to unit `r` counts as one to unit `u`: the unit itself; what lies behind a router or over a link; a unit of a die;
a channel of a stack (R424, R429). -/
def unitCovers (u r : W32) (core : CoreId) (target : Option CoreId) : Bool :=
  let dest := destOfUnit r target
  u == r || (unitKind u == 1 && dest.map destRouter == some (BitVec.ofNat 14 u.toNat))
    || ((unitKind u == 2 || unitKind u == 3) && (match dest with | some d => (routeLinks 255 core d).contains u | none => false))
    || (unitKind u == 7 && (unitDies r).contains (bits u 2 0))
    || ((unitKind u == 5 || unitKind u == 8) && unitKind r == 4 && bits r 8 5 == bits u 3 0)
/-- FENCE_NOTICE: a requester completes its open requests to a fenced unit as FENCED (R430, R432). -/
def execFenceNotice (unit : W32) (core : CoreId) (s : State) : Res :=
  if !isCore core then .fault .noSuchCore
  else if s.fenced unit then .next (fenceSlots s core (fun r => unitCovers unit r.unit core r.target))
  else .next s

/-! ## Watchdogs and heartbeats (R426, R434) -/

/-- LOST_ANSWER_TIMEOUT: a request open for 500 µs completes as FENCED, and the fault is reported against its target unit (R426, R434). -/
def execLostAnswerTimeout (core : CoreId) (slot : Nat) (now : W64) (s : State) : Res :=
  if !isCore core then .fault .noSuchCore
  else
    let s := s.atTime now
    match tabLook (s.core core).slots slot with
    | none => .next s
    | some r =>
      if !r.isOpen ∨ s.since r.sent < 500000 then .next s
      else
        let s := failSlot (closeSlot s core slot false) core slot r
        .next (s.report { unit := r.unit, cls := 6, code := 0, place := (s.core core).place, detail := r.addr })
/-- ROUTER_SILENT_TIMEOUT: a neighbour has received neither flit nor idle marker for 64 cycles (R426). -/
def execRouterSilentTimeout (router : CoreId) (now : W64) (s : State) : Res :=
  onCore s router (fun s =>
    (s.atTime now).report { unit := unitId 1 router.toNat, cls := 3, code := 0, place := (s.core router).place, detail := 0 })
/-- Whether a DMA channel of a core awaits an answer. -/
def Core.awaits (k : Core) (n : Nat) : Bool :=
  k.slots.any (fun e => e.2.isOpen && (match e.2.kind with | .dmaRead ch _ _ => ch.toNat == n | .dmaWrite ch _ _ => ch.toNat == n | _ => false))
/-- Whether an engine of a core holds work and awaits no answer: matrix queue, FILL and COPY unit, DMA channels. -/
def Core.engineWork (k : Core) : Bool :=
  !k.me.queue.isEmpty || !k.fcq.isEmpty || k.chans.any (fun e => (e.2.st == .active || e.2.st == .stopping) && !k.awaits e.1)
/-- ENGINE_WATCHDOG: an engine that holds work has made no progress for 4,096 cycles (R426). -/
def execEngineWatchdog (core : CoreId) (now : W64) (s : State) : Res :=
  onCore s core (fun s =>
    let s := s.atTime now
    if (s.core core).engineWork then s.report { unit := unitCore core, cls := 5, code := 0, place := (s.core core).place, detail := 0 } else s)
/-- HEARTBEAT_TIMEOUT: a compute die, an HBM controller tile or a management link has been silent for 10 µs; its capacity is lost (R426, R444). -/
def execHeartbeatTimeout (unit : W32) (now : W64) (s : State) : Res :=
  let s := s.atTime now
  if unitExists unit ∧ (unitKind unit = 7 ∨ unitKind unit = 8 ∨ (unitKind unit = 9 ∧ 8 ≤ bits unit 27 0)) then
    let (_, s) := recordFault s { unit := unit, cls := 7, code := 0, place := none, detail := 0 } 4
    let s := if lostUnit unit = unit then s else s.onUnit unit (fun x => { x with dpath := 6 })
    .next (settleSnow (capLose s (lostUnit unit)))
  else .next s

/-! ## Self-tests and spares (R267 to R270, R432, R435, R442) -/

/-- A core that returns to service: its requests of before are closed under new epochs (R432). -/
def closeAll (s : State) (c : CoreId) : State :=
  let k := s.core c
  s.setCore c { k with slots := k.slots.map (fun e => (e.1, if e.2.isOpen then { e.2 with isOpen := false, epoch := e.2.epoch + 1 } else e.2)) }
/-- A unit that answers again has a new UEPOCH, and the placements that use it may dispatch (R432). -/
def reenter (s : State) (u : W32) : State :=
  let s := s.onUnit u (fun x => { x with uepoch := x.uepoch + 1 })
  let s := if unitKind u = 0 then closeAll s (BitVec.ofNat 14 u.toNat) else s
  (placesUsing s u).foldl (fun s k => kick (endCancelled s k) k) s
/-- A change of a unit's states: it re-enters service when it was fenced and is so no more (R432). -/
def changeUnit (s : State) (u : W32) (f : Unit → Unit) : State :=
  let was := s.fenced u
  let s := s.onUnit u f
  if was && !s.fenced u then reenter s u else s
/-- The data path takes a unit back into service: IN_SERVICE, or DEGRADED where its capacity is reduced (R425, R435). -/
def unfence (s : State) (u : W32) : State :=
  let d := restState s u
  reenter (s.onUnit u (fun x => { x with dpath := d, recovering := false, testing := false, hard := false })) u
/-- ACTION of a recovery on a unit: `a` when a step is replayed on it, none otherwise. -/
def recoveryAction (s : State) (u : W32) (a : Byte) : Byte :=
  if (placesUsing s u).any (fun k => !(slotsOn s k).isEmpty) then a else 0
/-- SELF_TEST_COMPLETE: a transient fault's unit is unfenced and its work replayed; a hard one waits for its spare, or is given up (R270,
R435). -/
def execSelfTestComplete (unit : W32) (pass : Bool) (now : W64) (s : State) : Res :=
  let s := s.atTime now
  let x := s.unit unit
  if !x.testing then .next s
  else if pass && !x.hard then .next (disputeCheck (unfence (settleRecord s unit (recoveryAction s unit 1)) unit) unit)
  else
    let s := s.onUnit unit (fun x => { x with testing := false, hard := true })
    if spareUsed s (BitVec.ofNat 14 unit.toNat) then .next (settleSnow (giveUp s unit)) else .next s

/-- Whether a core waits for a spare: its logic or its router has a hard fault (R435). -/
def awaitsSpare (s : State) (c : CoreId) : Bool :=
  let ready (u : W32) : Bool := let x := s.unit u; x.recovering && x.hard && !x.testing
  ready (unitCore c) || ready (unitId 1 c.toNat)
/-- A spare takes a core's place: the segment's tables are rewritten, packets held in the failed router are discarded, those addressed to the core
before the switch are turned away where they arrive, and the core stands with everything at its reset value, on another physical core, with the
MX_WIDTH of the spare's position, whose W the placement records (R183, R224, R267, R269, R436). -/
def substitute (s : State) (c : CoreId) : State :=
  let s := { s with spares := tabPut s.spares (segKey c) c.toNat }
  let s := if s.fenced (unitId 1 c.toNat) then { s with net := s.net.filter (fun p => p.at_ ≠ c) } else s
  let s := { s with linkHold := s.linkHold.filter (fun e => decide (e.1 / 4 ≠ c.toNat))
                    net := s.net.map (fun (p : Packet) => if p.dst = .core c then { p with late := true } else p) }
  let fresh (s : State) (key : Nat) (cfg : PlaceCfg) (e : CoreEntry) (place : Option Nat) : State :=
    let k := createdCore s key cfg e
    closeAll (s.setCore c { k with place := place, insts := [], me := { k.me with width := spareWidth s c } }) c
  let at_ : Option Nat := (s.core c).place
  match at_ with
  | none => fresh s 0 {} { core := c, altitude := 0, istoreLen := 0, preloadLen := 0, image := 0, startPc := [] } none
  | some key =>
    let p := s.place key
    match p.cores.find? (fun e => e.core == c) with
    | none => s
    | some e =>
      let s := recordW (fresh (cancelCommand s key 0x07) key p.cfg e (some key)) key c
      s.setPlace key { s.place key with loading := true }
/-- SPARE_SUBSTITUTION (R182, R269): for a core with a hard fault, or one that needs more than one bypass in a cube column, whose segment's
spare is free. -/
def execSpareSubstitution (core : CoreId) (now : W64) (s : State) : Res :=
  onCore s core (fun s =>
    let s := s.atTime now
    if spareUsed s core then s
    else if awaitsSpare s core then substitute s core
    else if overBypassed s core then
      substitute (s.onUnit (unitCore core) (fun x => { x with dpath := if x.dpath.toNat < 2 then 2 else x.dpath, recovering := true, testing := false, hard := true })) core
    else s)
/-- SPARE_SUBSTITUTION_COMPLETE: the load image is applied, the core is IN_SERVICE, and the replayed step can be dispatched (R442). A load
image that cannot be read leaves the core fenced. -/
def execSpareSubstitutionComplete (core : CoreId) (now : W64) (s : State) : Res :=
  onCore s core (fun s =>
    let s := s.atTime now
    if tabLook s.spares (segKey core) ≠ some core.toNat ∨ !awaitsSpare s core then s
    else
      let back (s : State) : State :=
        let s := settleRecord (settleRecord s (unitCore core) 2) (unitId 1 core.toNat) 2
        let s := if (s.unit (unitId 1 core.toNat)).recovering then unfence s (unitId 1 core.toNat) else s
        let s := if (s.unit (unitCore core)).recovering then unfence s (unitCore core) else s
        disputeCheck (disputeCheck s (unitCore core)) (unitId 1 core.toNat)
      match (s.core core).place with
      | none => back s
      | some key =>
        match (s.place key).cores.find? (fun e => e.core == core) with
        | none => back s
        | some e =>
          let (ok, s) := applyImage s e
          if !ok then s
          else
            let s := s.setPlace key { s.place key with loading := false }
            kick (back s) key)

/-! ## The Plinth (R439 to R441, R529) -/

/-- The twin controllers disagree: they restart, or stop for good at a second mismatch within 1 s (R439). -/
def mismatch (s : State) (cls : Byte) : State :=
  if s.err.ctlStopped then s
  else
    let again := match s.err.lastMismatch with | some t => decide (s.since t ≤ 1000000000) | none => false
    let (_, s) := recordFault s { unit := unitPlinth 0, cls := cls, code := 0, place := none, detail := 0 } (if again then 0 else 6)
    { s with err := { s.err with lastMismatch := some s.time, ctlRestart := !again, ctlStopped := again } }
/-- SCHEDULER_MISMATCH: both copies reload; serving commands wait (R440). -/
def execSchedulerMismatch (now : W64) (s : State) : Res :=
  let s := s.atTime now
  let (_, s) := recordFault s { unit := unitPlinth 1, cls := 8, code := 0, place := none, detail := 0 } 0
  .next { s with err := { s.err with schReload := true } }
/-- One comparator's injected mismatch, of the twin controllers (0) or of the scheduler and admission hardware (1): one that misses it puts the
part in DEGRADED_SAFETY; DETAIL is the time of its last passing test (R440, R441, R448). -/
def comparatorTest (s : State) (n : Nat) (detected : Bool) : State :=
  if detected then { s with err := { s.err with latest := tabPut s.err.latest n s.time } }
  else
    let (_, s) := recordFault s { unit := unitPlinth n, cls := 9, code := 0, place := none, detail := tabGet 0 s.err.latest n } 5
    { s with err := { s.err with degraded := true, lcf := if s.err.lcf = 0xFF then s.err.lcf else s.err.lcf + 1 } }
/-- LOCKSTEP_CHECKER_TEST: a mismatch is injected into each comparator (R441). -/
def execLockstepCheckerTest (detected : BitVec 2) (now : W64) (s : State) : Res :=
  .next (comparatorTest (comparatorTest (s.atTime now) 0 (detected.getLsbD 0)) 1 (detected.getLsbD 1))

/-! ## Management's commands (R439, R448 to R450, R505, R506) -/

/-- Whether a request comes from where a package-wide control obeys: management, or a physical function (R481, R505). -/
def packageRight (r : Requester) : Bool := match r with | .mgmt => true | .host f => (partNo f).isNone
/-- A request on package controls: ignored before READY and from a VF, held while the twin controllers restart, and answered NOT_READY once they
have stopped (R439, R480, R481). -/
def mgmtEntry (self : Instr) (r : Requester) (act : State → State) (s : State) : Res :=
  if s.phase ≠ .ready ∨ !packageRight r then .next s
  else if s.err.ctlStopped then .next (s.emit (.reply r [0x0E]))
  else if s.err.ctlRestart then .next (holdCtl s self)
  else .next (act s)

/-- The remap entries of an instance, which stay active until power-down (R355). -/
def keptInst (i : Inst) : Inst := { remap := i.remap.filter (fun e => e.2.v) }
/-- The integrity registers of some instances at their reset values. -/
def resetInsts (t : Tab Inst) (f : Nat → Bool) : Tab Inst :=
  (t.map (fun e => (e.1, if f e.1 then keptInst e.2 else e.2))).filter (fun e => e.2 ≠ ({} : Inst))
/-- The registers of core logic at their reset values: its memories and what its router holds stay (R14, R511). DEDUCED: log 153. -/
def resetCore (s : State) (c : CoreId) : State :=
  let k := s.core c
  let new : Core := match k.place with
    | some key => createdCore s key (s.place key).cfg ((s.place key).cores.find? (fun e => e.core == c) |>.getD
        { core := c, altitude := k.altitude, istoreLen := 0, preloadLen := 0, image := 0, startPc := [] })
    | none => { me := { width := k.me.width } }
  s.setCore c { new with lm := k.lm, istore := k.istore, insts := resetInsts k.insts (fun _ => true), e2e := 0, stale := 0, slots := k.slots
                         perf := k.perf.filter (fun e => decide (0x0C40 ≤ e.1)), rotCls := k.rotCls, rotPort := k.rotPort, group := k.group
                         crcFails := k.crcFails, replay := k.replay }
/-- The registers of a router at their reset values: its counters and its turns (R14, R282, R511). -/
def resetRouter (s : State) (c : CoreId) : State :=
  let k := s.core c
  s.setCore c { k with perf := k.perf.filter (fun e => decide (e.1 < 0x0C40)), rotCls := [], rotPort := [], group := [], crcFails := [] }
/-- A unit reset: each register of the unit at its reset value, and everything else kept (R14, R511). A link, an edge, a Plinth block and a placement
have no register of their own. DEDUCED: log 153. -/
def resetUnit (s : State) (u : W32) : State :=
  let i := bits u 27 0
  let chans (f : Nat → Bool) : State := { s with hbmInst := resetInsts s.hbmInst f }
  match unitKind u with
  | 0 => resetCore s (BitVec.ofNat 14 i)
  | 1 => resetRouter s (BitVec.ofNat 14 i)
  | 4 => chans (· == i)
  | 5 => chans (fun n => n / 32 == i)
  | 6 => { s with sliceInst := resetInsts s.sliceInst (· == i) }
  | 7 =>
    let s := { s with sliceInst := resetInsts s.sliceInst (fun n => n / 32 == i) }
    ((s.cores.map (·.1)).filter (fun n => n / 2048 == i)).foldl (fun s n => resetRouter (resetCore s (BitVec.ofNat 14 n)) (BitVec.ofNat 14 n)) s
  | 8 => chans (fun n => n / 32 == i)
  | _ => s

/-- Set the management state of a unit: state 3 resets it, a reset or an update takes a new UEPOCH, and lowering the state of a fenced unit can bring
it back (R432, R449, R511). -/
def applySet (s : State) (u : W32) (st : BitVec 4) : State :=
  let s := changeUnit s u (fun x => { x with mgmt := st, setTo := none, uepoch := if st = 3 ∨ st = 4 then x.uepoch + 1 else x.uepoch })
  disputeCheck (if st = 3 then resetUnit s u else s) u
/-- SET: raising the effective state of a unit in use drains its placements first; lowering MGMT to 0 on a unit whose DPATH is 0 needs a
self-test that passes (R449). -/
def unitSetOp (s : State) (u : W32) (st : BitVec 4) (pass : Bool) : State :=
  let x := s.unit u
  if !unitExists u || x.setTo.isSome || !(st == 0 || st == 2 || st == 3 || st == 4 || st == 5) then s
  else if s.effective u < st.toNat ∧ placesUsing s u ≠ [] then
    (placesUsing s u).foldl drainPlace (s.onUnit u (fun x => { x with setTo := some st }))
  else if st = 0 ∧ x.mgmt ≠ 0 ∧ x.dpath = 0 then
    if pass then disputeCheck (unfence (s.onUnit u (fun x => { x with mgmt := 0 })) u) u else disputeCheck s u
  else applySet s u st
/-- ERR_UNIT_SET (R449). -/
def execErrUnitSet (by_ : Requester) (unit : W32) (state : BitVec 4) (pass : Bool) (now : W64) (s : State) : Res :=
  mgmtEntry (.errUnitSet by_ unit state pass now) by_ (fun s => unitSetOp (s.atTime now) unit state pass) s
/-- A SET waits for the last of its drains. -/
def settleSets (s : State) : State :=
  ((s.err.units.filter (fun e => e.2.setTo.isSome)).map (·.1)).foldl (fun s n =>
    let u : W32 := BitVec.ofNat 32 n
    match (s.unit u).setTo with
    | none => s
    | some st => if (placesUsing s u).all (fun k => (s.place k).drained) then applySet s u st else s) s
/-- DRAIN_COMPLETE (R307): the cached contexts of the partition have been written back (R362), the drain image stands, and a SET that waited for it
goes on (R449). -/
def execDrainComplete (place : Nat) (s : State) : Res :=
  .next (settleSets (if (s.place place).draining && drainedOut s place then finishDrain (writeBackPart s (place / 256)) place else s))

/-- RECONCILE: ACCEPT takes the data path's state; RETEST runs the self-test. Both clear DISPUTED and write a record with ACTION 0 (R450). -/
def unitReconcileOp (s : State) (u : W32) (arg : BitVec 4) (pass : Bool) : State :=
  if !unitExists u || (s.unit u).setTo.isSome || (arg != 0 && arg != 1) then s
  else
    let (_, s) := recordFault s { unit := u, cls := 0, code := 0, place := none, detail := 0 } 0
    (changeUnit s u (fun x => if arg = 1 ∧ pass then { x with dpath := x.mgmt } else { x with mgmt := x.dpath })).onUnit u
      (fun x => { x with disputed := false })
/-- ERR_UNIT_RECONCILE (R450). -/
def execErrUnitReconcile (by_ : Requester) (unit : W32) (arg : BitVec 4) (pass : Bool) (now : W64) (s : State) : Res :=
  mgmtEntry (.errUnitReconcile by_ unit arg pass now) by_ (fun s => unitReconcileOp (s.atTime now) unit arg pass) s

/-- ERR_POLICY as written: 0 in REPLAY_MAX or HARD_N loads 1, reserved bits read zero (R448). -/
def policyOf (val : W64) : W64 :=
  let one (n : Nat) : Nat := if n = 0 then 1 else n
  BitVec.ofNat 64 (bits val 35 20 * 2 ^ 20 + one (bits val 11 8) * 2 ^ 8 + one (bits val 2 0))
/-- A write to ERR_POLICY. -/
def policyOp (s : State) (val : W64) : State := { s with set := { s.set with policy := policyOf val } }
/-- ERR_POLICY_WRITE (R448). -/
def execErrPolicyWrite (by_ : Requester) (val : W64) (s : State) : Res :=
  mgmtEntry (.errPolicyWrite by_ val) by_ (fun s => policyOp s val) s

end Sys2Proof.Machine
end

