-- ==== Sys2Proof/Machine/Secure.lean ====
section
/-! DEFINITION. Security (R451 to R469): the entropy source, seal keys, TDIs and IDE, SPDM, debug unlock, lifecycle and firmware images. -/

namespace Sys2Proof.Machine

/-! ## Seal keys and the entropy source (R461, R468) -/

/-- The key id after one (R468): 0 is skipped. -/
def nextKeyId (i : Byte) : Byte := if i = 0xFF then 1 else i + 1
/-- A rotation: a new current key; the old current key is the previous one, and the old previous key is destroyed (R468). -/
def rotateKeys (s : State) (p : Nat) : State :=
  match tabLook s.parts p with
  | none => s
  | some _ =>
    let (k, s) := newKey s
    let x := tabGet ({} : Part) s.parts p
    { s with parts := tabPut s.parts p { x with curId := nextKeyId x.curId, prevId := x.curId, curKey := k, prevKey := x.curKey, rotated := s.time } }
/-- ROTATE_S of a partition. -/
def State.rotateS (s : State) (p : Nat) : W32 := tabGet 86400 s.set.rotateS p
/-- A write to SEC_HPKE: ROTATE_S, and a rotation that waits while the DRBG gives no output (R461, R468). -/
def hpkeWrite (self : Instr) (s : State) (p : Nat) (val : W64) : State :=
  if (tabLook s.parts p).isNone then s
  else
    let s := { s with set := { s.set with rotateS := tabPut s.set.rotateS p (BitVec.ofNat 32 (bits val 63 32)) } }
    if !val.getLsbD 16 then s else if s.sec.entropyBad.isSome then holdDraw s self else rotateKeys s p
/-- SEC_HPKE_ROTATE (R468). -/
def execSecHpkeRotate (part : BitVec 3) (val now : W64) (s : State) : Res :=
  let s := s.atTime now
  if s.phase = .ready then .next (hpkeWrite (.secHpkeRotate part val now) s part.toNat val) else .next s
/-- HPKE_AUTO_ROTATE: ROTATE_S seconds have passed since the last rotation; 0 disables it (R468). -/
def execHpkeAutoRotate (part : BitVec 3) (now : W64) (s : State) : Res :=
  let s := s.atTime now
  let p := part.toNat
  match tabLook s.parts p with
  | none => .next s
  | some x =>
    if s.phase ≠ .ready ∨ s.rotateS p = 0 ∨ s.since x.rotated < (s.rotateS p).toNat * 1000000000 then .next s
    else if s.sec.entropyBad.isSome then .next (holdDraw s (.hpkeAutoRotate part now))
    else .next (rotateKeys s p)
/-- ENTROPY_HEALTH_TEST_FAIL: ENTROPY reads 1 and every draw waits (R461). -/
def execEntropyHealthTestFail (now : W64) (s : State) : Res :=
  let s := s.atTime now
  if s.sec.entropyBad.isSome then .next s else .next { s with sec := { s.sec with entropyBad := some s.time } }
/-- ENTROPY_FAIL_TIMEOUT: a failure that lasts 10 ms is a fault of the crypto engine, unit KIND 9, INDEX 2; its class is a free value (R461). -/
def execEntropyFailTimeout (now : W64) (s : State) : Res :=
  let s := s.atTime now
  match s.sec.entropyBad with
  | none => .next s
  | some t =>
    if s.since t < 10000000 then .next s
    else
      let (cls, s) := s.freeVal 8
      .next (recordFault s { unit := unitPlinth 2, cls := cls, code := 0, place := none, detail := 0 } 0).2

/-! ## TDIs and IDE (R462, R463) -/

/-- A TDI leaves RUN: its partition is suspended, and its requests pause once the steps in flight have been committed (R463). -/
def leaveRun (s : State) (p : Nat) (st : TdiSt) : State :=
  match tabLook s.parts p with
  | none => s
  | some x =>
    let s := { s with parts := tabPut s.parts p { x with tdi := st, suspended := x.suspended || x.tdi == .run } }
    if x.tdi = .run then pausePart s p else s
/-- TDI_LEAVE_RUN (R463). -/
def execTdiLeaveRun (part : BitVec 3) (now : W64) (s : State) : Res :=
  let s := s.atTime now
  match tabLook s.parts part.toNat with
  | some { tdi := .run, .. } => .next (settleSnow (leaveRun s part.toNat .configUnlocked))
  | _ => .next s
/-- A locked TDI enters RUN: the held output is written and the requests of READY slots resume (R462, R463). -/
def enterRun (s : State) (p : Nat) : State :=
  match tabLook s.parts p with
  | none => s
  | some x =>
    if x.tdi ≠ .configLocked then s
    else
      let s := { s with parts := tabPut s.parts p { x with tdi := .run, suspended := false, heldOut := [] } }
      if !x.suspended then s
      else
        let s := (x.heldOut.filter (fun i => (s.ctx i).live)).foldl writeOutput s
        let drained (k : Nat) : Bool := match (s.mslot k).place with | some key => (s.place key).drained || (s.place key).draining | none => false
        ((List.range 16).map (slotKey p)).foldl (fun s k => if (s.mslot k).ready && !drained k then resumeSlot s k else s) s
/-- TDI_ENTER_RUN (R463). -/
def execTdiEnterRun (part : BitVec 3) (now : W64) (s : State) : Res := .next (settleSnow (enterRun (s.atTime now) part.toNat))
/-- TDI_CONFIG_LOCK: a TDISP request (R462). LOCK acts in CONFIG_UNLOCKED, START in CONFIG_LOCKED, STOP returns to CONFIG_UNLOCKED, and an
error leads to ERROR. -/
def tdispOp (s : State) (p : Nat) (req : TdispReq) : State :=
  match tabLook s.parts p with
  | none => s
  | some x =>
    match req with
    | .lock => if x.tdi = .configUnlocked then { s with parts := tabPut s.parts p { x with tdi := .configLocked } } else s
    | .start => enterRun s p
    | .stop => leaveRun s p .configUnlocked
    | .err => leaveRun s p .error
/-- TDI_CONFIG_LOCK. -/
def execTdiConfigLock (part : BitVec 3) (req : TdispReq) (s : State) : Res := .next (settleSnow (tdispOp s part.toNat req))
/-- Whether a function is the interface of a TDI in RUN. -/
def tdiRuns (s : State) (f : FnRef) : Bool :=
  match partNo f with
  | none => false
  | some p => match tabLook s.parts p with | some x => x.tdi == .run | none => false
/-- IDE_TLP_RECEIVE: a TDI in RUN accepts a TLP on its bound stream with the T bit, and drops and counts any other (R462). -/
def execIdeTlpReceive (fn : FnRef) (stream : Byte) (tbit tagOk : Bool) (s : State) : Res :=
  if !s.present fn ∨ !s.up then .next s
  else
    let x := s.fn fn
    if tdiRuns s fn && !(x.stream == some stream && tbit && tagOk) then .next (s.setFn fn { x with tlpErr := x.tlpErr + 1 })
    else .next (s.setFn fn { x with tlpOk := x.tlpOk + 1 })
/-- Whether a function of a port has an SPDM secure session established (R462, R464). DEDUCED: log 160. -/
def State.hasSession (s : State) (port : BitVec 1) : Bool :=
  s.sec.sessions.any (fun r => match r with | .host g => g.port == port | .mgmt => false)
/-- IDE_KM_KEY_PROGRAMMING: stream keys come over an SPDM secure session of their port only (R462). -/
def execIdeKmKeyProgramming (fn : FnRef) (stream : Byte) (inSession : Bool) (s : State) : Res :=
  if s.present fn && s.up && inSession && s.hasSession fn.port then .next (s.setFn fn { s.fn fn with stream := some stream }) else .next s

/-! ## SPDM (R464, R465) -/

/-- SEC_STATE as a function reads it (R458). -/
def secState (s : State) (part : Nat) : W64 :=
  BitVec.ofNat 64 (s.sec.lifecycle.toNat + flagAt s.sec.recovery 3 + flagAt s.sec.debug 4 + flagAt s.sec.entropyBad.isSome 5 + part * 2 ^ 8
    + s.sec.svn.toNat * 2 ^ 32)
/-- Partition number of a requester, 0xFF for a physical function and for management. -/
def requesterPart (r : Requester) : Nat := match r with | .mgmt => 0xFF | .host f => (partNo f).getD 0xFF
/-- Whether a requester may see what belongs to a partition (R465). -/
def seesPart (r : Requester) (p : Nat) : Bool := match r with | .mgmt => true | .host f => partNo f == some p
/-- Whether SPDM answers a requester: from boot stage 2 on, on a function that exists (R464, R514). -/
def spdmUp (s : State) (r : Requester) : Bool :=
  s.up && decide (2 ≤ s.stage) && (match r with | .mgmt => true | .host f => s.present f)
/-- Stepping B0, as Revision ID and as device version (R2). -/
def revisionB0 : Byte := 0x10
/-- The Revision ID that a function's configuration space shows, the same on both ports; none of a function that is absent (R2, R478, R479). -/
def State.revisionId (s : State) (f : FnRef) : Option Byte := if s.present f then some revisionB0 else none
/-- The content of a measurement index, where the requester sees it (R465); index 2 shows the SVN of the running image. DEDUCED: log 162. -/
def measurement (s : State) (r : Requester) (i : Nat) : Option (List Byte) :=
  let exists_ (p : Nat) : Bool := (tabLook s.parts p).isSome && seesPart r p
  if i = 1 then some (Config.fixedMeasurement 1)
  else if i = 2 then some (s.sec.running ++ [s.sec.runSvn.truncate 8, revisionB0])
  else if i = 3 then some (leBytes 5 (secState s (requesterPart r)).toNat ++ leBytes 1 (flagAt s.err.degraded 0))
  else if i = 4 then some (Config.fixedMeasurement 4)
  else if 0x10 ≤ i ∧ i < 0x90 then
    let m := s.mslot (i - 0x10)
    if exists_ ((i - 0x10) / 16) then
      some (fitLen 48 (m.weights.getD []) ++ fitLen 48 (m.programs.getD []) ++ leBytes 8 m.loadSeq.toNat
        ++ leBytes 2 (s.slotCfg (i - 0x10)).tpp.toNat ++ leBytes 6 0)
    else none
  else if 0xE0 ≤ i ∧ i < 0xE8 then
    let x := tabGet ({} : Part) s.parts (i - 0xE0)
    if exists_ (i - 0xE0) then
      some ([x.curId] ++ Config.sealPublic x.curKey ++ (if x.prevId = 0 then [] else [x.prevId] ++ Config.sealPublic x.prevKey))
    else none
  else if 0xE8 ≤ i ∧ i < 0xF0 then
    if exists_ (i - 0xE8) then some ([(tabGet ({} : PartCfg) s.set.parts (i - 0xE8)).dies] ++ Config.tdiIds (i - 0xE8)) else none
  else none
/-- The measurement blocks that a request for an index names: index 0xFF names all that the requester sees, 0 none (their count). -/
def measBlocks (s : State) (r : Requester) (i : Nat) : List Byte :=
  let one (j : Nat) : List Byte := match measurement s r j with | some b => leBytes 1 j ++ leBytes 2 b.length ++ b | none => []
  let all := (List.range 0xF0).filter (fun j => (measurement s r j).isSome)
  if i = 0 then leBytes 1 all.length else if i = 0xFF then all.flatMap one else one i
/-- Answer an SPDM request, number `n`, with a payload. -/
def spdmAnswer (s : State) (r : Requester) (n : Nat) (payload : List Byte) : State :=
  s.emit (.reply r (Config.spdmReply s.sec.alias_ n payload ((s.sec.meas.filter (fun e => e.1 == r)).flatMap (·.2))))
/-- A request that the controllers serve: held in a restart, and NOT_READY once they have stopped (R439). DEDUCED: log 155. -/
def ctlEntry (self : Instr) (r : Requester) (act : State → State) (s : State) : Res :=
  if s.err.ctlStopped then .next (s.emit (.reply r [0x0E]))
  else if s.err.ctlRestart then .next (holdCtl s self)
  else .next (act s)
/-- An SPDM request that draws no random value (R439, R464). -/
def spdmPlain (self : Instr) (r : Requester) (act : State → State) (s : State) : Res :=
  if spdmUp s r then ctlEntry self r act s else .next s
/-- The effect of an SPDM request whose answer draws from the DRBG: it waits while the DRBG gives no output (R461). -/
def drawAct (self : Instr) (act : State → State) (s : State) : State := if s.sec.entropyBad.isSome then holdDraw s self else act s
/-- An SPDM request whose answer draws from the DRBG. -/
def spdmDraw (self : Instr) (r : Requester) (act : State → State) (s : State) : Res := spdmPlain self r (drawAct self act) s
/-- GET_VERSION. -/
def execGetVersion (by_ : Requester) (s : State) : Res := spdmPlain (.getVersion by_) by_ (fun s => spdmAnswer s by_ 1 []) s
/-- GET_CAPABILITIES. -/
def execGetCapabilities (by_ : Requester) (s : State) : Res := spdmPlain (.getCapabilities by_) by_ (fun s => spdmAnswer s by_ 2 []) s
/-- NEGOTIATE_ALGORITHMS. -/
def execNegotiateAlgorithms (by_ : Requester) (s : State) : Res :=
  spdmPlain (.negotiateAlgorithms by_) by_ (fun s => spdmAnswer s by_ 3 []) s
/-- The effect of GET_DIGESTS: the chains hold the DeviceID certificates once these stand in MRAM (R452). -/
def digestsAct (by_ : Requester) (s : State) : State := spdmAnswer s by_ 4 [if s.sec.certs then 1 else 0]
/-- GET_DIGESTS. -/
def execGetDigests (by_ : Requester) (s : State) : Res := spdmPlain (.getDigests by_) by_ (digestsAct by_) s
/-- The effect of GET_CERTIFICATE. -/
def certificateAct (by_ : Requester) (slot : Byte) (s : State) : State := spdmAnswer s by_ 5 [slot, if s.sec.certs then 1 else 0]
/-- GET_CERTIFICATE: slot 0 is the ECDSA chain, slot 1 the ML-DSA-87 chain. -/
def execGetCertificate (by_ : Requester) (slot : Byte) (s : State) : Res :=
  spdmPlain (.getCertificate by_ slot) by_ (certificateAct by_ slot) s
/-- The random value of an answer, 32 B from the DRBG; the last one that the part has sent to management is the nonce that a debug unlock token
names (R457, R461). DESIGN CHOICE: log 138. -/
def drawNonce (by_ : Requester) (s : State) : List Byte × State :=
  let (v, s) := s.freeVal 256
  let n := leBytes 32 v.toNat
  (n, if by_ = .mgmt then { s with sec := { s.sec with nonce := n } } else s)
/-- The effect of CHALLENGE. -/
def challengeAct (by_ : Requester) (nonce : List Byte) (s : State) : State :=
  let (n, s) := drawNonce by_ s
  spdmAnswer s by_ 6 (nonce ++ n)
/-- CHALLENGE. -/
def execChallenge (by_ : Requester) (nonce : List Byte) (s : State) : Res := spdmDraw (.challenge by_ nonce) by_ (challengeAct by_ nonce) s
/-- The effect of GET_MEASUREMENTS; the response is kept as the requester's preceding one. -/
def getMeasurementsAct (by_ : Requester) (index : Byte) (nonce : List Byte) (s : State) : State :=
  let bs := measBlocks s by_ index.toNat
  let (n, s) := drawNonce by_ s
  let s := spdmAnswer s by_ 7 (bs ++ nonce ++ n)
  { s with sec := { s.sec with meas := (by_, bs ++ nonce ++ n) :: s.sec.meas.filter (fun e => e.1 != by_) } }
/-- GET_MEASUREMENTS (R465). -/
def execGetMeasurements (by_ : Requester) (index : Byte) (nonce : List Byte) (s : State) : Res :=
  spdmDraw (.getMeasurements by_ index nonce) by_ (getMeasurementsAct by_ index nonce) s
/-- The effect of KEY_EXCHANGE: a session opens. -/
def keyExchangeAct (by_ : Requester) (data : List Byte) (s : State) : State :=
  let (n, s) := drawNonce by_ s
  let s := spdmAnswer s by_ 8 (data ++ n)
  { s with sec := { s.sec with opening := by_ :: s.sec.opening.filter (· != by_) } }
/-- KEY_EXCHANGE. -/
def execKeyExchange (by_ : Requester) (data : List Byte) (s : State) : Res := spdmDraw (.keyExchange by_ data) by_ (keyExchangeAct by_ data) s
/-- The effect of FINISH: it establishes the session that KEY_EXCHANGE opened. -/
def finishSessionAct (by_ : Requester) (data : List Byte) (s : State) : State :=
  let s' := spdmAnswer s by_ 9 data
  if s.sec.opening.contains by_ then
    { s' with sec := { s'.sec with opening := s'.sec.opening.filter (· != by_), sessions := by_ :: s'.sec.sessions.filter (· != by_) } }
  else s'
/-- FINISH. -/
def execFinish (by_ : Requester) (data : List Byte) (s : State) : Res := spdmPlain (.finish by_ data) by_ (finishSessionAct by_ data) s
/-- The effect of END_SESSION. -/
def endSessionAct (by_ : Requester) (s : State) : State :=
  let s := spdmAnswer s by_ 10 []
  { s with sec := { s.sec with opening := s.sec.opening.filter (· != by_), sessions := s.sec.sessions.filter (· != by_) } }
/-- END_SESSION. -/
def execEndSession (by_ : Requester) (s : State) : Res := spdmPlain (.endSession by_) by_ (endSessionAct by_) s
/-- The effect of PQ_SIGN: an ML-DSA-87 signature over the transcript of the preceding MEASUREMENTS response; another vendor's request, or one
without such a response, is answered with an error (R464). -/
def pqSignAct (by_ : Requester) (vendor : BitVec 16) (s : State) : State :=
  spdmAnswer s by_ (if vendor = 0x4B52 ∧ (s.sec.meas.any (fun e => e.1 == by_)) then 11 else 12) []
/-- PQ_SIGN. -/
def execPqSign (by_ : Requester) (vendor : BitVec 16) (s : State) : Res := spdmPlain (.pqSign by_ vendor) by_ (pqSignAct by_ vendor) s

/-! ## Debug, lifecycle, firmware (R453 to R457, R506) -/

/-- Full zeroisation: live requests end CANCELLED, partitions are destroyed, the device keys of the dies and the Plinth SRAM are gone, and with
them what lay in the reserved ranges and the fault log (R457). -/
def zeroise (s : State) : State :=
  let s := cancelAll s (fun _ => true) 0x04
  let s := (s.parts.map (·.1)).foldl destroyPart s
  let s := (List.range 8).foldl clearDie (performAll s)
  { s with err := { s.err with log := [] } }
/-- The inputs of the Alias keys: the measurement of the running firmware, the fused SVN, the lifecycle state and the debug state (R451). -/
def aliasInputs (x : Sec) (debug : Bool) : List Byte := x.running ++ [x.svn, x.lifecycle.zeroExtend 8, if debug then 1 else 0]
/-- DEBUG_UNLOCK: from DEPLOYED on a token is needed, good for one use and for the nonce issued last; the Alias keys
are derived anew (R451, R456, R457). DEDUCED: log 138, log 159. -/
def debugOp (s : State) (token : List Byte) : State :=
  if s.sec.lifecycle.toNat < 2 ∨ (Config.debugTokenOk s.sec.nonce token ∧ !s.sec.used.contains token) then
    let s := zeroise s
    { s with sec := { s.sec with debug := true, used := token :: s.sec.used, alias_ := aliasInputs s.sec true } }
  else s
/-- DEBUG_UNLOCK. -/
def execDebugUnlock (token : List Byte) (now : W64) (s : State) : Res :=
  let s := s.atTime now
  spdmPlain (.debugUnlock token now) .mgmt (fun s => settleSnow (debugOp s token)) s
/-- LIFECYCLE_TRANSITION: only the next state, with what R456 requires. -/
def lifecycleOp (s : State) (target : BitVec 2) (token : List Byte) : State :=
  if target.toNat ≠ s.sec.lifecycle.toNat + 1 ∨ !Config.lifecycleOk target.toNat token then s
  else
    let s := if target = 3 then zeroise s else s
    { s with sec := { s.sec with lifecycle := target, certs := s.sec.certs || target == 1
                                 testInert := if target = 1 then true else if target = 3 then false else s.sec.testInert } }
/-- LIFECYCLE_TRANSITION. -/
def execLifecycleTransition (target : BitVec 2) (token : List Byte) (now : W64) (s : State) : Res :=
  let s := s.atTime now
  spdmPlain (.lifecycleTransition target token now) .mgmt (fun s => settleSnow (lifecycleOp s target token)) s
/-- Management's requests that the controllers serve from the start of boot on; in recovery the ROM serves them (R439, R455). -/
def firmwareEntry (self : Instr) (act : State → State) (s : State) : Res := if s.up then ctlEntry self .mgmt act s else .next s
/-- The effect of PLDM_FIRMWARE_UPDATE: the image is written alongside service and waits for its activation; in ROM recovery it goes to the
flash (R455, R506). -/
def firmwareAct (image : FwImage) (s : State) : State :=
  if s.sec.recovery then { s with sec := { s.sec with flash := image :: s.sec.flash.take 1 } } else { s with sec := { s.sec with staged := some image } }
/-- PLDM_FIRMWARE_UPDATE. -/
def execPldmFirmwareUpdate (image : FwImage) (s : State) : Res := firmwareEntry (.pldmFirmwareUpdate image) (firmwareAct image) s
/-- The effect of PLDM_ACTIVATE: the staged image becomes copy A and takes effect at the next reset; the commit option advances the fused SVN to
that of the running image (R454, R506). -/
def activateAct (commit : Bool) (s : State) : State :=
  let c := s.sec
  let c := match c.staged with
    | some i => { c with flash := i :: c.flash.take 1, staged := none, activated := true }
    | none => c
  let svn := min c.runSvn.toNat 64
  { s with sec := if commit ∧ c.svn.toNat < svn then { c with svn := BitVec.ofNat 8 svn } else c }
/-- PLDM_ACTIVATE. -/
def execPldmActivate (commit : Bool) (s : State) : Res := firmwareEntry (.pldmActivate commit) (activateAct commit) s

end Sys2Proof.Machine
end

