-- ==== Sys2Proof/Machine/Manage.lean ====
section
/-! DEFINITION. The management bus (R504, R505), MRAM (R519 to R523), power, clocks, cooling and telemetry (R507, R516, R517, R524 to R533,
R539, R544). -/

namespace Sys2Proof.Machine

/-! ## The management bus (R504, R505) -/

/-- The effect of MCTP_CONTROL: the bus owner assigns an endpoint ID, or discovers the present one; the part answers with it. -/
def mctpAct (eid : Option Byte) (s : State) : State :=
  let s := match eid with | some e => { s with eid := e } | none => s
  s.emit (.mctp [s.eid])
/-- MCTP_CONTROL (R504, R505). -/
def execMctpControl (eid : Option Byte) (s : State) : Res := firmwareEntry (.mctpControl eid) (mctpAct eid) s
/-- I3C_ADDRESS_TIMEOUT: without a dynamic address 1 s after power-up, the part is an SMBus target (R504). -/
def execI3cAddressTimeout (now : W64) (s : State) : Res :=
  let s := s.atTime now
  if s.i3cAddr.isNone && s.up then .next { s with smbus := true } else .next s
/-- DYNAMIC_ADDRESS_ASSIGNMENT on the I3C bus. -/
def execDynamicAddressAssignment (addr : BitVec 7) (s : State) : Res :=
  if s.smbus || !s.up then .next s else .next { s with i3cAddr := some addr }

/-! ## MRAM (R519 to R523) -/

/-- STOREs of the last 3,600 s (R522). -/
def recentStores (s : State) : List W64 := s.nv.stores.filter (fun t => decide (s.since t < 3600000000000))
/-- Key of a location in the repair map: its instance, 4 × core + instance or 65,536 + channel for HBM, and its offset (R358). -/
def mapKey (inst addr : Nat) : Nat := inst * 2 ^ 48 + addr
/-- Keys of the valid remap entries of an instance. -/
def remapKeys (inst : Nat) (i : Inst) : List Nat := (i.remap.filter (fun e => e.2.v)).map (fun e => mapKey inst e.2.addr.toNat)
/-- Keys of every valid remap entry of the part; a slice's instance is that of its home core. -/
def allRemaps (s : State) : List Nat :=
  (s.cores.flatMap (fun e => e.2.insts.flatMap (fun x => remapKeys (4 * e.1 + x.1) x.2)))
    ++ s.sliceInst.flatMap (fun e => remapKeys (4 * (e.1 / 32 * 2048 + e.1 % 32 / 4 * 4 * 64 + e.1 % 4 * 12) + 3) e.2)
    ++ s.hbmInst.flatMap (fun e => remapKeys (65536 + e.1) e.2)
/-- The effect of NV_STORE: a snapshot of the settings, the repair map with every valid remap entry, and the training parameters; the
seventeenth in 3,600 s is refused (R358, R521, R522). -/
def nvStoreAct (s : State) : State :=
  if s.nv.busy then s
  else if 16 ≤ (recentStores s).length then { s with nv := { s.nv with stores := recentStores s, limit := true } }
  else
    { s with nv := { s.nv with busy := true, stores := s.time :: recentStores s, snap := some s.set
                               snapRep := (allRemaps s).foldl (fun t k => tabPut t k 1) s.nv.repair, snapTrain := s.nv.training || s.nv.trainNew } }
/-- NV_STORE (R521). -/
def execNvStore (by_ : Requester) (now : W64) (s : State) : Res := mgmtEntry (.nvStore by_ now) by_ (fun s => nvStoreAct (s.atTime now)) s
/-- NV_STORE_COMPLETE: the snapshot stands in the copy not last committed with SEQ one greater, and then the other areas; a failed read-back
leaves the previous copy committed (R521, R523). -/
def execNvStoreComplete (readBackOk : Bool) (s : State) : Res :=
  let v := s.nv
  if !v.busy || !s.up then .next s
  else
    match readBackOk, v.snap with
    | true, some x =>
      let q := v.seq + 1
      let v := if v.lastB then { v with copyA := some (x, q), lastB := false } else { v with copyB := some (x, q), lastB := true }
      .next { s with nv := { v with seq := q, repair := v.snapRep, training := v.snapTrain, busy := false, snap := none, snapRep := [] } }
    | _, _ => .next { s with nv := { v with fail := true, busy := false, snap := none, snapRep := [] } }
/-- NV_STORE_WINDOW_EXPIRY: STOREs of more than 3,600 s ago no longer count (R522). -/
def execNvStoreWindowExpiry (now : W64) (s : State) : Res :=
  let s := s.atTime now
  .next { s with nv := { s.nv with stores := recentStores s } }

/-! ## Power and clocks (R524, R530 to R533) -/

/-- A value brought into a range. -/
def clampNat (lo hi v : Nat) : Nat := max lo (min v hi)
/-- A write to PWR_CAP: 1,500 W to PLIM (R533). -/
def capOp (s : State) (val : W64) : State :=
  { s with set := { s.set with cap := BitVec.ofNat 16 (clampNat 1500 s.pwr.plim.toNat (bits val 15 0)) } }
/-- PWR_CAP_WRITE. -/
def execPwrCapWrite (by_ : Requester) (val : W64) (s : State) : Res := mgmtEntry (.pwrCapWrite by_ val) by_ (fun s => capOp s val) s
/-- A write to PWR_DIEn_CTL: FMAX, 800 to 2,200 MHz, rounded down to 50 MHz (R533). -/
def dieCtlOp (s : State) (die : Nat) (val : W64) : State :=
  { s with set := { s.set with fmax := tabPut s.set.fmax die (BitVec.ofNat 16 (clampNat 800 2200 (bits val 11 0) / 50 * 50)) } }
/-- PWR_DIE_CTL_WRITE. -/
def execPwrDieCtlWrite (by_ : Requester) (die : BitVec 3) (val : W64) (s : State) : Res :=
  mgmtEntry (.pwrDieCtlWrite by_ die val) by_ (fun s => dieCtlOp s die.toNat val) s
/-- Present frequency of a die, in MHz. -/
def State.fcur (s : State) (die : Nat) : W16 := tabGet 2000 s.pwr.freq die
/-- Frequency that a die has been set to: where its PLL is to switch, or where it stands. -/
def State.fset (s : State) (die : Nat) : Nat := (tabGet (s.fcur die) s.pwr.target die).toNat
/-- Ceiling of a die. -/
def State.fmax (s : State) (die : Nat) : Nat := (tabGet (2000 : W16) s.set.fmax die).toNat
/-- The cap in force: CAP_W, or 1,500 W while R532 forces it. -/
def State.capNow (s : State) : Nat := if s.pwr.coolant then min s.set.cap.toNat 1500 else s.set.cap.toNat
/-- A die's next frequency (R530); `tj` is in units of 0.125 °C. -/
def nextFreq (down floor : Bool) (p cap tj f fmax : Nat) : Nat :=
  let f := if down || decide (840 ≤ tj) then f - 100 else if p + 50 < cap ∧ tj < 800 then f + 50 else f
  let f := if floor then 800 else f
  max 800 (min f fmax)
/-- POWER_EVALUATION (R530). -/
def execPowerEvaluation (power : W32) (tj : List W16) (now : W64) (s : State) : Res :=
  let s := s.atTime now
  if !s.clocked then .next s
  else
    let p := power.toNat
    let cap := s.capNow
    let down := s.pwr.stretched || decide (cap < p)
    let high := if down then s.pwr.overN + 1 else 0
    let floor := decide (10 ≤ high)
    let t (d : Nat) : Nat := (tj.getD d 0).toNat
    let target := (List.range 8).foldl (fun (m : Tab W16) d =>
      tabPut m d (BitVec.ofNat 16 (nextFreq down floor p cap (t d) (s.fset d) (s.fmax d)))) []
    let hot := (List.range 8).any (fun d => decide (840 ≤ t d))
    .next { s with pwr := { s.pwr with target := target, overN := high, floor := s.pwr.floor || floor, capped := down, tjHot := hot, stretched := false
                                       stretch := floor } }
/-- FREQUENCY_SWITCH: the die's PLL switches to the frequency set for it (R524). -/
def execFrequencySwitch (die : BitVec 3) (s : State) : Res :=
  if !s.clocked then .next s
  else .next { s with pwr := { s.pwr with freq := tabSet 2000 s.pwr.freq die.toNat (BitVec.ofNat 16 (s.fset die.toNat))
                                          target := tabDel s.pwr.target die.toNat } }
/-- CURRENT_STRETCH (R531). -/
def execCurrentStretch (s : State) : Res :=
  if !s.clocked then .next s else .next { s with pwr := { s.pwr with stretched := true, stretch := true, curlim := true } }
/-- COOLANT_OUT_OF_RANGE: out of range for 1 s, the cap in force is 1,500 W (R532). -/
def execCoolantOutOfRange (now : W64) (s : State) : Res :=
  let s := s.atTime now
  match s.pwr.outSince with
  | some t => if 1000000000 ≤ s.since t then .next { s with pwr := { s.pwr with coolant := true } } else .next s
  | none => .next s
/-- COOLANT_RECOVERED: both in range for 10 s, the forced cap is lifted (R532). -/
def execCoolantRecovered (now : W64) (s : State) : Res :=
  let s := s.atTime now
  match s.pwr.inSince with
  | some t => if 10000000000 ≤ s.since t then .next { s with pwr := { s.pwr with coolant := false } } else .next s
  | none => .next s
/-- TELEMETRY_REFRESH: the sampled registers, and since when the coolant is out of or in range (R507, R532, R544). -/
def execTelemetryRefresh (smp : Telemetry) (now : W64) (s : State) : Res :=
  let s := s.atTime now
  if !s.up then .next s
  else
    let p := s.pwr
    let out := decide (p.tInletMax.toNat < smp.coolant.toNat) || decide (smp.flow.toNat < p.flowMin.toNat)
    .next { s with pwr := { p with tel := smp, uptime := match p.bootEnd with | some b => s.time - b | none => 0, outSince := if out then some (p.outSince.getD s.time) else none, inSince := if out then none else some (p.inSince.getD s.time) } }
/-- PACKAGE_TIME_RESYNC: the die replicas take package time (R526). -/
def execPackageTimeResync (now : W64) (s : State) : Res := if s.aon then .next (s.atTime now) else .next s

/-! ## Identity records (R516, R517, R539, R544) -/

/-- Whether a record is right for a module type (R516, R517); RAILS bit 15 is corrupt (R539). -/
def identOk (ty : Nat) (bs : List Byte) : Bool :=
  bs.length == 64 && field bs 0 4 == 0x4449594C && field bs 4 1 == ty && field bs 5 1 == 1 && field bs 11 1 == 0
    && (bs.drop 18).take 42 == leBytes 42 0 && field bs 60 4 == (crc32c (bs.take 60)).toNat && decide (field bs 8 2 < 0x8000)
/-- A record found at an address. -/
def identAt (b : BootInput) (a : Nat) : Option (List Byte) := (b.ident.find? (fun e => e.1 == a)).map (·.2)
/-- PLIM with its causes (ABSENT, CORRUPT), and the coolant limits, from the records (R517, R544). -/
def plimOf (b : BootInput) : Nat × Bool × Bool × Nat × Nat :=
  let board := identAt b 0x50
  let cool := identAt b 0x5E
  let regs := ((List.range 12).map (fun n => identAt b (0x51 + n))).filterMap id
  let good := regs.filter (identOk 2)
  let supplied (n : Nat) : Nat := (good.filter (fun r => field r 8 2 / 2 ^ n % 2 == 1)).length
  let right (ty : Nat) (r : Option (List Byte)) : Bool := match r with | some r => identOk ty r | none => false
  let limits := ((board.toList.filter (identOk 1)) ++ (cool.toList.filter (identOk 3)) ++ good).map (fun r => field r 6 2)
  let absent := board.isNone || cool.isNone || (List.range 15).any (fun n => supplied n == 0)
  let corrupt := (board.isSome && !right 1 board) || (cool.isSome && !right 3 cool) || decide (good.length ≠ regs.length)
    || (List.range 15).any (fun n => decide (1 < supplied n)) || limits.any (fun l => decide (l < 1500))
  let (tIn, flow) := match cool with
    | some r => if identOk 3 r then (min (field r 12 2) 320, max (field r 14 4) 4000) else (320, 4000)
    | none => (320, 4000)
  (if absent || corrupt then 1500 else limits.foldl min 3800, absent, corrupt, tIn, flow)

end Sys2Proof.Machine
end

