-- ==== Sys2Proof/Machine/Boot.lean ====
section
/-! DEFINITION. Resets, boot and loss of power (R451, R455, R480, R508 to R515, R518, R526, R532), and the commands that waited for the twin
controllers, the scheduler hardware or the DRBG (R439, R440, R461). -/

namespace Sys2Proof.Machine

/-! ## Commands that waited (R439, R440, R461) -/

/-- Act on a command that waited: its entry has been taken and checked already. -/
def runHeld (s : State) (i : Instr) : State :=
  match i with
  | .submit h => submitAct i h s
  | .cancel h => cancelAct h s
  | .hold h => holdAct h s
  | .release h => releaseAct h s
  | .createQp h => createQpAct h s
  | .deleteQp h => deleteQpAct h s
  | .cfgWrite h => cfgWriteAct i h s
  | .cfgRead h => cfgReadAct h s
  | .slotLoad h => slotLoadAct h s
  | .slotUnload h => slotUnloadAct h s
  | .placeCreate h => placeCreateAct h s
  | .placeDestroy h => placeDestroyAct h s
  | .zeroRange h => zeroRangeAct h s
  | .errUnitSet _ u st pass _ => unitSetOp s u st pass
  | .errUnitReconcile _ u arg pass _ => unitReconcileOp s u arg pass
  | .errPolicyWrite _ v => policyOp s v
  | .nvStore _ _ => nvStoreAct s
  | .pwrCapWrite _ v => capOp s v
  | .pwrDieCtlWrite _ d v => dieCtlOp s d.toNat v
  | .pldmFirmwareUpdate x => firmwareAct x s
  | .pldmActivate c => activateAct c s
  | .secHpkeRotate p v _ => hpkeWrite i s p.toNat v
  | .hpkeAutoRotate p _ => rotateKeys s p.toNat
  | .challenge r n => drawAct i (challengeAct r n) s
  | .getMeasurements r x n => drawAct i (getMeasurementsAct r x n) s
  | .keyExchange r d => drawAct i (keyExchangeAct r d) s
  | .getVersion r => spdmAnswer s r 1 []
  | .getCapabilities r => spdmAnswer s r 2 []
  | .negotiateAlgorithms r => spdmAnswer s r 3 []
  | .getDigests r => digestsAct r s
  | .getCertificate r n => certificateAct r n s
  | .finish r d => finishSessionAct r d s
  | .endSession r => endSessionAct r s
  | .pqSign r v => pqSignAct r v s
  | .debugUnlock t _ => settleSnow (debugOp s t)
  | .lifecycleTransition t x _ => settleSnow (lifecycleOp s t x)
  | .mctpControl e => mctpAct e s
  | _ => s
/-- A held command of controllers that have stopped for good: NOT_READY (R439). -/
def refuseHeld (s : State) (i : Instr) : State :=
  match i with
  | .createQp h => finish s h 0x0E
  | .deleteQp h => finish s h 0x0E
  | .cfgWrite h => finish s h 0x0E
  | .cfgRead h => finish s h 0x0E
  | .slotLoad h => finish s h 0x0E
  | .slotUnload h => finish s h 0x0E
  | .placeCreate h => finish s h 0x0E
  | .placeDestroy h => finish s h 0x0E
  | .zeroRange h => finish s h 0x0E
  | .errUnitSet r _ _ _ _ => s.emit (.reply r [0x0E])
  | .errUnitReconcile r _ _ _ _ => s.emit (.reply r [0x0E])
  | .errPolicyWrite r _ => s.emit (.reply r [0x0E])
  | .nvStore r _ => s.emit (.reply r [0x0E])
  | .pwrCapWrite r _ => s.emit (.reply r [0x0E])
  | .pwrDieCtlWrite r _ _ => s.emit (.reply r [0x0E])
  | .pldmFirmwareUpdate _ => s.emit (.reply .mgmt [0x0E])
  | .pldmActivate _ => s.emit (.reply .mgmt [0x0E])
  | .challenge r _ => s.emit (.reply r [0x0E])
  | .getMeasurements r _ _ => s.emit (.reply r [0x0E])
  | .keyExchange r _ => s.emit (.reply r [0x0E])
  | .getVersion r => s.emit (.reply r [0x0E])
  | .getCapabilities r => s.emit (.reply r [0x0E])
  | .negotiateAlgorithms r => s.emit (.reply r [0x0E])
  | .getDigests r => s.emit (.reply r [0x0E])
  | .getCertificate r _ => s.emit (.reply r [0x0E])
  | .finish r _ => s.emit (.reply r [0x0E])
  | .endSession r => s.emit (.reply r [0x0E])
  | .pqSign r _ => s.emit (.reply r [0x0E])
  | .debugUnlock _ _ => s.emit (.reply .mgmt [0x0E])
  | .lifecycleTransition _ _ _ => s.emit (.reply .mgmt [0x0E])
  | .mctpControl _ => s.emit (.reply .mgmt [0x0E])
  | _ => s
/-- LOCKSTEP_MISMATCH (R439). -/
def lockstepOp (s : State) (cls : Byte) : State :=
  let s := mismatch s cls
  if s.err.ctlStopped then s.err.heldCmds.foldl refuseHeld { s with err := { s.err with heldCmds := [] } } else s
/-- LOCKSTEP_MISMATCH. -/
def execLockstepMismatch (now : W64) (s : State) : Res := if s.up then .next (lockstepOp (s.atTime now) 8) else .next s
/-- CONTROLLER_WATCHDOG: handled as a lockstep mismatch, recorded with class 5 (R529). -/
def execControllerWatchdog (now : W64) (s : State) : Res := if s.up then .next (lockstepOp (s.atTime now) 5) else .next s
/-- CONTROLLER_RESTART_DONE: the held commands run in arrival order (R439). -/
def execControllerRestartDone (s : State) : Res :=
  if !s.err.ctlRestart then .next s
  else .next (s.err.heldCmds.foldl runHeld { s with err := { s.err with ctlRestart := false, heldCmds := [] } })
/-- SCHEDULER_RELOAD_COMPLETE: the held serving commands run (R440). -/
def execSchedulerReloadComplete (s : State) : Res :=
  if !s.err.schReload then .next s
  else .next (s.err.heldSch.foldl runHeld { s with err := { s.err with schReload := false, heldSch := [] } })
/-- ENTROPY_HEALTH_TEST_PASS: the draws that waited proceed (R461). -/
def execEntropyHealthTestPass (now : W64) (s : State) : Res :=
  let s := s.atTime now
  .next (s.sec.heldDraw.foldl runHeld { s with sec := { s.sec with entropyBad := none, heldDraw := [] } })

/-! ## What a reset leaves (R509, R511 to R513) -/

/-- The part with every register at its reset value: fuses, flash, MRAM and, while VDD_AON stays, package time and THERMTRIP# are kept; the
model keeps its queue, its counters and what has left the part. No context's old handle is live again (R513). The Plinth keeps every UEPOCH
(R432). -/
def wiped (s : State) (phase : Phase) : State :=
  { pending := s.pending, freeCtr := s.freeCtr, pktCtr := s.pktCtr, jobCtr := s.jobCtr, part384 := s.part384, phase := phase, aon := s.aon
    time := s.time, hostMem := s.hostMem, out := s.out, bypass := s.bypass, fuseSpares := s.fuseSpares, fuseCells := s.fuseCells, perst := s.perst
    ctxs := s.ctxs.map (fun e => (e.1, { gen := e.2.gen + 1 }))
    err := { units := (s.err.units.filter (fun e => e.2.uepoch != 0)).map (fun e => (e.1, { uepoch := e.2.uepoch })), epochBase := s.err.epochBase }
    sec := { lifecycle := s.sec.lifecycle, svn := s.sec.svn, revoked := s.sec.revoked, flash := s.sec.flash, certs := s.sec.certs, used := s.sec.used
             nextKey := s.sec.nextKey, testInert := s.sec.testInert }
    nv := { copyA := s.nv.copyA, copyB := s.nv.copyB, lastB := s.nv.lastB, repair := s.nv.repair, seq := s.nv.seq, training := s.nv.training }
    pwr := { thermtrip := s.pwr.thermtrip } }
/-- The part at the start of a boot: as a reset leaves it, with every UEPOCH one greater (R432). -/
def rebooted (s : State) : State :=
  let t := wiped s .boot
  { t with err := { t.err with epochBase := t.err.epochBase + 1 } }
/-- A part with the remap entries of another, which stay active until power-down (R355). DEDUCED: log 146. -/
def withRemaps (s t : State) : State :=
  let keep (x : Tab Inst) : Tab Inst := resetInsts x (fun _ => true)
  { t with sliceInst := keep s.sliceInst, hbmInst := keep s.hbmInst
           cores := ((s.cores.map (fun e => (e.1, keep e.2.insts))).filter (fun e => e.2 ≠ [])).map (fun e => (e.1, { insts := e.2 })) }
/-- COLD_RESET: PWRGOOD is asserted, and the part boots (R511, R514). -/
def execColdReset (now : W64) (s : State) : Res :=
  if s.aon then .next (rebooted (s.atTime now)) else .next s
/-- WARM_RESET: as a cold reset, with the HBM training parameters kept; the package stays powered, so remap entries stay (R355, R511, R515). -/
def execWarmReset (now : W64) (s : State) : Res :=
  if s.up then
    let s := s.atTime now
    let t := withRemaps s (rebooted s)
    .next { t with warm := true, nv := { t.nv with trainNew := s.nv.trainNew } }
  else .next s
/-- EMERGENCY_STOP: the clocks stop, and the part drives nothing until the next cold reset (R509). -/
def execEmergencyStop (s : State) : Res := if s.up then .next (wiped s .stopped) else .next s
/-- THERMTRIP: every clock stops and THERMTRIP# is asserted (R532). -/
def execThermtrip (s : State) : Res :=
  if s.up then (let t := wiped s .stopped; .next { t with pwr := { t.pwr with thermtrip := true } }) else .next s
/-- VDD_AON_APPLIED: package time starts from 0 (R526). -/
def execVddAonApplied (s : State) : Res := if s.aon then .next s else .next { s with aon := true, time := 0, phase := .held }
/-- VDD_AON_REMOVED: package time stops and THERMTRIP# is released (R526, R532). -/
def execVddAonRemoved (s : State) : Res :=
  let t := wiped s .noPower
  .next { t with aon := false, pwr := {}, err := {} }
/-- Delete a queue pair as DELETE_QP with the force option does: its live requests end CANCELLED and their notices are discarded (R495, R513). -/
def forceDelete (s : State) (q : QRef) : State := cancelAll { s with qps := tabDel s.qps (qpKey q) } (fun x => x.q == q) 0x04
/-- The queue pairs of a function. -/
def qpsOf (s : State) (f : FnRef) : List QRef := (s.qps.filter (fun e => e.1 / 4096 = fnKey f)).map (fun e => ⟨f, BitVec.ofNat 12 (e.1 % 4096)⟩)
/-- A function's queue pairs are deleted, and its TDI leaves RUN (R511, R513). -/
def resetQueues (s : State) (f : FnRef) : State :=
  let s := (qpsOf s f).foldl forceDelete s
  let s := s.setFn f { s.fn f with aqEn := false }
  match partNo f with
  | some p => if tdiRuns s f then leaveRun s p .configUnlocked else s
  | none => s
/-- FLR: one function's queue pairs and MSI-X table (R511). -/
def execFlr (fn : FnRef) (s : State) : Res := if s.present fn && s.up then .next (settleSnow (resetQueues s fn)) else .next s
/-- PORT_RESET: every function of a port, with its registers and IDE streams (R511). -/
def execPortReset (port : BitVec 1) (s : State) : Res :=
  if !s.up then .next s
  else
    let fs := (List.range 9).map (fun n => (⟨port, BitVec.ofNat 4 n⟩ : FnRef))
    let s := fs.foldl (fun s f => if s.present f then resetQueues s f else s) s
    .next (settleSnow { s with fns := s.fns.filter (fun e => decide (e.1 / 16 ≠ port.toNat)) })
/-- PERST_DEASSERTION (R480). -/
def execPerstDeassertion (port : BitVec 1) (s : State) : Res := .next { s with perst := s.perst ||| ((1 : BitVec 2) <<< port.toNat) }

/-! ## Boot (R451, R455, R514, R515, R518, R521) -/

/-- Whether the ROM accepts an image: an unrevoked slot, both signatures, an SVN not below the fused one (R453, R454). -/
def imageOk (s : State) (i : FwImage) : Bool :=
  !s.sec.revoked.getLsbD i.keySlot.toNat && Config.imageVerifies i.keySlot.toNat i.bytes i.svn && decide (s.sec.svn.toNat ≤ i.svn.toNat)
/-- Stage 2: copy A, then copy B; with neither the part stays in ROM recovery. The ROM derives the Alias keys and locks the UDS (R451, R455). -/
def bootFirmware (s : State) : State :=
  match s.sec.flash.find? (imageOk s) with
  | none => { s with sec := { s.sec with recovery := true, udsLock := true } }
  | some i =>
    let d := Config.sha384 i.bytes
    let x := { s.sec with recovery := false, udsLock := true, running := d, runSvn := i.svn, activated := false }
    { s with stage := 2, sec := { x with alias_ := aliasInputs x x.debug } }
/-- The settings that stage 3 loads: the valid copy with the higher SEQ (R521). -/
def bootSettings (v : Nv) : Option (Settings × W32) :=
  match v.copyA, v.copyB with
  | none, b => b
  | a, none => a
  | some a, some b => if a.2.toNat < b.2.toNat then some b else some a
/-- Stage 3: the settings, the identity records and PLIM (R517, R521). -/
def bootLoad (s : State) (b : BootInput) : State :=
  let (plim, absent, corrupt, tIn, flow) := plimOf b
  let p := { s.pwr with plim := BitVec.ofNat 16 plim, absent := absent, corrupt := corrupt, tInletMax := BitVec.ofNat 16 tIn, flowMin := BitVec.ofNat 32 flow }
  match bootSettings s.nv with
  | some (x, q) => { s with stage := 3, pwr := p, set := { x with cap := BitVec.ofNat 16 (clampNat 1500 plim x.cap.toNat) }, ctrEff := x.contracts, nv := { s.nv with seq := q } }
  | none => { s with stage := 3, pwr := p, set := { cap := BitVec.ofNat 16 plim }, nv := { s.nv with bootdef := true } }
/-- Mark a unit LOST at boot, with its record (R514, R515, R518). -/
def bootLost (s : State) (u : W32) : State := capLose (recordFault s { unit := u, cls := 7, code := 0, place := none, detail := 0 } 4).2 u
/-- Logical cores that stand at a physical position, given by its key in `bypass`. -/
def coresAt (s : State) (key : Nat) : List CoreId :=
  ((List.range 48).map (fun col => mkCore (key / 2048) (key % 2048 / 64) col)).filter (fun c => physPos s c == key % 64)
/-- Memory instances whose spare rows and columns do not suffice for the failing locations listed for them (R354, R358). DESIGN CHOICE: log 136. -/
def exhausted (s : State) : List Nat :=
  let at_ (n : Nat) : List Nat := ((s.cells.map (·.1)).filter (fun k => k / 2 ^ 48 == n)).map (· % 2 ^ 48)
  ((s.cells.map (·.1 / 2 ^ 48)).eraseDups).filter (fun n => !Config.sparesSuffice n (at_ n))
/-- A core that the maps call for a spare gets it, or is lost when its segment's spare is in use for another (R269, R270). DESIGN CHOICE: log 136. -/
def bootSpare (s : State) (c : CoreId) : State :=
  match tabLook s.spares (segKey c) with
  | some f => if f = c.toNat then s else bootLost s (unitCore c)
  | none => { s with spares := tabPut s.spares (segKey c) c.toNat }
/-- The cores that the fuse map and the repair map call for a spare: one with two columns to bypass in a cube column, and one whose local memory or
instruction store has no spares left (R182, R269, R358). -/
def bootNeeds (s : State) : List CoreId :=
  (s.bypass.flatMap (fun e => (coresAt s e.1).filter (overBypassed s)))
    ++ ((exhausted s).filter (fun n => decide (n < 65536) && decide (n % 4 < 2))).map (fun n => BitVec.ofNat 14 (n / 4))
/-- Stage 4: the compute dies are repaired from the fuse map and the repair map: spare rows and columns stand in for the listed locations, and spares
for the cores that need one; an HBM channel without spares left is lost; a core of W below 8 serves DEGRADED (R182, R269, R354, R358, R425,
R514). -/
def bootRepair (s : State) : State :=
  let s := { s with spares := s.fuseSpares, cells := s.nv.repair.foldl (fun t e => tabPut t e.1 e.2) s.fuseCells }
  let lost := (exhausted s).filter (fun n => decide (65536 ≤ n))
  let s := (bootNeeds s).foldl bootSpare s
  let s := lost.foldl (fun s n => bootLost s (unitId 4 (n - 65536))) s
  (s.bypass.flatMap (fun e => coresAt s e.1)).foldl (fun s c =>
    let u := unitCore c
    if restState s u = 0 then s else disputeCheck (s.onUnit u (fun x => { x with dpath := if x.dpath = 0 then 1 else x.dpath })) u) s
/-- Stage 6: partitions are recreated under new keys; placements and loads are not (R513). -/
def bootParts (s : State) : State :=
  (s.set.parts.filter (fun e => e.2.dies != 0)).foldl (fun s e =>
    let (x, s) := rekey s {}
    { s with parts := tabPut s.parts e.1 { x with multi := multiMatch e.2 } }) s
/-- BOOT_STAGE_COMPLETE: the next stage is reached; stage 6 is READY (R514). -/
def execBootStageComplete (boot : BootInput) (now : W64) (s : State) : Res :=
  let s := s.atTime now
  if s.phase ≠ .boot then .next s
  else
    match s.stage with
    | 0 => .next { s with stage := 1 }
    | 1 => .next (bootFirmware s)
    | 2 => .next (bootLoad s boot)
    | 3 => .next ((List.range 8).foldl (fun s d => if boot.lostDies.getLsbD d then bootLost s (unitId 7 d) else s) (bootRepair { s with stage := 4 }))
    | 4 =>
      let s := { s with stage := 5, nv := { s.nv with trainNew := s.nv.trainNew || !(s.warm && s.nv.training) } }
      .next ((List.range 16).foldl (fun s d => if boot.lostStacks.getLsbD d then bootLost s (unitId 5 d) else s) s)
    | _ =>
      if s.sec.entropyBad.isSome then .next s
      else .next { bootParts s with stage := 6, phase := .ready, pwr := { s.pwr with bootEnd := some s.time } }

end Sys2Proof.Machine
end

