-- ==== Sys2Proof/Machine/Bar0.lean ====
section
/-! DEFINITION. BAR0 (R387 to R391, R420 to R423, R448, R458, R468, R473, R480 to R482, R503, R507, R523, R533): every register as a function
reads it and as it writes it, the snowlines and the histogram readout, and REGISTER_WRITE (R10 to R13). -/

namespace Sys2Proof.Machine

/-! ## Snowlines (R390, R391) -/

/-- Change a partition. -/
def onPart (s : State) (p : Nat) (f : Part → Part) : State :=
  match tabLook s.parts p with
  | some x => { s with parts := tabPut s.parts p (f x) }
  | none => s
/-- SCH_SNOWn_CFG as written: an IDX beyond its range leaves the field unchanged, and reserved bits read zero (R390). -/
def snowCfg (old val : W64) : W64 :=
  let src := bits val 61 60
  let idx := bits val 59 48
  let idx := if (src = 0 ∧ 15 < idx) ∨ (src = 3 ∧ 255 < idx) then bits old 59 48 else idx
  BitVec.ofNat 64 (bits val 63 60 * 2 ^ 60 + idx * 2 ^ 48 + bits val 47 32 * 2 ^ 32 + bits val 24 0)
/-- A write to SCH_SNOWn_CFG: one that sets EN clears STAT and arms the snowline (R390). -/
def snowCfgOp (s : State) (p n : Nat) (val : W64) : State :=
  settleSnow (onPart s p (fun x =>
    let y := tabGet ({} : Snow) x.snows n
    let cfg := snowCfg y.cfg val
    { x with snows := tabSet {} x.snows n (if val.getLsbD 63 then { cfg := cfg, armed := true } else { y with cfg := cfg }) }))
/-- SCH_SNOW_CFG_WRITE. -/
def execSchSnowCfgWrite (part : BitVec 3) (n : BitVec 5) (val : W64) (s : State) : Res :=
  if s.phase = .ready then .next (snowCfgOp s part.toNat n.toNat val) else .next s
/-- A write to SCH_SNOWn_STAT: writing 1 to CROSSED clears CROSSED and COUNT and sets ARMED (R391). -/
def snowStatOp (s : State) (p n : Nat) (val : W64) : State :=
  if !val.getLsbD 0 then s
  else settleSnow (onPart s p (fun x =>
    { x with snows := tabSet {} x.snows n { tabGet ({} : Snow) x.snows n with crossed := false, count := 0, armed := true } }))
/-- SCH_SNOW_STAT_WRITE. -/
def execSchSnowStatWrite (part : BitVec 3) (n : BitVec 5) (val : W64) (s : State) : Res :=
  if s.phase = .ready then .next (snowStatOp s part.toNat n.toNat val) else .next s

/-! ## The histogram readout (R420 to R422) -/

/-- The lowest bin at which the cumulative count reaches `k`. -/
def kthBin (h : Hist) (k : Nat) : Nat → Nat → Nat → Nat
  | 0, b, _ => b
  | fuel + 1, b, acc => let acc := acc + (tabGet 0 h.bins b).toNat; if k ≤ acc then b else kthBin h k fuel (b + 1) acc
/-- Samples in a histogram. -/
def Hist.total (h : Hist) : Nat := (h.bins.map (fun e => e.2.toNat)).sum
/-- A percentile of `num / 1,000`, in ns (R420). -/
def percentile (h : Hist) (num : Nat) : W64 :=
  if h.total = 0 then 0
  else
    let b := kthBin h ((num * h.total + 999) / 1000) 127 0 0
    if b = 127 then 0xFFFFFFFFFFFFFFFF else BitVec.ofNat 64 (binBound (b + 1) - 1)
/-- A write to SCH_MEAS_CTL: GO takes a snapshot unless one is in progress; CLEAR zeroes the histogram after it (R421). -/
def measOp (s : State) (p : Nat) (val : W64) : State :=
  match tabLook s.parts p with
  | none => s
  | some x =>
    let m := { x.meas with metric := BitVec.ofNat 2 (bits val 9 8), contract := BitVec.ofNat 8 (bits val 7 0) }
    if !val.getLsbD 24 || m.busy then { s with parts := tabPut s.parts p { x with meas := m } }
    else
      let key := histKey (ctrKey p m.contract.toNat) m.metric.toNat
      let clear := val.getLsbD 25
      { s with parts := tabPut s.parts p { x with meas := { m with busy := true, clear := clear, pending := tabGet {} s.hists key } }
               hists := if clear then tabDel s.hists key else s.hists }
/-- SCH_MEAS_GO. -/
def execSchMeasGo (part : BitVec 3) (val : W64) (s : State) : Res := if s.phase = .ready then .next (measOp s part.toNat val) else .next s
/-- SCH_MEAS_SNAPSHOT_DONE: the snapshot registers are written (R420, R422). -/
def execSchMeasSnapshotDone (part : BitVec 3) (s : State) : Res :=
  .next (onPart s part.toNat (fun x =>
    let m := x.meas
    let h := m.pending
    if !m.busy then x
    else { x with meas := { m with busy := false, snap := h, p50 := percentile h 500, p90 := percentile h 900, p99 := percentile h 990,
                                   p999 := percentile h 999, cnt := BitVec.ofNat 64 h.total } }))

/-! ## Reading BAR0 -/

/-- A word of 64 bits of a byte list. -/
def wordOf (bs : List Byte) (i : Nat) : W64 := BitVec.ofNat 64 (field bs (8 * i) 8)
/-- The 32 B of a fault record (R447). -/
def recBytes (r : FRec) : List Byte :=
  leBytes 8 r.time.toNat ++ [r.cls, r.code, r.action, r.part] ++ leBytes 4 r.unit.toNat ++ leBytes 4 r.phys.toNat ++ leBytes 2 r.slot.toNat
    ++ leBytes 2 r.attempt.toNat ++ leBytes 8 r.detail.toNat
/-- ERR_FLOG_RECi as a function reads it: records of another partition read as zero (R447). -/
def flogRead (s : State) (f : FnRef) (i w : Nat) : W64 :=
  let n := s.err.flogWr.toNat
  let first := n - s.err.log.length
  let j := if n = 0 then 0 else n - 1 - (n - 1 + 4096 - i) % 4096
  match (if n ≤ (n - 1 + 4096 - i) % 4096 ∨ j < first then none else s.err.log[j - first]?) with
  | none => 0
  | some r => if r.part = 0xFF ∨ partNo f = some r.part.toNat then wordOf (recBytes r) w else 0
/-- ERR_UNIT_STAT of the selected unit (R448). -/
def unitStat (s : State) : W64 :=
  if !unitExists s.err.unitSel then 0
  else
    let x := s.unit s.err.unitSel
    BitVec.ofNat 64 (s.effective s.err.unitSel + x.dpath.toNat * 2 ^ 8 + x.mgmt.toNat * 2 ^ 16 + x.fcount.toNat * 2 ^ 32 + (s.uepoch s.err.unitSel).toNat * 2 ^ 48
      + flagAt x.setTo.isSome 62 + flagAt x.disputed 63)
/-- The HBM error registers as the physical function reads them (R503). -/
def memRegRead (s : State) (a : Nat) : W64 :=
  let i := s.hbmI s.err.memSel.toNat
  if a = 0x200060 then s.err.memSel.zeroExtend 64
  else if a = 0x200068 then instRead i 0xB08
  else if 0x200070 ≤ a ∧ a < 0x2000C0 then instRead i (a - 0x200070 + 0xB10)
  else if 0x2000C0 ≤ a ∧ a < 0x200100 then BitVec.ofNat 64 (i.tdata.toNat / 2 ^ (8 * (a - 0x2000C0)))
  else if 0x200100 ≤ a ∧ a < 0x200110 then BitVec.ofNat 64 (i.tchk.toNat / 2 ^ (8 * (a - 0x200100)))
  else if a = 0x200110 then instRead i 0xB70
  else if 0x200118 ≤ a ∧ a < 0x200158 then instRead i (a - 0x200118 + 0xB80)
  else if a = 0x200158 then instRead i 0xBC0
  else if a = 0x200160 then instRead i 0xBC8
  else 0
/-- The registers of a partition's copy: contracts, snowlines, readout and slots (R387 to R391, R421 to R423). -/
def partRead (s : State) (p a : Nat) : W64 :=
  let x := tabGet ({} : Part) s.parts p
  let m := x.meas
  if a = 0x100000 then BitVec.ofNat 64 s.occupied
  else if 0x110000 ≤ a ∧ a < 0x114000 then
    let c := ctrKey p ((a - 0x110000) / 64)
    let o := a % 64
    if o = 0x38 then BitVec.ofNat 64 ((BitVec.ofInt 32 (s.bucket c)).toNat * 2 ^ 32 + s.active c) else tabGet 0 (s.contract c).counters o
  else if 0x120000 ≤ a ∧ a < 0x120200 then
    let y := tabGet ({} : Snow) x.snows ((a - 0x120000) / 16)
    if a % 16 = 0 then y.cfg
    else BitVec.ofNat 64 (flagAt y.crossed 0 + y.count.toNat * 2 ^ 8 + flagAt y.live 16 + flagAt y.armed 63)
  else if a = 0x130000 then BitVec.ofNat 64 (m.contract.toNat + m.metric.toNat * 2 ^ 8 + flagAt m.busy 63)
  else if a = 0x130008 then m.p50
  else if a = 0x130010 then m.p90
  else if a = 0x130018 then m.p99
  else if a = 0x130020 then m.p999
  else if a = 0x130028 then m.cnt
  else if a = 0x130030 then BitVec.ofNat 64 (m.snap.missLo.toNat + m.snap.missHi.toNat * 2 ^ 32)
  else if 0x130400 ≤ a ∧ a < 0x130800 then tabGet 0 m.snap.bins ((a - 0x130400) / 8)
  else if 0x140000 ≤ a ∧ a < 0x140400 then
    let k := slotKey p ((a - 0x140000) / 64)
    let y := s.mslot k
    match a % 64 with
    | 0x00 => y.stepSeq
    | 0x08 => y.replay
    | 0x10 => y.badrec
    | 0x18 => y.draft
    | 0x20 => y.accept
    | 0x28 => BitVec.ofNat 64 (s.freePages k)
    | 0x30 => BitVec.ofNat 64 (y.prefixes.length + y.prefixPages.eraseDups.length * 2 ^ 32)
    | _ => y.stepNs
  else 0
/-- The telemetry, power and management registers (R507, R523, R533). -/
def powerRead (s : State) (a : Nat) : W64 :=
  let t := s.pwr.tel
  let w32 (l : List W32) (i : Nat) : W64 := (l.getD i 0).zeroExtend 64
  let w16 (l : List W16) (i : Nat) : W64 := (l.getD i 0).zeroExtend 64
  if a = 0x400000 then t.pkg.zeroExtend 64
  else if a = 0x400008 then t.pkg1s.zeroExtend 64
  else if 0x400010 ≤ a ∧ a < 0x400050 then w32 t.cd ((a - 0x400010) / 8)
  else if 0x400050 ≤ a ∧ a < 0x400090 then w16 t.tj ((a - 0x400050) / 8)
  else if a = 0x400090 then t.tjPlinth.zeroExtend 64
  else if 0x400098 ≤ a ∧ a < 0x400118 then w16 t.thbm ((a - 0x400098) / 8)
  else if a = 0x400118 then t.throttle.zeroExtend 64
  else if a = 0x400200 then s.set.cap.zeroExtend 64
  else if a = 0x400208 then BitVec.ofNat 64 (s.pwr.plim.toNat + flagAt s.pwr.absent 16 + flagAt s.pwr.corrupt 17 + flagAt s.pwr.coolant 18)
  else if a = 0x400210 then BitVec.ofNat 64 (flagAt s.pwr.capped 0 + flagAt s.pwr.tjHot 1 + flagAt s.pwr.floor 2 + flagAt s.pwr.curlim 3)
  else if 0x400220 ≤ a ∧ a < 0x400260 then
    let d := (a - 0x400220) / 8
    BitVec.ofNat 64 (s.fmax d + (s.fcur d).toNat * 2 ^ 16)
  else if a = 0x500000 then s.pwr.uptime
  else if a = 0x500008 then t.coolant.zeroExtend 64
  else if a = 0x500010 then t.flow.zeroExtend 64
  else if a = 0x500100 then
    BitVec.ofNat 64 (s.nv.seq.toNat * 2 ^ 8 + (16 - s.nv.stores.length) * 2 ^ 40 + flagAt s.nv.bootdef 60 + flagAt s.nv.fail 61 + flagAt s.nv.limit 62
      + flagAt s.nv.busy 63)
  else 0
/-- A BAR0 register as a function reads it: before READY only the admin-queue registers, HST_DBERR, HST_STATUS and SEC_STATE show anything; an
address in no block and another scope's register read zero (R480, R481). -/
def bar0Look (s : State) (f : FnRef) (a : Nat) : W64 :=
  let x := s.fn f
  let ready := s.phase == .ready
  if !s.present f || !s.up || a % 8 != 0 then 0
  else if a = 0x00 then BitVec.ofNat 64 (flagAt ready 1)
  else if a = 0x18 then x.dbErr
  else if a = 0x20 then x.aqSq
  else if a = 0x28 then x.aqCq
  else if a = 0x30 then BitVec.ofNat 64 (x.aqSqs.toNat + x.aqCqs.toNat * 2 ^ 16)
  else if a = 0x38 then BitVec.ofNat 64 (flagAt x.aqEn 0)
  else if a = 0x300000 then secState s ((partNo f).getD 0xFF)
  else if !ready then 0
  else if a = 0x08 then x.winBase
  else if a = 0x10 then x.winErr
  else if a < 0x100000 then 0
  else if a < 0x200000 then (match partNo f with | some p => partRead s p a | none => 0)
  else if a = 0x200000 then BitVec.ofNat 64 (flagAt s.err.degraded 0 + s.err.lcf.toNat * 2 ^ 8)
  else if a = 0x200008 then s.set.policy
  else if a = 0x200010 then s.err.flogWr.zeroExtend 64
  else if a = 0x200018 then s.err.vec.zeroExtend 64
  else if a = 0x200020 then s.err.stale
  else if a = 0x200040 then s.err.unitSel.zeroExtend 64
  else if a = 0x200048 then unitStat s
  else if 0x200060 ≤ a ∧ a < 0x200168 then (if f.fn = 0 then memRegRead s a else 0)
  else if 0x201000 ≤ a ∧ a < 0x221000 then flogRead s f ((a - 0x201000) / 32) (a / 8 % 4)
  else if a < 0x300000 then 0
  else if a < 0x400000 then
    match partNo f with
    | none => 0
    | some p =>
      let y := tabGet ({} : Part) s.parts p
      if a = 0x300008 then BitVec.ofNat 64 (y.curId.toNat + y.prevId.toNat * 2 ^ 8 + (s.rotateS p).toNat * 2 ^ 32)
      else if a = 0x300010 then y.sealFail
      else if a = 0x300018 then y.replay
      else 0
  else if a < 0x600000 then powerRead s a
  else 0

/-! ## Writing BAR0 -/

/-- A write to the registers of a partition's copy. -/
def partWrite (s : State) (p a : Nat) (val : W64) : State :=
  if 0x110000 ≤ a ∧ a < 0x114000 then
    let c := ctrKey p ((a - 0x110000) / 64)
    if a % 64 = 0x38 then s else s.setContract c { s.contract c with counters := tabSet 0 (s.contract c).counters (a % 64) val }
  else if 0x120000 ≤ a ∧ a < 0x120200 then
    let n := (a - 0x120000) / 16
    if a % 16 = 0 then snowCfgOp s p n val else snowStatOp s p n val
  else if a = 0x130000 then measOp s p val
  else if 0x140000 ≤ a ∧ a < 0x140400 then
    let k := slotKey p ((a - 0x140000) / 64)
    let y := s.mslot k
    match a % 64 with
    | 0x08 => s.setMslot k { y with replay := val }
    | 0x10 => s.setMslot k { y with badrec := val }
    | 0x18 => s.setMslot k { y with draft := val }
    | 0x20 => s.setMslot k { y with accept := val }
    | _ => s
  else s
/-- Replace one 64-bit word of a wide register. -/
def putWord {w : Nat} (x : BitVec w) (i : Nat) (val : W64) : BitVec w :=
  let lo := x.toNat % 2 ^ (64 * i)
  let hi := x.toNat / 2 ^ (64 * i + 64)
  BitVec.ofNat w (lo + val.toNat * 2 ^ (64 * i) + hi * 2 ^ (64 * i + 64))
/-- A write of the physical function to the HBM error registers (R503). -/
def memRegWrite (s : State) (a : Nat) (val : W64) : State :=
  let r : MemRef := .hbm s.err.memSel
  if a = 0x200060 then { s with err := { s.err with memSel := BitVec.ofNat 9 (bits val 8 0) } }
  else if a = 0x200068 then instWrite s r 0xB08 val
  else if a = 0x2000B0 then instWrite s r 0xB50 val
  else if a = 0x2000B8 then instWrite s r 0xB58 val
  else if 0x2000C0 ≤ a ∧ a < 0x200100 then s.onInst r (fun i => { i with tdata := putWord i.tdata ((a - 0x2000C0) / 8) val })
  else if 0x200100 ≤ a ∧ a < 0x200110 then s.onInst r (fun i => { i with tchk := putWord i.tchk ((a - 0x200100) / 8) val })
  else if a = 0x200110 then instWrite s r 0xB70 val
  else if 0x200118 ≤ a ∧ a < 0x200158 then instWrite s r (a - 0x200118 + 0xB80) val
  else if a = 0x200158 then instWrite s r 0xBC0 val
  else if a = 0x200160 then instWrite s r 0xBC8 val
  else s
/-- A package control that the twin controllers serve: held while they restart, and without effect once they have stopped for good (R439). -/
def ctlCmd (s : State) (i : Instr) : State :=
  if s.err.ctlStopped then s else if s.err.ctlRestart then holdCtl s i else runHeld s i
/-- A write to ERR_UNIT_CMD, on the selected unit; the self-test that it may run passes or fails freely (R448 to R450). -/
def unitCmdWrite (s : State) (f : FnRef) (val : W64) : State :=
  let (v, s) := s.freeVal 1
  let arg : BitVec 4 := BitVec.ofNat 4 (bits val 7 4)
  match bits val 3 0 with
  | 1 => ctlCmd s (.errUnitSet (.host f) s.err.unitSel arg (v == 1) s.time)
  | 2 => ctlCmd s (.errUnitReconcile (.host f) s.err.unitSel arg (v == 1) s.time)
  | _ => s
/-- A write to HST_AQSIZE: a field out of 1 to 4,095 stays, and both stay while the admin queue is enabled (R13, R482). -/
def aqSizeOp (s : State) (f : FnRef) (val : W64) : State :=
  let x := s.fn f
  let take (old : W16) (v : Nat) : W16 := if 1 ≤ v ∧ v ≤ 4095 then BitVec.ofNat 16 v else old
  if x.aqEn then s else s.setFn f { x with aqSqs := take x.aqSqs (bits val 15 0), aqCqs := take x.aqCqs (bits val 31 16) }
/-- The controls of the physical function: fault policy, unit commands, HBM error registers, power and MRAM (R481, R503, R523, R533). -/
def pfWrite (s : State) (f : FnRef) (a : Nat) (val : W64) : State :=
  if a = 0x200008 then ctlCmd s (.errPolicyWrite (.host f) val)
  else if a = 0x200050 then unitCmdWrite s f val
  else if 0x200060 ≤ a ∧ a < 0x200168 then memRegWrite s a val
  else if a = 0x400200 then ctlCmd s (.pwrCapWrite (.host f) val)
  else if a = 0x400210 then { s with pwr := { s.pwr with floor := s.pwr.floor && !val.getLsbD 2, curlim := s.pwr.curlim && !val.getLsbD 3 } }
  else if 0x400220 ≤ a ∧ a < 0x400260 then ctlCmd s (.pwrDieCtlWrite (.host f) (BitVec.ofNat 3 ((a - 0x400220) / 8)) val)
  else if a = 0x500100 then
    let s := { s with nv := { s.nv with limit := s.nv.limit && !val.getLsbD 62, fail := s.nv.fail && !val.getLsbD 61 } }
    if val.getLsbD 0 then ctlCmd s (.nvStore (.host f) s.time) else s
  else s
/-- A write of the registers of a function that configure its admin queue pair and count its doorbell errors, and of its window, which the
function may write only when the part is ready (R480, R482, R486). -/
def fnWrite (s : State) (f : FnRef) (a : Nat) (val : W64) : State :=
  let x := s.fn f
  if a = 0x18 then s.setFn f { x with dbErr := val }
  else if a = 0x20 then s.setFn f { x with aqSq := val &&& 0xFFFFFFFFFFFFF000 }
  else if a = 0x28 then s.setFn f { x with aqCq := val &&& 0xFFFFFFFFFFFFF000 }
  else if a = 0x30 then aqSizeOp s f val
  else if a = 0x38 then aqEnOp s f val
  else if s.phase ≠ .ready then s
  else if a = 0x08 then s.setFn f { x with winBase := val &&& 0xFFFFFFFFC0000000 }
  else if a = 0x10 then s.setFn f { x with winErr := val }
  else s
/-- A write of the ERR_ registers that every function holds (R448). -/
def errWrite (s : State) (a : Nat) (val : W64) : State :=
  if a = 0x200018 then { s with err := { s.err with vec := BitVec.ofNat 16 (bits val 15 0) } }
  else if a = 0x200020 then { s with err := { s.err with stale := val } }
  else if a = 0x200040 then { s with err := { s.err with unitSel := BitVec.ofNat 32 (bits val 31 0) } }
  else s
/-- A write of the SEC_ registers of a partition (R468, R473). -/
def secWrite (s : State) (p a : Nat) (val : W64) : State :=
  if a = 0x300008 then hpkeWrite (.secHpkeRotate (BitVec.ofNat 3 p) val s.time) s p val
  else if a = 0x300010 then onPart s p (fun y => { y with sealFail := val })
  else if a = 0x300018 then onPart s p (fun y => { y with replay := val })
  else s
/-- A BAR0 register as a function writes it (R480 to R482). -/
def bar0Write (s : State) (f : FnRef) (a : Nat) (val : W64) : State :=
  if !s.present f || !s.up || a % 8 != 0 then s
  else if a < 0x100000 then fnWrite s f a val
  else if s.phase ≠ .ready then s
  else if a < 0x200000 then (match partNo f with | some p => partWrite s p a val | none => s)
  else if a = 0x200018 ∨ a = 0x200020 ∨ a = 0x200040 then errWrite s a val
  else if 0x300000 ≤ a ∧ a < 0x400000 then (match partNo f with | some p => secWrite s p a val | none => s)
  else if f.fn = 0 then pfWrite s f a val
  else s
/-- REGISTER_WRITE: a write to a register without a row of its own acts by its field access codes (R10 to R13). -/
def execRegisterWrite (reg : RegRef) (val : W64) (s : State) : Res :=
  match reg with
  | .io core thr addr => onCore s core (fun s => if addr.toNat % 8 = 0 ∧ addr.toNat < 0xD00 then ioWrite s core thr addr.toNat val else s)
  | .bar0 fn addr => .next (bar0Write s fn addr.toNat val)

end Sys2Proof.Machine
end

