-- ==== Sys2Proof/Machine/Scalar.lean ====
section
/-! DEFINITION. The scalar class (R73, R124, R125): NOP, integer and fraction operations, compares and predicates, and the instructions
that do not decode. -/

namespace Sys2Proof.Machine

/-- Shift amount: bits [5:0] of the second source (R124). -/
def shAmt (b : W64) : Nat := bits b 5 0

/-- Count of leading zeros, 64 for zero. -/
def clz64 (a : W64) : Nat := if a = 0 then 64 else 63 - a.toNat.log2

/-- Count of set bits among the low `n`. -/
def popCount (a : W64) : Nat → Nat
  | 0 => 0
  | n + 1 => popCount a n + (if a.getLsbD n then 1 else 0)

/-- Low and signed high 64 bits of a product. -/
def mulLow (a b : W64) : W64 := a * b
/-- Signed high half (R124). -/
def mulHigh (a b : W64) : W64 := BitVec.ofInt 64 (a.toInt * b.toInt / (2 ^ 64 : Nat))

/-- A two-source integer operation (R124). -/
def intOp (s : State) (i : Site) (op lat : Nat) (o1 o2 o3 : Byte) (f : W64 → W64 → W64) : Res :=
  issue s i op [o1, o2, o3] 0 (fun x => scalarRes x lat o1 [o2, o3] (fun vs => f (vs.getD 0 0) (vs.getD 1 0)))

/-- An integer operation with an immediate as second source (R120, R124). -/
def immOp (s : State) (i : Site) (op lat : Nat) (o1 o2 : Byte) (imm : W32) (f : W64 → W64 → W64) : Res :=
  issue s i op [o1, o2] imm (fun x => scalarRes x lat o1 [o2] (fun vs => f (vs.getD 0 0) (immVal x.px imm)))

/-- A one-source operation. -/
def unOp (s : State) (i : Site) (op : Nat) (o1 o2 : Byte) (f : W64 → W64) : Res :=
  issue s i op [o1, o2] 0 (fun x => scalarRes x latAlu o1 [o2] (fun vs => f (vs.getD 0 0)))

/-- A truth value as a predicate write. -/
def predVal (b : Bool) : W64 := if b then 1 else 0

/-- A compare of two sources into a predicate (R124). -/
def cmpOp (s : State) (i : Site) (op : Nat) (o1 o2 o3 : Byte) (f : W64 → W64 → Bool) : Res :=
  issue s i op [o1, o2, o3] 0 (fun x => scalarRes x latPred o1 [o2, o3] (fun vs => predVal (f (vs.getD 0 0) (vs.getD 1 0))))

/-- A compare with an immediate into a predicate (R124). -/
def cmpImm (s : State) (i : Site) (op : Nat) (o1 o2 : Byte) (imm : W32) (f : W64 → W64 → Bool) : Res :=
  issue s i op [o1, o2] imm (fun x => scalarRes x latPred o1 [o2] (fun vs => predVal (f (vs.getD 0 0) (immVal x.px imm))))

/-- A predicate operation (R124). -/
def predOp (s : State) (i : Site) (op : Nat) (o1 : Byte) (srcs : List Byte) (f : List Bool → Bool) : Res :=
  issue s i op (o1 :: srcs) 0 (fun x =>
    let vals := srcs.map (fun b => x.th.readP (indexOf b))
    .done x.s [{ lat := latPred, dst := .p (indexOf o1), val := (predVal (f vals)).zeroExtend 512 }] none)

/-- The F32 code in bits [31:0] of a source (R125). -/
def f32Code (a : W64) : Int := toSigned 32 (bits a 31 0)

/-- A fraction result as a scalar register holds it: sign-extended to 64 bits (R125). -/
def f32Result (x : Int) : W64 := BitVec.ofInt 64 x

/-- A fraction operation: the exact result and the bits it drops, rounded, then saturated or wrapped, setting SOVF (R46, R50, R52, R54,
R59, R125). -/
def fracOp (s : State) (i : Site) (op lat : Nat) (o1 o2 o3 : Byte) (exact : Int → Int → Int) (drop : Nat) : Res :=
  issue s i op [o1, o2, o3] 0 (fun x =>
    withOps x [o1] [o2, o3] (fun k vs ds =>
      let (r, rng) := scaleRound x.mode x.th.rngS (exact (f32Code (vs.getD 0 0)) (f32Code (vs.getD 1 0))) (-(drop : Int))
      let (r, ovf) := satWrap x.sat 32 r
      let k := k.setThread x.t { (k.thread x.t) with rngS := rng }
      .done (x.s.setCore x.c k) (ds.map (fun d => { lat := lat, dst := d, val := (f32Result r).zeroExtend 512, sovf := ovf })) none))

/-- NOP: one issue in slot S and one tick (R73, R76). -/
def execNop (i : Site) (s : State) : Res := issue s i 0x00 [] 0 (fun x => .done x.s [] none)

/-- ADD (R124). -/
def execAdd (i : Site) (o1 o2 o3 : Byte) (s : State) : Res := intOp s i 0x01 latAlu o1 o2 o3 (· + ·)
/-- SUB (R124). -/
def execSub (i : Site) (o1 o2 o3 : Byte) (s : State) : Res := intOp s i 0x02 latAlu o1 o2 o3 (· - ·)
/-- AND (R124). -/
def execAnd (i : Site) (o1 o2 o3 : Byte) (s : State) : Res := intOp s i 0x03 latAlu o1 o2 o3 (· &&& ·)
/-- OR (R124). -/
def execOr (i : Site) (o1 o2 o3 : Byte) (s : State) : Res := intOp s i 0x04 latAlu o1 o2 o3 (· ||| ·)
/-- XOR (R124). -/
def execXor (i : Site) (o1 o2 o3 : Byte) (s : State) : Res := intOp s i 0x05 latAlu o1 o2 o3 (· ^^^ ·)
/-- SHL (R124). -/
def execShl (i : Site) (o1 o2 o3 : Byte) (s : State) : Res := intOp s i 0x06 latAlu o1 o2 o3 (fun a b => a <<< shAmt b)
/-- SHR (R124). -/
def execShr (i : Site) (o1 o2 o3 : Byte) (s : State) : Res := intOp s i 0x07 latAlu o1 o2 o3 (fun a b => a >>> shAmt b)
/-- SAR (R124). -/
def execSar (i : Site) (o1 o2 o3 : Byte) (s : State) : Res := intOp s i 0x08 latAlu o1 o2 o3 (fun a b => a.sshiftRight (shAmt b))
/-- MIN, signed (R124). -/
def execMin (i : Site) (o1 o2 o3 : Byte) (s : State) : Res := intOp s i 0x09 latAlu o1 o2 o3 (fun a b => if a.slt b then a else b)
/-- MAX, signed (R124). -/
def execMax (i : Site) (o1 o2 o3 : Byte) (s : State) : Res := intOp s i 0x0A latAlu o1 o2 o3 (fun a b => if a.slt b then b else a)
/-- MUL, low 64 bits (R124). -/
def execMul (i : Site) (o1 o2 o3 : Byte) (s : State) : Res := intOp s i 0x0B latMul o1 o2 o3 mulLow
/-- MULH, signed high 64 bits (R124). -/
def execMulh (i : Site) (o1 o2 o3 : Byte) (s : State) : Res := intOp s i 0x0C latMul o1 o2 o3 mulHigh
/-- FMUL: the exact product at 2^−62 loses its 31 low bits (R53, R125). -/
def execFmul (i : Site) (o1 o2 o3 : Byte) (s : State) : Res := fracOp s i 0x0D latMul o1 o2 o3 (· * ·) 31
/-- FADD: exact before saturation, so it draws nothing (R50, R125). -/
def execFadd (i : Site) (o1 o2 o3 : Byte) (s : State) : Res := fracOp s i 0x0E latAlu o1 o2 o3 (· + ·) 0
/-- FSUB (R125). -/
def execFsub (i : Site) (o1 o2 o3 : Byte) (s : State) : Res := fracOp s i 0x0F latAlu o1 o2 o3 (· - ·) 0
/-- ADDI (R124). -/
def execAddi (i : Site) (o1 o2 : Byte) (imm : W32) (s : State) : Res := immOp s i 0x10 latAlu o1 o2 imm (· + ·)
/-- ANDI (R124). -/
def execAndi (i : Site) (o1 o2 : Byte) (imm : W32) (s : State) : Res := immOp s i 0x11 latAlu o1 o2 imm (· &&& ·)
/-- ORI (R124). -/
def execOri (i : Site) (o1 o2 : Byte) (imm : W32) (s : State) : Res := immOp s i 0x12 latAlu o1 o2 imm (· ||| ·)
/-- XORI (R124). -/
def execXori (i : Site) (o1 o2 : Byte) (imm : W32) (s : State) : Res := immOp s i 0x13 latAlu o1 o2 imm (· ^^^ ·)
/-- SHLI (R124). -/
def execShli (i : Site) (o1 o2 : Byte) (imm : W32) (s : State) : Res := immOp s i 0x14 latAlu o1 o2 imm (fun a b => a <<< shAmt b)
/-- SHRI (R124). -/
def execShri (i : Site) (o1 o2 : Byte) (imm : W32) (s : State) : Res := immOp s i 0x15 latAlu o1 o2 imm (fun a b => a >>> shAmt b)
/-- SARI (R124). -/
def execSari (i : Site) (o1 o2 : Byte) (imm : W32) (s : State) : Res := immOp s i 0x16 latAlu o1 o2 imm (fun a b => a.sshiftRight (shAmt b))
/-- MULI (R124). -/
def execMuli (i : Site) (o1 o2 : Byte) (imm : W32) (s : State) : Res := immOp s i 0x17 latMul o1 o2 imm mulLow
/-- LI: the sign-extended immediate (R120, R124). -/
def execLi (i : Site) (o1 : Byte) (imm : W32) (s : State) : Res :=
  issue s i 0x18 [o1] imm (fun x => scalarRes x latAlu o1 [] (fun _ => immVal x.px imm))
/-- LIH: bits [63:32] from the immediate zero-extended to 32 bits, bits [31:0] kept as read at issue (R125). -/
def execLih (i : Site) (o1 : Byte) (imm : W32) (s : State) : Res :=
  issue s i 0x19 [o1] imm (fun x => scalarRes x latAlu o1 [o1] (fun vs =>
    BitVec.ofNat 64 (rawImm x.px imm * 2 ^ 32 + bits (vs.getD 0 0) 31 0)))
/-- MOV (R124). -/
def execMov (i : Site) (o1 o2 : Byte) (s : State) : Res := unOp s i 0x1A o1 o2 id
/-- CLZ (R124). -/
def execClz (i : Site) (o1 o2 : Byte) (s : State) : Res := unOp s i 0x1B o1 o2 (fun a => BitVec.ofNat 64 (clz64 a))
/-- POPC (R124). -/
def execPopc (i : Site) (o1 o2 : Byte) (s : State) : Res := unOp s i 0x1C o1 o2 (fun a => BitVec.ofNat 64 (popCount a 64))
/-- CMPEQ (R124). -/
def execCmpeq (i : Site) (o1 o2 o3 : Byte) (s : State) : Res := cmpOp s i 0x20 o1 o2 o3 (fun a b => a == b)
/-- CMPNE (R124). -/
def execCmpne (i : Site) (o1 o2 o3 : Byte) (s : State) : Res := cmpOp s i 0x21 o1 o2 o3 (fun a b => a != b)
/-- CMPLT, signed (R124). -/
def execCmplt (i : Site) (o1 o2 o3 : Byte) (s : State) : Res := cmpOp s i 0x22 o1 o2 o3 (fun a b => a.slt b)
/-- CMPLTU (R124). -/
def execCmpltu (i : Site) (o1 o2 o3 : Byte) (s : State) : Res := cmpOp s i 0x23 o1 o2 o3 (fun a b => a.ult b)
/-- CMPLE, signed (R124). -/
def execCmple (i : Site) (o1 o2 o3 : Byte) (s : State) : Res := cmpOp s i 0x24 o1 o2 o3 (fun a b => a.sle b)
/-- CMPLEU (R124). -/
def execCmpleu (i : Site) (o1 o2 o3 : Byte) (s : State) : Res := cmpOp s i 0x25 o1 o2 o3 (fun a b => a.ule b)
/-- CMPEQI (R124). -/
def execCmpeqi (i : Site) (o1 o2 : Byte) (imm : W32) (s : State) : Res := cmpImm s i 0x28 o1 o2 imm (fun a b => a == b)
/-- CMPNEI (R124). -/
def execCmpnei (i : Site) (o1 o2 : Byte) (imm : W32) (s : State) : Res := cmpImm s i 0x29 o1 o2 imm (fun a b => a != b)
/-- CMPLTI, signed (R124). -/
def execCmplti (i : Site) (o1 o2 : Byte) (imm : W32) (s : State) : Res := cmpImm s i 0x2A o1 o2 imm (fun a b => a.slt b)
/-- CMPLTUI (R124). -/
def execCmpltui (i : Site) (o1 o2 : Byte) (imm : W32) (s : State) : Res := cmpImm s i 0x2B o1 o2 imm (fun a b => a.ult b)
/-- CMPLEI, signed (R124). -/
def execCmplei (i : Site) (o1 o2 : Byte) (imm : W32) (s : State) : Res := cmpImm s i 0x2C o1 o2 imm (fun a b => a.sle b)
/-- CMPLEUI (R124). -/
def execCmpleui (i : Site) (o1 o2 : Byte) (imm : W32) (s : State) : Res := cmpImm s i 0x2D o1 o2 imm (fun a b => a.ule b)
/-- PAND (R124). -/
def execPand (i : Site) (o1 o2 o3 : Byte) (s : State) : Res := predOp s i 0x30 o1 [o2, o3] (fun v => v.getD 0 false && v.getD 1 false)
/-- POR (R124). -/
def execPor (i : Site) (o1 o2 o3 : Byte) (s : State) : Res := predOp s i 0x31 o1 [o2, o3] (fun v => v.getD 0 false || v.getD 1 false)
/-- PXOR (R124). -/
def execPxor (i : Site) (o1 o2 o3 : Byte) (s : State) : Res := predOp s i 0x32 o1 [o2, o3] (fun v => v.getD 0 false != v.getD 1 false)
/-- PNOT (R124). -/
def execPnot (i : Site) (o1 o2 : Byte) (s : State) : Res := predOp s i 0x33 o1 [o2] (fun v => !v.getD 0 false)

/-- What a scan of an instruction's first bytes finds: whether an opcode byte stands within them, whether a reserved prefix or payload
does, the prefix kinds, the prefix bytes counted, and whether the bytes ended (R73, R113). -/
structure Scan where
  opcode : Bool := false
  reserved : Bool := false
  dup    : Bool := false
  count  : Nat := 0
  ended  : Bool := false
deriving DecidableEq, Repr

/-- Scan bytes for prefixes. -/
def scanBytes : Nat → List Byte → List Nat → Nat → Bool → Bool → Scan
  | 0, _, _, n, res, dup => { reserved := res, dup := dup, count := n }
  | _ + 1, [], _, n, res, dup => { reserved := res, dup := dup, count := n, ended := true }
  | fuel + 1, b :: r, kinds, n, res, dup =>
    if b.toNat < 0xE0 then { opcode := true, reserved := res, dup := dup, count := n }
    else if b.toNat ≥ 0xF5 then { reserved := true, dup := dup, count := n }
    else
      let kind := if b.toNat < 0xF0 then 0 else b.toNat - 0xEF
      let pay := match b.toNat with | 0xF1 => 3 | 0xF2 => 1 | 0xF3 => 1 | 0xF4 => 1 | _ => 0
      let res := res || (match b.toNat with
        | 0xF1 => (r.take 3).any (fun x => x.getLsbD 7)
        | 0xF2 => decide (1 < bits (r.headD 0) 7 4)
        | 0xF3 => decide (0 < bits (r.headD 0) 7 4) || decide (4 < bits (r.headD 0) 2 0)
        | 0xF4 => decide (0 < bits (r.headD 0) 7 6)
        | _ => false)
      if r.length < pay then { reserved := res, dup := dup || kinds.contains kind, count := n + 1 + r.length, ended := true }
      else scanBytes fuel (r.drop pay) (kind :: kinds) (n + 1 + pay) res (dup || kinds.contains kind)

/-- UNDECODABLE_INSTRUCTION: no opcode byte is found. A reserved prefix raises ILLEGAL_ENCODING, more than 15 prefix bytes
LENGTH_OVERFLOW, a repeated prefix kind PREFIX_CONFLICT, bytes running past 0xFFFF SPACE_VIOLATION at 0x1_0000; the lowest code is
recorded (R73, R93, R110, R549). Such bytes compete for slot S (R73). -/
def execUndecodable (c : CoreId) (t : BitVec 2) (bytes : List Byte) (s : State) : Res :=
  if !isCore c then .fault .noSuchCore
  else
    let th := s.thread c t
    let x : Iss := { s := s, c := c, t := t, px := [], imm := 0, pc := th.pc, len := 0, mode := 0, sat := true }
    let sc := scanBytes 17 bytes [] 0 false false
    let past := th.past || (sc.ended && decide (0x10000 ≤ th.pc.toNat + bytes.length))
    let bytes8 := firstBytes (s.core c) th.pc bytes
    let fs := (if sc.reserved then [(1, bytes8)] else []) ++ (if sc.dup then [(2, bytes8)] else [])
      ++ (if 15 < sc.count then [(3, bytes8)] else []) ++ (if past then [(0x0D, (0x10000 : W64))] else [])
    if !s.clocked || !(th.st == .running || th.st == .waiting) || (sc.opcode && decide (sc.count ≤ 15)) then .next s
    else if th.asyncDue then .next (deliverNext s c t)
    else .next (if slotGrants s c t .S then issueFault s x .S fs else s)

/-- RESERVED_OPCODE: an opcode that no reference table lists raises ILLEGAL_ENCODING whatever the guard (R87, R123). An opcode byte that a
table does list is no reserved opcode, and the command does nothing. -/
def execReservedOpcode (i : Site) (opc : Byte) (s : State) : Res :=
  if (opSig opc.toNat).isSome then .next s else issue s i opc.toNat [] 0 (fun x => .done x.s [] none)

end Sys2Proof.Machine
end

