-- ==== Sys2Proof/Machine/Control.lean ====
section
/-! DEFINITION. Branches, loops and END (R88, R91, R126 to R129). -/

namespace Sys2Proof.Machine

/-- A branch to a 64-bit target: in range it is taken, else SPACE_VIOLATION with the target (R127, R549). -/
def branchTo (target : W64) (s : State) (ws : List Wr) : IssRes :=
  if target.toNat ≤ 0xFFFF then .done s ws (some target.toNat) else .fault [(0x0D, target)]

/-- The target of BR and BRL: the branch's own address plus the sign-extended offset (R127). -/
def relTarget (x : Iss) (imm : W32) : W64 := x.pc.zeroExtend 64 + immVal x.px imm

/-- BR (R127). -/
def execBr (i : Site) (imm : W32) (s : State) : Res :=
  issue s i 0xD0 [] imm (fun x => branchTo (relTarget x imm) x.s [])

/-- BRL: O1 receives the address of the next instruction (R126, R127). -/
def execBrl (i : Site) (o1 : Byte) (imm : W32) (s : State) : Res :=
  issue s i 0xD1 [o1] imm (fun x =>
    withOps x [o1] [] (fun k _ ds =>
      branchTo (relTarget x imm) (x.s.setCore x.c k)
        (ds.map (fun d => { lat := latAlu, dst := d, val := BitVec.ofNat 512 (x.pc.toNat + x.len) }))))

/-- JR: the value of O1 plus the sign-extended immediate (R126, R127). -/
def execJr (i : Site) (o1 : Byte) (imm : W32) (s : State) : Res :=
  issue s i 0xD2 [o1] imm (fun x =>
    withOps x [] [o1] (fun k vs _ => branchTo (vs.getD 0 0 + immVal x.px imm) (x.s.setCore x.c k) []))

/-- Start a loop: it replaces an active loop on the same counter and is the latest started (R88, R128). -/
def startLoop (th : Thread) (l : Loop) : Thread := { th with loops := l :: th.loops.filter (fun o => o.lc ≠ l.lc) }

/-- Where a LOOP of count zero continues: after the body's last instruction, or at it when its bytes do not decode (R128). -/
def skipBody (k : Core) (last : Nat) : Nat :=
  match decodeLen (getBytes 0xFF k.istore.data last (min 17 (0x10000 - last))) with
  | some n => last + n
  | none => last

/-- LOOP: loads lcN with the count; zero skips the body and starts no loop (R88, R128). A loop that is still active on the counter stays active
then: a LOOP that starts no loop replaces none (DEDUCED, log 125). -/
def execLoop (i : Site) (o1 o2 : Byte) (imm : W32) (s : State) : Res :=
  issue s i 0xD3 [o1, o2] imm (fun x =>
    withOps x [] [o2] (fun k vs _ =>
      let n : W32 := (vs.getD 0 0).truncate 32
      let last := x.pc.toNat + rawImm x.px imm
      let th := (k.thread x.t).writeLc (indexOf o1) n
      if n = 0 then .done (x.s.setCore x.c (k.setThread x.t th)) [] (some (skipBody k last))
      else
        let th := startLoop th { lc := BitVec.ofNat 2 (indexOf o1), head := x.pc + BitVec.ofNat 16 x.len, last := last, ring := none }
        .done (x.s.setCore x.c (k.setThread x.t th)) [] none))

/-- LOOPT: lcN starts at zero, bound to a ring; a ring number above 63 raises ALTITUDE (R91, R129). -/
def execLoopt (i : Site) (o1 o2 : Byte) (imm : W32) (s : State) : Res :=
  issue s i 0xD4 [o1, o2] imm (fun x =>
    withOps x [] [o2] (fun k vs _ =>
      let ring := vs.getD 0 0
      if 63 < ring.toNat then .fault [(0x0A, ring)]
      else
        let th := (k.thread x.t).writeLc (indexOf o1) 0
        let th := startLoop th { lc := BitVec.ofNat 2 (indexOf o1), head := x.pc + BitVec.ofNat 16 x.len,
                                 last := x.pc.toNat + rawImm x.px imm, ring := some (ring.truncate 6) }
        .done (x.s.setCore x.c (k.setThread x.t th)) [] none))

/-- END: the thread stops, its results complete (R78, R106). -/
def execEndT (i : Site) (s : State) : Res :=
  issue s i 0xD5 [] 0 (fun x =>
    let k := flushPend x.k x.t
    .done (x.s.setCore x.c (k.setThread x.t { (k.thread x.t) with st := .stopped })) [] none)

end Sys2Proof.Machine
end

