-- ==== Sys2Proof/Machine/Matrix.lean ====
section
/-! DEFINITION. The matrix engine's work (R40 to R44, R151 to R176, R179 to R183, R202, R203): starting an operation, its steps and their
checks, the load-store path, fences and the latent checker test. -/

namespace Sys2Proof.Machine

/-! ## What an operation touches (R174) -/

/-- Tiles that a thread owns, by either view of the configuration. -/
def Me.ownedBy (m : Me) (t : BitVec 2) : List Nat :=
  (List.range 24).filter (fun n => cfgOwner (m.tile n).cfg == t.toNat || cfgOwner (m.tile n).live == t.toNat)

/-- Tiles of a TFREE mask. -/
def maskTiles (mask : BitVec 24) : List Nat := (List.range 24).filter (fun n => mask.getLsbD n)

/-- Tiles whose contents an operation reads. -/
def opReads (m : Me) (o : MeOp) : List Nat :=
  match o.kind with
  | .tcfg _ _ _ => []
  | .tfree _ => []
  | .tld _ _ _ _ _ => []
  | .tldc _ _ _ _ _ _ => []
  | .tst n _ _ _ _ => [n]
  | .mma a b c _ _ _ zero pat mt _ => (if zero then [] else [a]) ++ [b, c] ++ (if pat then [mt] else [])
  | .save _ => m.ownedBy o.thr
  | .rest _ => []
  | .trdv _ n _ _ => [n]
  | .twrv _ _ _ _ => []

/-- Tiles that an operation writes, TCFG and TFREE included. -/
def opWrites (m : Me) (o : MeOp) : List Nat :=
  match o.kind with
  | .tcfg n _ _ => [n]
  | .tfree mask => maskTiles mask
  | .tld n _ _ _ _ => [n]
  | .tldc n _ _ _ _ _ => [n]
  | .tst _ _ _ _ _ => []
  | .mma a _ _ _ _ _ _ _ _ _ => [a]
  | .save _ => []
  | .rest _ => m.ownedBy o.thr
  | .trdv _ _ _ _ => []
  | .twrv n _ _ _ => [n]

/-- Whether an operation runs on the arrays. -/
def isMma (o : MeOp) : Bool := match o.kind with | .mma _ _ _ _ _ _ _ _ _ _ => true | _ => false
/-- The accumulator of an MMA, 24 for any other operation. -/
def mmaAcc (o : MeOp) : Nat := match o.kind with | .mma a _ _ _ _ _ _ _ _ _ => a | _ => 24

/-- Whether `o` must wait for the earlier incomplete operation `e` (R174); MMAs into one accumulator chain. -/
def mustWait (m : Me) (e o : MeOp) : Bool :=
  let chain (n : Nat) : Bool := isMma e && isMma o && mmaAcc e == n && mmaAcc o == n
  (opWrites m e).any (fun n => !chain n && ((opReads m o).contains n || (opWrites m o).contains n))
    || (opReads m e).any (fun n => !chain n && (opWrites m o).contains n)

/-- Whether a fenced tile stops an operation: TCFG, TFREE, SAVETILES and RESTTILES act tile by tile instead (R154, R157, R158, R180). -/
def meetsFence (m : Me) (o : MeOp) : Bool :=
  match o.kind with
  | .tcfg _ _ _ => false
  | .tfree _ => false
  | .save _ => false
  | .rest _ => false
  | _ => (opReads m o ++ opWrites m o).any (fun n => (m.tile n).fence)

/-! ## Steps of an MMA (R166 to R171) -/

/-- The fields of an MMA that its steps use. -/
structure MmaDims where
  acc  : Nat
  a    : Nat
  b    : Nat
  m    : Nat
  n    : Nat
  k    : Nat
  zero : Bool
  pat  : Bool
  mt   : Nat
  stat : BitVec 2
deriving DecidableEq, Repr

/-- The MMA of an operation. -/
def mmaOf (o : MeOp) : Option MmaDims :=
  match o.kind with
  | .mma a b c m n k z p mt st => some { acc := a, a := b, b := c, m := m, n := n, k := k, zero := z, pat := p, mt := mt, stat := st }
  | _ => none

/-- Array width (R185). -/
def Me.w (m : Me) : Nat := bits m.width 3 0
/-- Element width of an operand tile as the engine has it. -/
def Me.opW (m : Me) (n : Nat) : Nat := fmtW (cfgFmt (m.tile n).live)
/-- K of a step (R166): by the wider operand, doubled under PATTERN 1. -/
def kStep (m : Me) (d : MmaDims) : Nat :=
  let s := match max (m.opW d.a) (m.opW d.b) with | 4 => 8 | 8 => 4 | _ => 1
  if d.pat then 2 * s else s

def ceilDiv (a b : Nat) : Nat := if b = 0 then 0 else (a + b - 1) / b

/-- All (m-block, n-block, k-step) of an MMA in the order of STAT (R168). -/
def allSteps (m : Me) (d : MmaDims) : List (Nat × Nat × Nat) :=
  let bm := List.range (ceilDiv d.m 8)
  let bn := List.range (ceilDiv d.n m.w)
  let bk := List.range (ceilDiv d.k (kStep m d))
  match d.stat.toNat with
  | 1 => bn.flatMap (fun j => bk.flatMap (fun k => bm.map (fun i => (i, j, k))))
  | 3 => bm.flatMap (fun i => bk.flatMap (fun k => bn.map (fun j => (i, j, k))))
  | _ => bm.flatMap (fun i => bn.flatMap (fun j => bk.map (fun k => (i, j, k))))

/-- The tile group of a k-step. -/
def stepGroup (m : Me) (d : MmaDims) (k : Nat) : Nat := k * kStep m d / 32

/-- Whether group `g` of every row in `[lo, hi)` of tile `n` is a zero group (R34, R171). -/
def zeroRows (m : Me) (n g lo hi : Nat) : Bool :=
  fmtGroup (cfgFmt (m.tile n).live) && (List.range (hi - lo)).all (fun r => (m.tile n).expAt (lo + r) g == 0x80)

/-- Whether a step is skipped (R171). -/
def skipped (m : Me) (d : MmaDims) (st : Nat × Nat × Nat) : Bool :=
  let (i, j, k) := st
  let g := stepGroup m d k
  zeroRows m d.a g (8 * i) (min (8 * i + 8) d.m) || zeroRows m d.b g (m.w * j) (min (m.w * j + m.w) d.n)

/-- The steps that run, in order. -/
def liveSteps (m : Me) (d : MmaDims) : List (Nat × Nat × Nat) := (allSteps m d).filter (fun st => !skipped m d st)

/-- The steps of an operation; none for one that is no MMA. -/
def opSteps (m : Me) (o : MeOp) : List (Nat × Nat × Nat) :=
  match mmaOf o with
  | some d => liveSteps m d
  | none => []

/-! ## Contributions (R40 to R44, R152, R170, R202, R203) -/

/-- Position that metadata gives kept element `j` of row `n` of B (R202). -/
def metaPos (m : Me) (mt n j : Nat) : Nat :=
  let b := ((m.tile mt).byteAt n (j / 4)).toNat
  b / 4 ^ (j % 4) % 4

/-- The group sum S of accumulator element (r, c) for group `g`, missing elements counting as zero (R33, R41, R172). -/
def groupSum (m : Me) (d : MmaDims) (r c g : Nat) : Int :=
  let ta := m.tile d.a
  let tb := m.tile d.b
  let wa := m.opW d.a
  let wb := m.opW d.b
  if d.pat then
    ((List.range (min 16 (d.k / 2 - 16 * g))).map (fun j =>
      let j := 16 * g + j
      let ka := 4 * (j / 2) + metaPos m d.mt c j
      if ka < d.k then ta.elem wa r ka * tb.elem wb c j else 0)).foldl (· + ·) 0
  else
    ((List.range (min 32 (d.k - 32 * g))).map (fun k =>
      let k := 32 * g + k
      ta.elem wa r k * tb.elem wb c k)).foldl (· + ·) 0

/-- The exponent that an operand row adds for group `g`: none for a zero group, 0 for an operand without group scale (R34, R42). -/
def groupExpOf (m : Me) (n r g : Nat) : Option Int :=
  if fmtGroup (cfgFmt (m.tile n).live) then
    let e := (m.tile n).expAt r g
    if e = 0x80 then none else some (toSigned 8 e.toNat)
  else some 0

/-- Add the contribution of group `g` to accumulator element (r, c): the new element, the generator, and whether anything clamped or
wrapped (R42 to R44, R170). -/
def contribute (m : Me) (d : MmaDims) (mode : Nat) (sat : Bool) (rng : W64) (r c g : Nat) (old : BitVec 40) : BitVec 40 × W64 × Bool :=
  match groupExpOf m d.a r g, groupExpOf m d.b c g with
  | some ea, some eb =>
    let e := (33 : Int) - (m.opW d.a : Nat) - (m.opW d.b : Nat) + (ea + eb - cfgEo (m.tile d.acc).live)
    let (x, rng) := scaleRound mode rng (groupSum m d r c g) e
    let (x, o) := satWrap sat 40 x
    let (x, o') := accAdd sat (toSigned 40 old.toNat) x
    (BitVec.ofInt 40 x, rng, o || o')
  | _, _ => (old, rng, false)

/-- Apply the contributions of one (m-block, n-block, group) in row-major element order (R151, R170). -/
def applyUnit (m : Me) (d : MmaDims) (mode : Nat) (sat : Bool) (rng : W64) (i j g : Nat) : Tile × W64 × Bool :=
  let rows := (List.range 8).map (8 * i + ·) |>.filter (· < d.m)
  let cols := (List.range m.w).map (m.w * j + ·) |>.filter (· < d.n)
  (rows.flatMap (fun r => cols.map (fun c => (r, c)))).foldl
    (fun (acc : Tile × W64 × Bool) rc =>
      let (x, rng, o) := contribute m d mode sat acc.2.1 rc.1 rc.2 g (acc.1.accAt rc.1 rc.2)
      (acc.1.putAcc rc.1 rc.2 x, rng, acc.2.2 || o))
    ((m.tile d.acc).fresh, rng, false)

/-- Zero the elements of an MMAZ's region (R151, R169). -/
def zeroRegion (t : Tile) (rows cols : Nat) : Tile :=
  (rowMajor rows cols).foldl (fun t rc => t.putAcc rc.1 rc.2 0) t.fresh

/-! ## Queue bookkeeping -/

/-- Replace the queue of the engine. -/
def Core.setQueue (k : Core) (q : List MeOp) : Core := k.setMe { k.me with queue := q }
/-- Remove an operation from the queue. -/
def dropOp (q : List MeOp) (id : Nat) : List MeOp := q.filter (fun o => o.id ≠ id)
/-- Replace an operation in the queue. -/
def putOp (q : List MeOp) (o : MeOp) : List MeOp := q.map (fun p => if p.id = o.id then o else p)

/-- RNG-M as an operation continues with it (R51). -/
def opRng (th : Thread) (o : MeOp) : W64 := if o.epoch = th.rngEpoch then th.rngM else tabGet th.rngM th.rngOld o.epoch
/-- Put RNG-M back. -/
def putOpRng (th : Thread) (o : MeOp) (x : W64) : Thread :=
  if o.epoch = th.rngEpoch then { th with rngM := x } else { th with rngOld := tabPut th.rngOld o.epoch x }

/-- An operation completes: its entry is freed, and a clamp is remembered for the next MSYNC (R137, R175). -/
def finishOp (s : State) (c : CoreId) (o : MeOp) : State :=
  let k := s.core c
  let k := k.setQueue (dropOp k.me.queue o.id)
  let th := k.thread o.thr
  s.setCore c (k.setThread o.thr { th with clamped := th.clamped || o.clamped })

/-- Set the TILE_AOVF bit of an accumulator (R54, R57). -/
def setAovf (m : Me) (n : Nat) (o : Bool) : Me := if o then { m with aovf := m.aovf ||| ((1 : Byte) <<< (n - 16)) } else m

/-- The accumulator tile of an MMAZ with its region at zero; a tile not in use has all of it written (R151, R153, R169, R342). -/
def zeroAcc (m : Me) (d : MmaDims) : Me :=
  (m.setTile d.acc (zeroRegion (m.tile d.acc) d.m d.n)).wroteIn d.acc
    (if (m.tile d.acc).inUse then (List.range d.m).map (fun r => (160 * r, 5 * d.n)) else wholeTile d.acc)

/-- An MMA without steps completes; an MMAZ writes zero to its region (R175). -/
def finishEmpty (s : State) (c : CoreId) (o : MeOp) : State :=
  match mmaOf o with
  | some d =>
    let k := s.core c
    let k := if d.zero then k.setMe (zeroAcc k.me d) else k
    finishOp (s.setCore c k) c o
  | none => s

/-- Whether an MMA without steps may complete behind the operations before it: every earlier MMA has sent all its steps into the arrays, and
none is still adding into the accumulator that an MMAZ would zero (R169, R175; log 129). -/
def emptyReady (m : Me) (o : MeOp) (before : List MeOp) : Bool :=
  before.all (fun e => !isMma e || (decide ((opSteps m e).length ≤ e.entered) && !(mmaAcc e == mmaAcc o && (mmaOf o).any (·.zero))))

/-- Complete started MMAs without steps whose first step would have entered by now, oldest first (R169, R175). -/
def sweepEmpty : Nat → State → CoreId → State
  | 0, s, _ => s
  | fuel + 1, s, c =>
    let m := (s.core c).me
    match m.queue.find? (fun o => isMma o && o.started && (opSteps m o).isEmpty && emptyReady m o (m.queue.takeWhile (fun e => e.id ≠ o.id))) with
    | some o => sweepEmpty fuel (finishEmpty s c o) c
    | none => s

/-- Fence a tile: it is marked, the operations on it that have started stop and free their entries, and the issuing thread takes
ARITH_CHECK (R180). -/
def fenceTile (s : State) (c : CoreId) (n : Nat) (o : MeOp) (cause : Nat := 0) : State :=
  let k := s.core c
  let t := k.me.tile n
  let m := k.me.setTile n { t with fence := true }
  let q := m.queue.filter (fun p => p.id ≠ o.id && !(p.started && ((opReads m p ++ opWrites m p).contains n)))
  raiseAsync (s.setCore c (k.setMe { m with queue := q })) c o.thr 0x0B o.pc (BitVec.ofNat 64 n) o.ord none cause

/-! ## ME_OP_START (R171, R174, R175, R180) -/

/-- The first entry that has not started, when every earlier dependence has cleared. -/
def startable (m : Me) : Option MeOp :=
  match m.queue.find? (fun o => !o.started) with
  | none => none
  | some o => if (m.queue.takeWhile (fun e => e.id ≠ o.id)).any (fun e => mustWait m e o) then none else some o

/-- The first tile that an operation reads whose stored parity fails (R342). -/
def opParity (k : Core) (o : MeOp) : Option (Nat × Nat) :=
  (opReads k.me o).findSome? (fun n => if (k.me.tile n).fence then none else (k.me.parityBad (k.inst 2) n).map (fun a => (n, a)))

/-- ME_OP_START: the next entry starts; one that meets a fenced tile, or whose steps are all skipped, completes here. -/
def execMeOpStart (c : CoreId) (s : State) : Res :=
  if !isCore c then .fault .noSuchCore
  else if !s.clocked then .next s
  else
    let k := s.core c
    match startable k.me with
    | none => .next s
    | some o =>
      if meetsFence k.me o then .next (releaseHeld (finishOp s c o) c)
      else
        let k := (opReads k.me o ++ opWrites k.me o).foldl Core.serveTile k
        let s := s.setCore c k
        match opParity k o with
        | some (n, a) =>
          let k := k.setInst 2 (instUe (k.inst 2) a)
          let s := s.report { unit := unitCore c, cls := 2, code := 0x0B, place := k.place, detail := BitVec.ofNat 64 a, tile := true }
          .next (releaseHeld (fenceTile (s.setCore c k) c n o 2) c)
        | none =>
          let o := { o with started := true }
          let s := s.setCore c (k.setQueue (putOp k.me.queue o))
          match mmaOf o with
          | none => .next s
          | some d =>
            let s := s.perfAdd c 0x0C08 ((allSteps k.me d).length - (liveSteps k.me d).length)
            .next (releaseHeld (sweepEmpty 8 s c) c)

/-! ## MMA_STEP and MMA_STEP_CHECK (R175, R179, R180) -/

/-! ## Operand cache and reuse latches (R177, R178) -/

/-- An instruction of retention class `cls` reads a block: a hit moves it to the recent end under that class; a miss puts it in, and of a full
cache the least recently used entry of the lowest class leaves. The cache and whether it hit (R177, R178; log 130). -/
def cacheRead (cls : Nat) (q : List CacheEnt) (tile block : Nat) : List CacheEnt × Bool :=
  let e : CacheEnt := { tile := tile, block := block, cls := cls }
  if q.any (fun x => x.tile == tile && x.block == block) then (q.filter (fun x => !(x.tile == tile && x.block == block)) ++ [e], true)
  else if q.length < 8 then (q ++ [e], false)
  else
    let low := q.foldl (fun n x => min n x.cls) 3
    match q.find? (fun x => x.cls == low) with
    | some x => (q.erase x ++ [e], false)
    | none => (q ++ [e], false)

/-- Read several blocks through the cache, counting hits in MX_OCHIT and misses in MX_OCMISS. -/
def cacheReads (s : State) (c : CoreId) (cls : Nat) (bs : List (Nat × Nat)) : State :=
  bs.foldl (fun s b =>
    let k := s.core c
    let (q, hit) := cacheRead cls k.me.cache b.1 b.2
    (s.setCore c (k.setMe { k.me with cache := q })).perfAdd c (if hit then 0x0C10 else 0x0C18) 1) s

/-- A latch after the last step of an MMA that names tile `n`: it holds that step's block where REUSE asks for it, and has served its one MMA
otherwise (R178). -/
def nextLatch (hold : Bool) (n block : Nat) (l : Option (Nat × Nat)) : Option (Nat × Nat) :=
  if hold then some (n, block) else l.filter (fun e => e.1 != n)

/-- What a step that enters the arrays reads: a block that a latch holds is served from it, and counts in MX_LATCH; the 8-row blocks of the other
operand rows come through the cache (R177, R178). -/
def stepReads (s : State) (c : CoreId) (o : MeOp) (d : MmaDims) (st : Nat × Nat × Nat) (final : Bool) : State :=
  let m := (s.core c).me
  let la := m.latchA == some (d.a, st.1)
  let lb := m.latchB == some (d.b, st.2.1)
  let lo := m.w * st.2.1 / 8
  let hi := (min (m.w * st.2.1 + m.w) d.n - 1) / 8
  let rows := (List.range (hi + 1 - lo)).map (lo + ·)
  let s := cacheReads s c (bits o.reuse 1 0)
    ((if la then [] else [(d.a, st.1)]) ++ (if lb then [] else rows.map (fun b => (d.b, b))) ++ (if d.pat then rows.map (fun b => (d.mt, b)) else []))
  let s := if la || lb then s.perfAdd c 0x0C20 1 else s
  if final then
    let k := s.core c
    s.setCore c (k.setMe { k.me with latchA := nextLatch (o.reuse.getLsbD 3) d.a st.1 k.me.latchA,
                                     latchB := nextLatch (o.reuse.getLsbD 2) d.b st.2.1 k.me.latchB })
  else s

/-- MMA_STEP: the oldest started MMA with steps left sends its next step into the arrays; once its last has entered, MMAs without steps behind it
complete (R175). -/
def execMmaStep (c : CoreId) (s : State) : Res :=
  if !isCore c then .fault .noSuchCore
  else if !s.clocked then .next s
  else
    let k := s.core c
    match k.me.queue.find? (fun o => o.started && decide (o.entered < (opSteps k.me o).length)) with
    | none => .next s
    | some o =>
      let steps := opSteps k.me o
      let s := (s.setCore c (k.setQueue (putOp k.me.queue { o with entered := o.entered + 1 }))).perfAdd c 0x0C00 1
      let s := match mmaOf o with
        | some d => stepReads s c o d (steps.getD o.entered (0, 0, 0)) (o.entered + 1 == steps.length)
        | none => s
      .next (releaseHeld (sweepEmpty 8 s c) c)

/-- Whether the step at index `j` is the last of its (m-block, n-block, group). -/
def lastOfGroup (m : Me) (d : MmaDims) (st : Nat × Nat × Nat) : Bool :=
  let k := st.2.2 + 1
  decide (ceilDiv d.k (kStep m d) ≤ k) || stepGroup m d k != stepGroup m d st.2.2

/-- The bytes of accumulator elements in rows `[r0, r1)` and columns `[c0, c1)`, as ranges of their tile (R351). -/
def accRanges (r0 r1 c0 c1 : Nat) : List (Nat × Nat) := (List.range (r1 - r0)).map (fun r => (160 * (r0 + r) + 5 * c0, 5 * (c1 - c0)))

/-- A step's results are written: MMAZ starts its region at zero at its first step, and a group's contribution is added when its last step
has run (R169, R170, R175). What is written carries its own parity (R342). An addition that clamps marks the operation; one that wraps under
SAT = 0 sets the tile's TILE_AOVF bit only (R54, R66, R137). -/
def writeStep (s : State) (c : CoreId) (o : MeOp) (d : MmaDims) (st : Nat × Nat × Nat) : State × MeOp :=
  let k := s.core c
  let m := if d.zero && o.checked == 0 then zeroAcc k.me d else k.me
  if lastOfGroup m d st then
    let th := k.thread o.thr
    let inUse := (m.tile d.acc).inUse
    let (t, rng, ov) := applyUnit m d o.mode.toNat o.sat (opRng th o) st.1 st.2.1 (stepGroup m d st.2.2)
    let m := setAovf (m.setTile d.acc t) d.acc ov
    let m := m.wroteIn d.acc (if inUse then accRanges (8 * st.1) (min (8 * st.1 + 8) d.m) (m.w * st.2.1) (min (m.w * st.2.1 + m.w) d.n)
      else wholeTile d.acc)
    (s.setCore c ((k.setMe m).setThread o.thr (putOpRng th o rng)), { o with clamped := o.clamped || (ov && o.sat) })
  else (s.setCore c (k.setMe m), o)

/-- MMA_STEP_CHECK: the oldest step in the arrays completes its check. A pass writes its results, and completes the operation at its last
step; a failure fences the accumulator (R175, R179, R180). -/
def execMmaStepCheck (c : CoreId) (pass : Bool) (s : State) : Res :=
  if !isCore c then .fault .noSuchCore
  else if !s.clocked then .next s
  else
    let k := s.core c
    match k.me.queue.find? (fun o => o.started && decide (o.checked < o.entered)) with
    | none => .next s
    | some o =>
      match mmaOf o with
      | none => .next s
      | some d =>
        if !pass then .next (releaseHeld (sweepEmpty 8 (fenceTile s c d.acc o) c) c)
        else
          let steps := liveSteps k.me d
          let (s, o) := writeStep s c o d (steps.getD o.checked (0, 0, 0))
          let o := { o with checked := o.checked + 1 }
          let k := s.core c
          let s := s.setCore c (k.setQueue (putOp k.me.queue o))
          if o.checked < steps.length then .next s
          else .next (releaseHeld (sweepEmpty 8 (finishOp s c o) c) c)

/-! ## The load-store path (R159 to R164, R176) -/

/-- BUS_ERROR of a matrix operation at the first word that cannot be read, in the order given. -/
def lsError (s : State) (c : CoreId) (o : MeOp) (bads : List (Nat × Bool)) : State :=
  match bads with
  | [] => s
  | (w, _) :: _ => raiseAsync s c o.thr 9 o.pc (BitVec.ofNat 64 (8 * w)) o.ord none (if bads.any (·.2) then 2 else 0)

/-- One row as TLD writes it to an operand tile: the shaped bytes, the upper nibble behind an odd F4 row kept (R159). -/
def mergeRow (t : Tile) (w r cols : Nat) (bs : List Byte) : List Byte :=
  if w = 4 ∧ cols % 2 = 1 then
    let j := bs.length - 1
    bs.take j ++ [(bs.getD j 0 &&& 0x0F) ||| (t.byteAt r j &&& 0xF0)]
  else bs

/-- Element `i` of a memory row of `w`-bit codes. -/
def memCode (w i : Nat) (bs : List Byte) : Nat := leNat bs / 2 ^ (w * i) % 2 ^ w

/-- One row as TLD writes it to an accumulator tile (R39, R161). -/
def loadAccRow (t : Tile) (w r cols : Nat) (bs : List Byte) : Tile :=
  (List.range cols).foldl (fun t c =>
    let x := memCode w c bs
    t.putAcc r c (if w = 64 then BitVec.ofNat 40 x else BitVec.ofInt 40 (toSigned w x * (2 ^ (32 - w) : Nat)))) t

/-- What a TLD or TLDC reads, in order: rows and then the exponent shadow; elements in row-major order (R159, R164, R317). -/
def lsReads : MeKind → List (Nat × Nat)
  | .tld n a rows cols w => (tileRows n w a rows cols).map (fun e => (e.1.toNat, e.2)) ++ (tileExps n w a.toNat rows cols).map (fun e => (e.2.2, 1))
  | .tldc n base p rows cols w =>
    ((rowMajor rows cols).filterMap (fun (r, i) => convAddr base p (fmtW (cfgFmt w)) (pitch n w) r i)).map (fun e => (e.1.toNat, elemBytes (fmtW (cfgFmt w))))
  | _ => []

/-- The next `n` reads of a TLD or TLDC (R311, R315, R317). -/
def lsRead (s : State) (c : CoreId) (o : MeOp) (n : Nat) : State × MeOp :=
  let rs := ((lsReads o.kind).drop o.moved).take n
  let n := s.err.reports.length
  let (bss, bads, s) := lmReads s c rs
  (stampUes s n (s.core c).place, { o with moved := o.moved + rs.length, got := o.got ++ bss, bads := o.bads ++ bads })

/-- The bytes of an operand tile that rows of `nb` bytes and the exponents listed take, as ranges of the tile (R351); all of a tile not in
use, which is written whole (R153). -/
def loadedRanges (m : Me) (n rows nb : Nat) (exps : List (Nat × Nat × Nat)) : List (Nat × Nat) :=
  if (m.tile n).inUse then (List.range rows).map (fun r => (32 * r, nb)) ++ exps.map (fun e => (1024 + 2 * e.1 + e.2.1, 1)) else wholeTile n

/-- TLD, once its reads are done: nothing is written when a word could not be read (R159). -/
def runTld (s : State) (c : CoreId) (o : MeOp) (n : Nat) (a : W64) (rows cols : Nat) (w : W64) : State :=
  let exps := tileExps n w a.toNat rows cols
  if !o.bads.isEmpty then lsError s c o o.bads
  else
    let k := s.core c
    let mw := memW n w
    let t := (k.me.tile n).fresh
    let t := (o.got.take rows).zipIdx.foldl (fun (t : Tile) (bs, r) =>
      if isAcc n then loadAccRow t mw r cols bs else t.putRow r (mergeRow t mw r cols bs)) t
    let t := (exps.zip (o.got.drop rows)).foldl (fun (t : Tile) (e, bs) => t.putExp e.1 e.2.1 (bs.headD 0)) t
    let rs := if isAcc n then (if (k.me.tile n).inUse then accRanges 0 rows 0 cols else wholeTile n)
      else loadedRanges k.me n rows (rowBytes n w cols) exps
    s.setCore c (k.setMe ((k.me.setTile n t).wroteIn n rs))

/-- TLDC, once its reads are done: im2col rows (R164). DEDUCED: a word that cannot be read is handled as TLD's (log 29). -/
def runTldc (s : State) (c : CoreId) (o : MeOp) (n : Nat) (base p : W64) (rows cols : Nat) (w : W64) : State :=
  let ew := fmtW (cfgFmt w)
  let srcs := (rowMajor rows cols).map (fun (r, i) => convAddr base p ew (pitch n w) r i)
  if !o.bads.isEmpty then lsError s c o o.bads
  else
    let k := s.core c
    let codes := srcs.foldl (fun (acc : List Nat × List (List Byte)) x =>
      match x with
      | none => (acc.1 ++ [0], acc.2)
      | some (_, nib) => (acc.1 ++ [if ew = 4 then leNat (acc.2.headD []) / 16 ^ nib % 16 else leNat (acc.2.headD [])], acc.2.drop 1)) ([], o.got)
    let t := (List.range rows).foldl (fun (t : Tile) r =>
      let row := (codes.1.drop (r * cols)).take cols
      let num := row.zipIdx.foldl (fun x (v, i) => x + v * 2 ^ (ew * i)) 0
      t.putRow r (mergeRow t ew r cols (leBytes ((cols * ew + 7) / 8) num))) (k.me.tile n).fresh
    s.setCore c (k.setMe ((k.me.setTile n t).wroteIn n (loadedRanges k.me n rows ((cols * ew + 7) / 8) [])))

/-- One accumulator element as TST narrows it (R161): the code in `w` bits, the generator, whether it clamped or wrapped. -/
def narrowAcc (mode w : Nat) (sat : Bool) (rng : W64) (x : BitVec 40) : Nat × W64 × Bool :=
  let (r, rng) := scaleRound mode rng (toSigned 40 x.toNat) (-((32 - w : Nat) : Int))
  let (r, ov) := satWrap sat w r
  (ofSigned w r, rng, ov)

/-- One row of an accumulator tile as TST writes it. -/
def storeAccRow (t : Tile) (mode w : Nat) (sat : Bool) (rng : W64) (r cols : Nat) : List Byte × W64 × Bool :=
  if w = 64 then ((List.range cols).flatMap (fun c => leBytes 8 (BitVec.ofInt 64 (toSigned 40 (t.accAt r c).toNat)).toNat), rng, false)
  else
    let (num, rng, ov) := (List.range cols).foldl (fun (acc : Nat × W64 × Bool) c =>
      let (x, rng, ov) := narrowAcc mode w sat acc.2.1 (t.accAt r c)
      (acc.1 + x * 2 ^ (w * c), rng, acc.2.2 || ov)) (0, rng, false)
    (leBytes ((cols * w + 7) / 8) num, rng, ov)

/-- One row of an operand tile as TST writes it: the nibble behind an odd F4 row is zero (R159). -/
def storeRow (t : Tile) (w r cols : Nat) : List Byte :=
  let nb := (cols * w + 7) / 8
  let bs := (List.range nb).map (fun j => t.byteAt r j)
  if w = 4 ∧ cols % 2 = 1 then bs.take (nb - 1) ++ [bs.getD (nb - 1) 0 &&& 0x0F] else bs

/-- Row `r` of a TST, or, behind its last row, the exponent shadow, where of two rows that share an exponent byte the later's stands (DESIGN
CHOICE, log 131). A partly covered word that cannot be read is not written (R159 to R161, R317). -/
def tstRow (n : Nat) (a : W64) (rows cols : Nat) (w : W64) (c : CoreId) (so : State × MeOp) (r : Nat) : State × MeOp :=
  let (s, o) := so
  let k := s.core c
  let t := k.me.tile n
  let th := k.thread o.thr
  let s := if !isAcc n && r % 8 == 0 && decide (r < rows) then cacheReads s c (bits o.reuse 1 0) [(n, r / 8)] else s
  if r < rows then
    let at_ := a.toNat + r * pitch n w
    if isAcc n then
      let (bs, rng, ov) := storeAccRow t o.mode.toNat (memW n w) o.sat (opRng th o) r cols
      let (bads, s) := lmPieces (s.setCore c ((k.setMe (setAovf k.me n ov)).setThread o.thr (putOpRng th o rng))) c (addPieces [] at_ bs)
      (s, { o with clamped := o.clamped || ov, bads := o.bads ++ bads })
    else
      let (bads, s) := lmPieces s c (addPieces [] at_ (storeRow t (memW n w) r cols))
      (s, { o with bads := o.bads ++ bads })
  else
    let (bads, s) := lmPieces s c ((tileExps n w a.toNat rows cols).foldl (fun (p : Pieces) e => addPieces p e.2.2 [t.expAt e.1 e.2.1]) [])
    (s, { o with bads := o.bads ++ bads })

/-- The next `m` rows of a TST, the exponent shadow being the one behind the last. -/
def tstRows (s : State) (c : CoreId) (o : MeOp) (n : Nat) (a : W64) (rows cols : Nat) (w : W64) (m : Nat) : State × MeOp :=
  let m := min m (rows + 1 - o.moved)
  let r := s.err.reports.length
  let (s, o') := ((List.range m).map (o.moved + ·)).foldl (tstRow n a rows cols w c) (s, o)
  (stampUes s r (s.core c).place, { o' with moved := o.moved + m })

/-- TST: the rows and exponents still to store, then its fault (R159 to R161, R317). -/
def runTst (s : State) (c : CoreId) (o : MeOp) (n : Nat) (a : W64) (rows cols : Nat) (w : W64) : State × MeOp :=
  let (s, o) := tstRows s c o n a rows cols w (rows + 1)
  (lsError s c o o.bads, o)

/-- One clock of the load-store path: the oldest started TLD, TLDC or TST moves its next row (R176, R317). -/
def lsTick (s : State) (c : CoreId) : State :=
  match (s.core c).me.queue.find? (fun o => o.started && !isMma o) with
  | none => s
  | some o =>
    if meetsFence (s.core c).me o then s
    else
      let (s, o) := match o.kind with
        | .tld _ _ _ _ _ => lsRead s c o 1
        | .tldc _ _ _ _ cols _ => lsRead s c o cols
        | .tst n a rows cols w => tstRows s c o n a rows cols w 1
        | _ => (s, o)
      s.setCore c ((s.core c).setQueue (putOp (s.core c).me.queue o))

/-- Tiles that SAVETILES saves: owned, in use, not fenced (R157). -/
def savedTiles (m : Me) (t : BitVec 2) : List Nat :=
  (List.range 24).filter (fun n => let x := m.tile n; cfgOwner x.live == t.toNat && x.inUse && !x.fence)

/-- A tile's slot in an image: offset, and bytes (R156). -/
def slotOff (n : Nat) : Nat := if n < 16 then 256 + 1088 * n else 17664 + 5120 * (n - 16)
/-- Bytes of a slot. -/
def slotLen (n : Nat) : Nat := if n < 16 then 1088 else 5120
/-- The contents of a tile as its slot holds them. -/
def slotBytes (m : Me) (n : Nat) : List Byte := (List.range (slotLen n)).map (fun j => m.rawByte (tileOff n + j))

/-- SAVETILES (R157). -/
def runSave (s : State) (c : CoreId) (o : MeOp) (a : W64) : State :=
  let m := (s.core c).me
  let ns := savedTiles m o.thr
  let mask := ns.foldl (fun x n => x + 2 ^ n) 0
  let words := (List.range 24).flatMap (fun n => leBytes 8 (if ns.contains n then (m.tile n).live.toNat else 0))
  let head := leBytes 8 mask ++ words ++ List.replicate 56 (0 : Byte)
  let s := (lmWrite s c a.toNat head).2
  ns.foldl (fun s n => (lmWrite s c (a.toNat + slotOff n) (slotBytes m n)).2) s

/-- Read local memory for RESTTILES, which raises no fault: a word that cannot be read delivers a free value. -/
def lmReadFree (s : State) (c : CoreId) (a len : Nat) : List Byte × State :=
  let (bs, bads, s) := lmRead s c a len
  bads.foldl (fun (acc : List Byte × State) b =>
    let (v, s) := acc.2.freeVal 64
    ((List.range len).map (fun j =>
      if (a + j) / 8 = b.1 then BitVec.ofNat 8 (v.toNat / 256 ^ ((a + j) % 8)) else acc.1.getD j 0), s)) (bs, s)

/-- Put a tile's contents as its slot holds them. -/
def putSlot (t : Tile) (n : Nat) (bs : List Byte) : Tile :=
  if n < 16 then { t with bytes := putBytes 0 [] 0 (bs.take 1024), exps := putBytes 0 [] 0 (bs.drop 1024), acc := [] }
  else { t with
    bytes := [], exps := [],
    acc := (List.range 1024).foldl (fun (m : Tab (BitVec 40)) e => tabSet 0 m e (BitVec.ofNat 40 (leNat ((bs.drop (5 * e)).take 5)))) [] }

/-- Restore one tile of the issuing thread from an image (R158). -/
def restTile (a : W64) (mask : Nat) (o : MeOp) (c : CoreId) (s : State) (n : Nat) : State :=
  let m := (s.core c).me
  let t := m.tile n
  if cfgOwner t.live != o.thr.toNat || t.fence then s
  else if mask / 2 ^ n % 2 = 0 then s.setCore c ((s.core c).setMe (m.setTile n { t with inUse := false }))
  else
    let (wb, s) := lmReadFree s c (a.toNat + 8 + 8 * n) 8
    let w : W64 := BitVec.ofNat 64 (leNat wb)
    let w := (w &&& ~~~((3 : W64) <<< 32)) ||| (BitVec.ofNat 64 (cfgOwner t.live) <<< 32)
    if !cfgOk n w then s.setCore c ((s.core c).setMe (m.setTile n { t with inUse := false }))
    else
      let (bs, s) := lmReadFree s c (a.toNat + slotOff n) (slotLen n)
      let later := m.queue.any (fun p => p.id ≠ o.id && (match p.kind with | .tcfg n' _ _ => n' == n | _ => false))
      let t := putSlot { t with live := w, cfg := if later then t.cfg else w, inUse := true } n bs
      s.setCore c ((s.core c).setMe ((m.setTile n t).wroteIn n (wholeTile n)))

/-- RESTTILES (R158). -/
def runRest (s : State) (c : CoreId) (o : MeOp) (a : W64) : State :=
  let (mb, s) := lmReadFree s c a.toNat 8
  (List.range 24).foldl (restTile a (leNat mb) o c) s

/-- The v register that TRDV delivers (R162). -/
def rowValue (t : Tile) (n row seg : Nat) : W512 :=
  if isAcc n then
    BitVec.ofNat 512 (leNat ((List.range 8).flatMap (fun i => leBytes 8 (BitVec.ofInt 64 (toSigned 40 (t.accAt row (8 * seg + i)).toNat)).toNat)))
  else BitVec.ofNat 512 (leNat ((List.range 32).map (fun j => t.byteAt row j) ++ [t.expAt row 0, t.expAt row 1]))

/-- TWRV: one row, or one segment of it, from a v register (R162). -/
def putRowValue (t : Tile) (n row seg : Nat) (v : W512) : Tile :=
  let t := t.fresh
  if isAcc n then
    (List.range 8).foldl (fun (t : Tile) i => t.putAcc row (8 * seg + i) (BitVec.ofNat 40 (v.toNat / 2 ^ (64 * i)))) t
  else
    let bs := leBytes 34 v.toNat
    ((t.putRow row (bs.take 32)).putExp row 0 (bs.getD 32 0)).putExp row 1 (bs.getD 33 0)

/-- What a TWRV writes, as ranges of its tile; all of a tile not in use (R153, R162). -/
def rowRanges (m : Me) (n row seg : Nat) : List (Nat × Nat) :=
  if !(m.tile n).inUse then wholeTile n
  else if isAcc n then [(160 * row + 40 * seg, 40)] else [(32 * row, 32), (1024 + 2 * row, 2)]

/-- The engine applies a configuration word in queue order; a reassignment clears the in-use flag and the fence (R144, R148). -/
def applyCfg (t : Tile) (w : W64) (re : Bool) : Tile :=
  { t with live := w, inUse := t.inUse && !re, fence := t.fence && !re }

/-- The effect of a load-store-path operation at its completion. -/
def runLs (s : State) (c : CoreId) (o : MeOp) : State × MeOp :=
  let k := s.core c
  let m := k.me
  match o.kind with
  | .tcfg n w re => (s.setCore c (k.setMe (m.setTile n (applyCfg (m.tile n) w re))), o)
  | .tfree mask =>
    (s.setCore c (k.setMe ((maskTiles mask).foldl (fun m n => m.setTile n { m.tile n with inUse := false, fence := false }) m)), o)
  | .tld n a rows cols w =>
    let (s, o) := lsRead s c o (lsReads o.kind).length
    (runTld s c o n a rows cols w, o)
  | .tldc n b p rows cols w =>
    let (s, o) := lsRead s c o (lsReads o.kind).length
    (runTldc s c o n b p rows cols w, o)
  | .tst n a rows cols w => runTst s c o n a rows cols w
  | .mma _ _ _ _ _ _ _ _ _ _ => (s, o)
  | .save a => (runSave s c o a, o)
  | .rest a => (runRest s c o a, o)
  | .trdv v n row seg => (s.setCore c (k.setThread o.thr ((k.thread o.thr).writeV v (rowValue (m.tile n) n row seg))), o)
  | .twrv n row seg v => (s.setCore c (k.setMe ((m.setTile n (putRowValue (m.tile n) n row seg v)).wroteIn n (rowRanges m n row seg))), o)

/-- LS_OP_COMPLETE: the oldest started operation of the load-store path completes (R176). -/
def execLsOpComplete (c : CoreId) (s : State) : Res :=
  if !isCore c then .fault .noSuchCore
  else if !s.clocked then .next s
  else
    match (s.core c).me.queue.find? (fun o => o.started && !isMma o) with
    | none => .next s
    | some o =>
      let (s, o) := if meetsFence (s.core c).me o then (s, o) else runLs s c o
      .next (releaseHeld (finishOp s c o) c)

/-! ## LATENT_CHECKER_TEST (R181, R441) -/

/-- LATENT_CHECKER_TEST: the engine runs one step with an injected error; a checker that does not detect it is reported as
LATENT_CHECKER_FAULT, class 9, with the time of the last passing test (R181, R426, R441). -/
def execLatentCheckerTest (c : CoreId) (detected : Bool) (now : W64) (s : State) : Res :=
  if !isCore c then .fault .noSuchCore
  else if !s.clocked then .next s
  else
    let s := s.atTime now
    if detected then .next { s with err := { s.err with latest := tabPut s.err.latest (0x10000 + c.toNat) s.time } }
    else .next (s.report { unit := unitCore c, cls := 9, code := 0, place := (s.core c).place,
                           detail := tabGet 0 s.err.latest (0x10000 + c.toNat) })

end Sys2Proof.Machine
end

