-- ==== Sys2Proof/Machine/Float.lean ====
section
/-! DEFINITION. FP32 and BF16 of the vector engine (R60 to R63, R196): decoding with subnormals flushed, exact arithmetic on decoded
values, and one rounding by RNE at the end. -/

namespace Sys2Proof.Machine

/-- A decoded FP32 or BF16 value; a finite nonzero one is `m × 2 ^ e` with its sign. -/
inductive Fp where
  | nan
  | inf (neg : Bool)
  | zero (neg : Bool)
  | fin (neg : Bool) (m : Nat) (e : Int)
deriving DecidableEq, Repr

/-- Decode binary32; subnormal inputs read as zero of the same sign (R60). -/
def fp32 (x : W32) : Fp :=
  let s := x.getLsbD 31
  let e := bits x 30 23
  let f := bits x 22 0
  if e = 255 then (if f = 0 then .inf s else .nan)
  else if e = 0 then .zero s
  else .fin s (f + 2 ^ 23) ((e : Int) - 150)

/-- Decode BF16, bits [31:16] of a binary32 (R60). -/
def bf16 (x : W16) : Fp := fp32 (x.zeroExtend 32 <<< 16)

/-- Number of significant bits of a natural number. -/
def bitLen (m : Nat) : Nat := if m = 0 then 0 else m.log2 + 1

/-- Round `m × 2 ^ e` to `p` significant bits by RNE, exponent range unbounded: the mantissa of exactly `p` bits and its exponent. -/
def normRne (p m : Nat) (e : Int) : Nat × Int :=
  let n := bitLen m
  if n ≤ p then (m * 2 ^ (p - n), e - (p - n : Nat))
  else
    let d := n - p
    let r := (roundShift 0 0 m d).toNat
    if r = 2 ^ p then (2 ^ (p - 1), e + d + 1) else (r, e + d)

/-- Encode a finite value with `p` significant bits in the binary32 exponent range, as bits above the format's dropped fraction: overflow
to infinity, underflow to zero after rounding (R60). -/
def packRne (p : Nat) (neg : Bool) (m : Nat) (e : Int) : W32 :=
  let sign : W32 := if neg then 0x80000000 else 0
  if m = 0 then sign
  else
    let (m, e) := normRne p m e
    let ex := e + p - 1        -- the value is 1.f × 2 ^ ex
    if ex > 127 then sign ||| 0x7F800000
    else if ex < -126 then sign
    else sign ||| BitVec.ofNat 32 ((ex + 127).toNat * 2 ^ 23 + (m - 2 ^ (p - 1)) * 2 ^ (24 - p))

/-- Encode as FP32 (R60, R61). -/
def toFp32 : Fp → W32
  | .nan => 0x7FC00000
  | .inf s => if s then 0xFF800000 else 0x7F800000
  | .zero s => if s then 0x80000000 else 0
  | .fin s m e => packRne 24 s m e

/-- Encode as BF16 (R60, R61). -/
def toBf16 : Fp → W16
  | .nan => 0x7FC0
  | .inf s => if s then 0xFF80 else 0x7F80
  | .zero s => if s then 0x8000 else 0
  | .fin s m e => (packRne 8 s m e >>> 16).truncate 16

/-- The sign of a value that is not a NaN. -/
def fpNeg : Fp → Bool
  | .nan => false
  | .inf s => s
  | .zero s => s
  | .fin s _ _ => s

/-- Signed mantissa of a finite value at exponent `e0`, which must not exceed its own. -/
def fpAt (e0 : Int) : Fp → Int
  | .fin s m e => (if s then -1 else 1) * (m : Int) * (2 ^ (e - e0).toNat : Nat)
  | _ => 0

/-- Exponent of a finite value, or `d` for a zero. -/
def fpExp (d : Int) : Fp → Int
  | .fin _ _ e => e
  | _ => d

/-- An exact signed integer times `2 ^ e` as a value; an exact zero is +0. -/
def fpOfInt (x e : Int) : Fp := if x = 0 then .zero false else .fin (decide (x < 0)) x.natAbs e

/-- Exact sum. -/
def fpAdd (a b : Fp) : Fp :=
  match a, b with
  | .nan, _ => .nan
  | _, .nan => .nan
  | .inf s, .inf t => if s = t then .inf s else .nan
  | .inf s, _ => .inf s
  | _, .inf t => .inf t
  | .zero s, .zero t => .zero (s && t)
  | .zero _, y => y
  | x, .zero _ => x
  | .fin s m e, .fin t n f =>
    let e0 := min e f
    fpOfInt (fpAt e0 (.fin s m e) + fpAt e0 (.fin t n f)) e0

/-- Change the sign. -/
def fpNegate : Fp → Fp
  | .nan => .nan
  | .inf s => .inf (!s)
  | .zero s => .zero (!s)
  | .fin s m e => .fin (!s) m e

/-- Exact product. -/
def fpMul (a b : Fp) : Fp :=
  match a, b with
  | .nan, _ => .nan
  | _, .nan => .nan
  | .inf _, .zero _ => .nan
  | .zero _, .inf _ => .nan
  | .inf s, y => .inf (s != fpNeg y)
  | x, .inf t => .inf (fpNeg x != t)
  | .zero s, y => .zero (s != fpNeg y)
  | x, .zero t => .zero (fpNeg x != t)
  | .fin s m e, .fin t n f => .fin (s != t) (m * n) (e + f)

/-- Quotient of two FP32 values, with a sticky bit below the 24 that rounding keeps (used by R200, R207). -/
def fpDiv (a b : Fp) : Fp :=
  match a, b with
  | .nan, _ => .nan
  | _, .nan => .nan
  | .inf _, .inf _ => .nan
  | .zero _, .zero _ => .nan
  | .inf s, y => .inf (s != fpNeg y)
  | x, .inf t => .zero (fpNeg x != t)
  | .zero s, y => .zero (s != fpNeg y)
  | x, .zero t => .inf (fpNeg x != t)
  | .fin s m e, .fin t n f =>
    let num := m * 2 ^ 64
    let q := num / n
    let r := if num % n = 0 then 0 else 1
    .fin (s != t) (2 * q + r) (e - 64 - f - 1)

/-- Whether `a < b` as numbers; false when either is a NaN; −0 and +0 are equal (R130). -/
def fpLt (a b : Fp) : Bool :=
  match a, b with
  | .nan, _ => false
  | _, .nan => false
  | .inf s, .inf t => s && !t
  | .inf s, _ => s
  | _, .inf t => !t
  | x, y =>
    let e0 := min (fpExp 0 x) (fpExp 0 y)
    decide (fpAt e0 x < fpAt e0 y)

/-- Whether `a = b` as numbers; false when either is a NaN. -/
def fpEq (a b : Fp) : Bool :=
  match a, b with
  | .nan, _ => false
  | _, .nan => false
  | x, y => !fpLt x y && !fpLt y x

/-- FP32 operations with one RNE rounding (R60). -/
def f32Add (a b : W32) : W32 := toFp32 (fpAdd (fp32 a) (fp32 b))
/-- FP32 difference. -/
def f32Sub (a b : W32) : W32 := toFp32 (fpAdd (fp32 a) (fpNegate (fp32 b)))
/-- FP32 product. -/
def f32Mul (a b : W32) : W32 := toFp32 (fpMul (fp32 a) (fp32 b))
/-- FP32 quotient. -/
def f32Div (a b : W32) : W32 := toFp32 (fpDiv (fp32 a) (fp32 b))

/-- Binary places that the special functions are worked out to, many more than any FP32 result keeps. -/
def sfuPlaces : Nat := 256

/-- `log2 e` at `sfuPlaces` binary places. -/
def log2eFixed : Nat := 0x171547652b82fe1777d0ffda0d23a7d11d6aef551bad2b4b1164a2cd9a342648f

/-- `2 ^ r` for `r` in [0, 1), both at `sfuPlaces` binary places: the product of the roots `2 ^ (2 ^ -i)` that the bits of `r` name. -/
def exp2Frac (r : Nat) : Nat :=
  ((List.range sfuPlaces).foldl (fun (c, y) i =>
    let c := Nat.sqrt (c * 2 ^ sfuPlaces)
    (c, if r.testBit (sfuPlaces - 1 - i) then y * c / 2 ^ sfuPlaces else y)) (2 * 2 ^ sfuPlaces, 2 ^ sfuPlaces)).2

/-- `2 ^ x` for `x` at `sfuPlaces` binary places. -/
def exp2Fixed (x : Int) : Fp :=
  .fin false (exp2Frac (x % 2 ^ sfuPlaces).toNat) (x / 2 ^ sfuPlaces - sfuPlaces)

/-- `log2` of a positive finite value: the exponent, then one binary place for each squaring of the mantissa. -/
def log2Fp (m : Nat) (e : Int) : Fp :=
  let l := bitLen m - 1
  let b := (List.range 160).foldl (fun (f, b) _ =>
    let f := f * f / 2 ^ sfuPlaces
    if f < 2 * 2 ^ sfuPlaces then (f, 2 * b) else (f / 2, 2 * b + 1)) (m * 2 ^ (sfuPlaces - l), 0)
  fpOfInt ((e + l) * 2 ^ 160 + (b.2 : Nat)) (-160)

/-- A quotient of finite values to at least 64 significant bits. -/
def fpRatio (a b : Fp) : Fp :=
  match a, b with
  | .fin s m e, .fin t n f => .fin (s != t) (m * 2 ^ (64 + bitLen n) / n) (e - f - (64 + bitLen n : Nat))
  | _, _ => .zero false

/-- The exact value of a special function at a finite operand (R196), to a relative error below 2^−60. -/
def sfuExact (f : Nat) (v : Fp) : Fp :=
  let one : Fp := .fin false 1 0
  let x := max (-256 * 2 ^ sfuPlaces) (min (256 * 2 ^ sfuPlaces) (fpAt (-sfuPlaces) v))   -- beyond ±256 every bounded result has settled
  let expE (y : Int) : Fp := exp2Fixed (y * log2eFixed / 2 ^ sfuPlaces)
  match f, v with
  | 0, _ => exp2Fixed x
  | 1, .fin _ m e => log2Fp m e
  | 2, _ => fpRatio one v
  | 3, .fin _ m e => .fin false (Nat.sqrt (2 ^ 300 / (m * 2 ^ (e % 2).toNat))) (-150 - e / 2)
  | 4, _ => fpRatio (fpAdd (expE (2 * x)) (fpNegate one)) (fpAdd (expE (2 * x)) one)
  | _, _ => fpRatio one (fpAdd one (expE (-x)))

/-- Whether a result lies within `k` units in the last place of the exact value `y` (R196). A result of subnormal magnitude is zero (R60). -/
def withinUlps (k : Nat) (y r : Fp) : Bool :=
  match y, r with
  | .zero _, .zero _ => true
  | .fin _ m e, r =>
    let ulp : Fp := .fin false k (e + bitLen m - 24)
    match r with
    | .zero _ => fpLt (fpAdd (.fin false m e) (fpNegate ulp)) (.fin false 1 (-126))
    | .fin _ _ _ =>
      match fpAdd r (fpNegate y) with
      | .fin _ n d => !fpLt ulp (.fin false n d)
      | _ => true
    | _ => false
  | _, _ => false

/-- The error bound of R196 in units in the last place. -/
def sfuUlps (f : Nat) : Nat := if f < 4 then 1 else 2

/-- A special function where the table of R196 names no special result: any FP32 value inside the error bound, always the same one for the
same operand. Which one is open; an open value outside the bound stands for the correctly rounded result. DESIGN CHOICE: log 9. -/
def sfuOpen (f : Nat) (v : Fp) : W32 :=
  let y := sfuExact f v
  let r := fp32 (Config.sfu f (toFp32 v))
  toFp32 (if withinUlps (sfuUlps f) y r then r else y)

/-- The special-function unit on a decoded FP32 operand (R196): the special inputs and NaN as the table states; elsewhere a value inside the
error bound, with results of subnormal magnitude flushed as R60 states. `f`: 0 VEXP2, 1 VLOG2, 2 VRCP, 3 VRSQRT, 4 VTANH, 5 VSIGM. -/
def sfuFp32 (f : Nat) (x : W32) : W32 :=
  let v := fp32 x
  let general := sfuOpen f v
  match v with
  | .nan => 0x7FC00000
  | .inf s =>
    match f with
    | 0 => if s then 0 else 0x7F800000
    | 1 => if s then 0x7FC00000 else 0x7F800000
    | 2 => if s then 0x80000000 else 0
    | 3 => if s then 0x7FC00000 else 0
    | 4 => if s then 0xBF800000 else 0x3F800000
    | _ => if s then 0 else 0x3F800000
  | .zero s =>
    match f with
    | 1 => 0xFF800000
    | 2 => if s then 0xFF800000 else 0x7F800000
    | 3 => if s then 0xFF800000 else 0x7F800000
    | _ => general
  | .fin s _ _ =>
    match f with
    | 0 =>
      -- a result above the FP32 range is +∞, below 2^−126 it is +0
      if !fpLt v (fp32 0x43000000) then 0x7F800000
      else if fpLt v (fp32 0xC2FC0000) then 0
      else general
    | 1 => if s then 0x7FC00000 else general
    | 3 => if s then 0x7FC00000 else general
    | _ => general

/-- FP32 1.442695, the constant of the softmax pseudocode (R200). -/
def log2e : W32 := 0x3FB8AA3B

end Sys2Proof.Machine
end

