-- ==== Sys2Proof/Machine/Vector.lean ====
section
/-! DEFINITION. The vector class (R130, R189 to R201, R206, R207): lane operations, conversions, special functions, reductions, top-k, sampling
and expert gating. -/

namespace Sys2Proof.Machine

/-! ## Lanes (R189) -/

/-- The lanes of `b` bits of a vector register, lane 0 first. -/
def lanesOf (b : Nat) (v : W512) : List Nat := (List.range (512 / b)).map (fun i => v.toNat / 2 ^ (b * i) % 2 ^ b)

/-- The number whose `b`-bit digits are the lanes, lane 0 least significant. -/
def packLanes (b : Nat) : List Nat → Nat
  | [] => 0
  | x :: r => x % 2 ^ b + 2 ^ b * packLanes b r

/-- A vector register from its lanes; missing lanes are zero. -/
def ofLanes (b : Nat) (xs : List Nat) : W512 := BitVec.ofNat 512 (packLanes b xs)

/-- Lane width of a type. -/
def laneW (ty : Nat) : Nat := ((laneInfo ty).map (·.1)).getD 32
/-- Lane count of a type. -/
def laneN (ty : Nat) : Nat := ((laneInfo ty).map (·.2)).getD 16

/-- Decode a lane of type FP32 (0) or BF16 (1). -/
def laneFp (ty x : Nat) : Fp := if ty = 0 then fp32 (BitVec.ofNat 32 x) else bf16 (BitVec.ofNat 16 x)
/-- Encode a lane of type FP32 (0) or BF16 (1): one RNE rounding (R60, R61). -/
def fpLane (ty : Nat) (v : Fp) : Nat := if ty = 0 then (toFp32 v).toNat else (toBf16 v).toNat

/-- What a lane computation gives: the lane's code, whether a fraction result was clamped or wrapped, and the generator after it. -/
abbrev LaneRes := Nat × Bool × W64

/-- Fold a lane computation over lanes from lane 0 upward, so that draws go in lane order (R50). -/
def foldLanes (f : W64 → List Nat → LaneRes) : List (List Nat) → W64 → List Nat × Bool × W64
  | [], rng => ([], false, rng)
  | a :: r, rng =>
    let (x, o, rng) := f rng a
    let (xs, os, rng) := foldLanes f r rng
    (x :: xs, o || os, rng)

/-- Line up the lanes of several registers: lane i of each. -/
def zipLanes (b : Nat) (vs : List W512) : List (List Nat) :=
  (List.range (512 / b)).map (fun i => vs.map (fun v => v.toNat / 2 ^ (b * i) % 2 ^ b))

/-- A fraction lane result: the exact integer, the bits to drop, rounded, then saturated or wrapped (R46, R50, R52, R54). -/
def fracLane (mode : Nat) (sat : Bool) (w : Nat) (rng : W64) (exact : Int) (drop : Nat) : LaneRes :=
  let (r, rng) := scaleRound mode rng exact (-(drop : Int))
  let (r, o) := satWrap sat w r
  (ofSigned w r, o, rng)

/-- The arithmetic lane operations: 0 VADD, 1 VSUB, 2 VMUL, 3 VFMA (R130). -/
def arithLane (op mode : Nat) (sat : Bool) (ty : Nat) (rng : W64) (xs : List Nat) : LaneRes :=
  let w := laneW ty
  let a := xs.getD 0 0
  let b := xs.getD 1 0
  let c := xs.getD 2 0
  if isFloat ty then
    let x := laneFp ty a
    let y := laneFp ty b
    let r := match op with
      | 0 => fpAdd x y
      | 1 => fpAdd x (fpNegate y)
      | 2 => fpMul x y
      | _ => fpAdd (fpMul x y) (laneFp ty c)
    (fpLane ty r, false, rng)
  else
    let x := toSigned w a
    let y := toSigned w b
    let z := toSigned w c
    if isFrac ty then
      match op with
      | 0 => fracLane mode sat w rng (x + y) 0
      | 1 => fracLane mode sat w rng (x - y) 0
      | 2 => fracLane mode sat w rng (x * y) (w - 1)
      | _ => fracLane mode sat w rng (x * y + z * (2 ^ (w - 1) : Nat)) (w - 1)
    else
      let r := match op with
        | 0 => x + y
        | 1 => x - y
        | 2 => x * y
        | _ => x * y + z
      (ofSigned w r, false, rng)

/-- VMAX and VMIN of two FP lanes: a number wins over a NaN; on equality the first operand (R130). -/
def fpPick (isMax : Bool) (x y : Fp) : Fp :=
  match x, y with
  | .nan, y => y
  | x, .nan => x
  | x, y => if (if isMax then fpLt x y else fpLt y x) then y else x

/-- VMAX and VMIN of two lanes. -/
def pickLane (isMax : Bool) (ty a b : Nat) : Nat :=
  let w := laneW ty
  if isFloat ty then fpLane ty (fpPick isMax (laneFp ty a) (laneFp ty b))
  else if isMax then (if toSigned w a < toSigned w b then b else a) else (if toSigned w b < toSigned w a then b else a)

/-- Less-than and equality of two lanes as numbers (R130). -/
def ltLane (ty a b : Nat) : Bool :=
  if isFloat ty then fpLt (laneFp ty a) (laneFp ty b) else decide (toSigned (laneW ty) a < toSigned (laneW ty) b)
/-- Equality of two lanes as numbers: a NaN equals nothing, −0 equals +0. -/
def eqLane (ty a b : Nat) : Bool := if isFloat ty then fpEq (laneFp ty a) (laneFp ty b) else a == b

/-- Shift a lane left; an amount of the lane width or more gives zero (R130). -/
def shlLane (w a n : Nat) : Nat := if w ≤ n then 0 else a * 2 ^ n % 2 ^ w
/-- Shift a lane right arithmetically; an amount of the lane width or more gives copies of the sign (R130). -/
def shrLane (w a n : Nat) : Nat := ofSigned w (toSigned w a / (2 ^ (min n w) : Nat))

/-- The type code of a vector instruction's type byte. -/
def vty (ty : Byte) : Nat := bits ty 3 0

/-! ## Issuing a vector instruction -/

/-- A vector instruction whose one result goes to v register O1, with its VOVF and the generator after its draws. -/
def vecIssue (s : State) (i : Site) (op lat : Nat) (ops : List Byte) (o1 : Byte) (f : Iss → W512 × Bool × W64) : Res :=
  issue s i op ops 0 (fun x =>
    let (v, o, rng) := f x
    .done (x.s.setThread x.c x.t { x.th with rngS := rng })
      [{ lat := lat, dst := .v (indexOf o1), val := v, vovf := o }] none)

/-- A lane-wise instruction over the source registers listed. -/
def laneOp (s : State) (i : Site) (op lat : Nat) (ty : Byte) (ops srcs : List Byte) (f : Iss → W64 → List Nat → LaneRes) : Res :=
  vecIssue s i op lat (ty :: ops) (ops.headD 0) (fun x =>
    let b := laneW (vty ty)
    let (xs, o, rng) := foldLanes (f x) (zipLanes b (srcs.map (fun r => x.th.readV (indexOf r)))) x.th.rngS
    (ofLanes b xs, o, rng))

/-- A lane-wise instruction that neither rounds nor sets a flag. -/
def plainOp (s : State) (i : Site) (op lat : Nat) (ty : Byte) (ops srcs : List Byte) (f : List Nat → Nat) : Res :=
  laneOp s i op lat ty ops srcs (fun _ rng xs => (f xs, false, rng))

/-- VADD (R130). -/
def execVadd (i : Site) (ty o1 o2 o3 : Byte) (s : State) : Res :=
  laneOp s i 0x40 latValu ty [o1, o2, o3] [o2, o3] (fun x => arithLane 0 x.mode x.sat (vty ty))
/-- VSUB (R130). -/
def execVsub (i : Site) (ty o1 o2 o3 : Byte) (s : State) : Res :=
  laneOp s i 0x41 latValu ty [o1, o2, o3] [o2, o3] (fun x => arithLane 1 x.mode x.sat (vty ty))
/-- VMUL (R53, R130). -/
def execVmul (i : Site) (ty o1 o2 o3 : Byte) (s : State) : Res :=
  laneOp s i 0x42 latVfma ty [o1, o2, o3] [o2, o3] (fun x => arithLane 2 x.mode x.sat (vty ty))
/-- VFMA: O2 × O3 + O1, rounded once (R130). -/
def execVfma (i : Site) (ty o1 o2 o3 : Byte) (s : State) : Res :=
  laneOp s i 0x43 latVfma ty [o1, o2, o3] [o2, o3, o1] (fun x => arithLane 3 x.mode x.sat (vty ty))
/-- VMAX (R130). -/
def execVmax (i : Site) (ty o1 o2 o3 : Byte) (s : State) : Res :=
  plainOp s i 0x44 latValu ty [o1, o2, o3] [o2, o3] (fun xs => pickLane true (vty ty) (xs.getD 0 0) (xs.getD 1 0))
/-- VMIN (R130). -/
def execVmin (i : Site) (ty o1 o2 o3 : Byte) (s : State) : Res :=
  plainOp s i 0x45 latValu ty [o1, o2, o3] [o2, o3] (fun xs => pickLane false (vty ty) (xs.getD 0 0) (xs.getD 1 0))
/-- VAND (R130). -/
def execVand (i : Site) (ty o1 o2 o3 : Byte) (s : State) : Res :=
  plainOp s i 0x46 latValu ty [o1, o2, o3] [o2, o3] (fun xs => xs.getD 0 0 &&& xs.getD 1 0)
/-- VOR (R130). -/
def execVor (i : Site) (ty o1 o2 o3 : Byte) (s : State) : Res :=
  plainOp s i 0x47 latValu ty [o1, o2, o3] [o2, o3] (fun xs => xs.getD 0 0 ||| xs.getD 1 0)
/-- VXOR (R130). -/
def execVxor (i : Site) (ty o1 o2 o3 : Byte) (s : State) : Res :=
  plainOp s i 0x48 latValu ty [o1, o2, o3] [o2, o3] (fun xs => xs.getD 0 0 ^^^ xs.getD 1 0)
/-- VSHL (R130). -/
def execVshl (i : Site) (ty o1 o2 o3 : Byte) (s : State) : Res :=
  plainOp s i 0x49 latValu ty [o1, o2, o3] [o2, o3] (fun xs => shlLane (laneW (vty ty)) (xs.getD 0 0) (xs.getD 1 0))
/-- VSHR, arithmetic on every type it accepts (R130). -/
def execVshr (i : Site) (ty o1 o2 o3 : Byte) (s : State) : Res :=
  plainOp s i 0x4A latValu ty [o1, o2, o3] [o2, o3] (fun xs => shrLane (laneW (vty ty)) (xs.getD 0 0) (xs.getD 1 0))
/-- All ones or zero in a lane. -/
def maskLane (w : Nat) (b : Bool) : Nat := if b then 2 ^ w - 1 else 0
/-- VCMPLT (R130). -/
def execVcmplt (i : Site) (ty o1 o2 o3 : Byte) (s : State) : Res :=
  plainOp s i 0x4B latValu ty [o1, o2, o3] [o2, o3] (fun xs => maskLane (laneW (vty ty)) (ltLane (vty ty) (xs.getD 0 0) (xs.getD 1 0)))
/-- VCMPEQ (R130). -/
def execVcmpeq (i : Site) (ty o1 o2 o3 : Byte) (s : State) : Res :=
  plainOp s i 0x4C latValu ty [o1, o2, o3] [o2, o3] (fun xs => maskLane (laneW (vty ty)) (eqLane (vty ty) (xs.getD 0 0) (xs.getD 1 0)))
/-- VSEL: a lane of O1 with any bit set selects O2 (R130). DEDUCED: the mask lane is read as bits (log 23). -/
def execVsel (i : Site) (ty o1 o2 o3 : Byte) (s : State) : Res :=
  plainOp s i 0x4D latValu ty [o1, o2, o3] [o1, o2, o3] (fun xs => if xs.getD 0 0 ≠ 0 then xs.getD 1 0 else xs.getD 2 0)

/-- A special function on a lane: BF16 inputs are widened exactly and the FP32 result rounds once (R196). -/
def sfuLane (f ty x : Nat) : Nat :=
  if ty = 0 then (sfuFp32 f (BitVec.ofNat 32 x)).toNat else (toBf16 (fp32 (sfuFp32 f (BitVec.ofNat 32 (x * 2 ^ 16))))).toNat

/-- VEXP2 (R196). -/
def execVexp2 (i : Site) (ty o1 o2 : Byte) (s : State) : Res :=
  plainOp s i 0x50 latSfu ty [o1, o2] [o2] (fun xs => sfuLane 0 (vty ty) (xs.getD 0 0))
/-- VLOG2 (R196). -/
def execVlog2 (i : Site) (ty o1 o2 : Byte) (s : State) : Res :=
  plainOp s i 0x51 latSfu ty [o1, o2] [o2] (fun xs => sfuLane 1 (vty ty) (xs.getD 0 0))
/-- VRCP (R196). -/
def execVrcp (i : Site) (ty o1 o2 : Byte) (s : State) : Res :=
  plainOp s i 0x52 latSfu ty [o1, o2] [o2] (fun xs => sfuLane 2 (vty ty) (xs.getD 0 0))
/-- VRSQRT (R196). -/
def execVrsqrt (i : Site) (ty o1 o2 : Byte) (s : State) : Res :=
  plainOp s i 0x53 latSfu ty [o1, o2] [o2] (fun xs => sfuLane 3 (vty ty) (xs.getD 0 0))
/-- VTANH (R196). -/
def execVtanh (i : Site) (ty o1 o2 : Byte) (s : State) : Res :=
  plainOp s i 0x54 latSfu ty [o1, o2] [o2] (fun xs => sfuLane 4 (vty ty) (xs.getD 0 0))
/-- VSIGM (R196). -/
def execVsigm (i : Site) (ty o1 o2 : Byte) (s : State) : Res :=
  plainOp s i 0x55 latSfu ty [o1, o2] [o2] (fun xs => sfuLane 5 (vty ty) (xs.getD 0 0))

/-! ## Conversions (R62, R63, R190 to R192) -/

/-- The elements of one side of a conversion, over consecutive registers. -/
def spanLanes (th : Thread) (b first count : Nat) : List Nat :=
  (List.range count).flatMap (fun j => lanesOf b (th.readV (first + j)))

/-- An FP element to a fraction code of `w` bits with scale `e`: rounded by the mode, clamped whatever SAT is; VOVF when clamped or a
NaN; always one draw under RSR (R50, R62). -/
def fpToFrac (mode w : Nat) (e : Int) (rng : W64) (v : Fp) : Int × Bool × W64 :=
  let (rng, u) := if mode = 4 then rngDraw rng else (rng, 0)
  match v with
  | .nan => (0, true, rng)
  | .inf s => (if s then codeMin w else codeMax w, true, rng)
  | .zero _ => (0, false, rng)
  | .fin s m ex =>
    let sh := ex - e + (w - 1 : Nat)
    let x : Int := if s then -(m : Int) else m
    let r := if 0 ≤ sh then x * (2 ^ sh.toNat : Nat) else roundShift mode u x (-sh).toNat
    let (r, o) := satWrap true w r
    (r, o, rng)

/-- The magnitude that an element adds to the choice of E8: `floor (log2 x) + 1`, none for a zero or a NaN, 1,000 for an infinity (R63). -/
def groupExp : Fp → Option Int
  | .nan => none
  | .zero _ => none
  | .inf _ => some 1000
  | .fin _ m e => some (bitLen m + e)

/-- The larger of two choices of E8. -/
def maxExp (a b : Option Int) : Option Int :=
  match a, b with
  | none, y => y
  | x, none => x
  | some x, some y => some (max x y)

/-- Convert a group to fraction codes of `w` bits and its E8 (R63). -/
def groupConv (mode w : Nat) (rng : W64) (vs : List Fp) : List Nat × Nat × Bool × W64 :=
  let m := vs.foldl (fun acc v => maxExp acc (groupExp v)) none
  let e8 : Int := match m with | none => 0 | some k => min k 127
  let big := match m with | none => false | some k => decide (127 < k)
  let (cs, o, rng) := vs.foldl (fun (acc : List Nat × Bool × W64) v =>
    let (c, _, rng) := fpToFrac mode w e8 acc.2.2 v
    (acc.1 ++ [ofSigned w c], acc.2.1 || decide (v = .nan), rng)) ([], false, rng)
  (cs, match m with | none => 0x80 | some _ => ofSigned 8 e8, o || big, rng)

/-- Convert each group of 32 elements in turn. -/
def groupsConv (mode w : Nat) : Nat → W64 → List Fp → List Nat × List Nat × Bool × W64
  | 0, rng, _ => ([], [], false, rng)
  | n + 1, rng, vs =>
    let (cs, e, o, rng) := groupConv mode w rng (vs.take 32)
    let (cs', es, o', rng) := groupsConv mode w n rng (vs.drop 32)
    (cs ++ cs', e :: es, o || o', rng)

/-- A fraction code scaled by a power of two as an FP value (R62). -/
def fracFp (x e : Int) : Fp := fpOfInt x e

/-- Cut a list of elements into registers of `b`-bit lanes. -/
def cutRegs (b : Nat) : Nat → List Nat → List W512
  | 0, _ => []
  | n + 1, xs => ofLanes b (xs.take (512 / b)) :: cutRegs b n (xs.drop (512 / b))

/-- VCVT: its destination registers, VOVF and the generator (R62, R191, R192). Source type 11 is A40, 8 lanes of 64 bits. -/
def cvtResult (mode : Nat) (sat : Bool) (rng : W64) (th : Thread) (sty dty : Nat) (e : Int) (o2 : Nat) : List W512 × Bool × W64 :=
  let n := cvtCount sty dty
  let ss := cvtSpan n (cvtSrcLanes sty) sty (sty != 11)
  let ds := cvtSpan n (cvtDstLanes dty) dty true
  let dw := laneW dty
  if isGroup sty then
    -- group-scaled to FP32
    let w := laneW sty
    let codes := lanesOf w (th.readV o2)
    let exps := lanesOf 8 (th.readV (o2 + 1))
    let fps := codes.zipIdx.map (fun (c, j) =>
      let x := exps.getD (j / 32) 0
      if x = 0x80 then 0 else (toFp32 (fracFp (toSigned w c) (toSigned 8 x - (w - 1 : Nat)))).toNat)
    (cutRegs 32 ds fps, false, rng)
  else
    let elems := if sty == 11 then (spanLanes th 64 o2 ss).map (fun x => x % 2 ^ 40) else spanLanes th (laneW sty) o2 ss
    if isFloat sty then
      let vs := elems.map (laneFp sty)
      if dty == 1 then (cutRegs 16 ds (vs.map (fun v => (toBf16 v).toNat)), false, rng)
      else if isGroup dty then
        let (cs, es, o, rng) := groupsConv mode dw (n / 32) rng vs
        ([ofLanes dw cs, ofLanes 8 es], o, rng)
      else
        let (cs, o, rng) := vs.foldl (fun (acc : List Nat × Bool × W64) v =>
          let (c, o, rng) := fpToFrac mode dw e acc.2.2 v
          (acc.1 ++ [ofSigned dw c], acc.2.1 || o, rng)) ([], false, rng)
        (cutRegs dw ds cs, o, rng)
    else
      -- a fraction or A40: the code counts 2 ^ -frac units
      let sw := if sty == 11 then 40 else laneW sty
      let frac := if sty == 11 then 31 else sw - 1
      let xs := elems.map (toSigned sw)
      if dty == 0 then (cutRegs 32 ds (xs.map (fun x => (toFp32 (fracFp x (e - frac))).toNat)), false, rng)
      else if dty == 1 then (cutRegs 16 ds (xs.map (fun x => (toBf16 (fracFp x (e - frac))).toNat)), false, rng)
      else
        let (cs, o, rng) := xs.foldl (fun (acc : List Nat × Bool × W64) x =>
          let (r, rng) := scaleRound mode acc.2.2 x ((dw - 1 : Nat) - (frac : Int) + e)
          let (r, o) := satWrap sat dw r
          (acc.1 ++ [ofSigned dw r], acc.2.1 || o, rng)) ([], false, rng)
        (cutRegs dw ds cs, o, rng)

/-- VCVT: reads every source register at issue; all destination registers complete at one tick (R191). -/
def execVcvt (i : Site) (ty o1 o2 imm8 : Byte) (s : State) : Res :=
  issue s i 0x58 [ty, o1, o2, imm8] 0 (fun x =>
    let (rs, o, rng) := cvtResult x.mode x.sat x.th.rngS x.th (bits ty 7 4) (bits ty 3 0) imm8.toInt (indexOf o2)
    .done (x.s.setThread x.c x.t { x.th with rngS := rng })
      (rs.zipIdx.map (fun (v, j) => { lat := latVfma, dst := .v (indexOf o1 + j), val := v, vovf := o })) none)

/-! ## Moves between lanes -/

/-- VBCAST: the low bits of O2 in every lane (R130). -/
def execVbcast (i : Site) (ty o1 o2 : Byte) (s : State) : Res :=
  issue s i 0x59 [ty, o1, o2] 0 (fun x =>
    withOps x [] [o2] (fun k vs _ =>
      let b := laneW (vty ty)
      .done (x.s.setCore x.c k)
        [{ lat := latValu, dst := .v (indexOf o1), val := ofLanes b (List.replicate (512 / b) ((vs.getD 0 0).toNat % 2 ^ b)) }] none))

/-- VEXTR: one lane, sign-extended (R130). -/
def execVextr (i : Site) (ty o1 o2 imm8 : Byte) (s : State) : Res :=
  issue s i 0x5A [ty, o1, o2, imm8] 0 (fun x =>
    withOps x [o1] [] (fun k _ ds =>
      let b := laneW (vty ty)
      let l := (lanesOf b (x.th.readV (indexOf o2))).getD imm8.toNat 0
      .done (x.s.setCore x.c k) (ds.map (fun d => { lat := latValu, dst := d, val := (BitVec.ofInt 64 (toSigned b l)).zeroExtend 512 })) none))

/-- VPERM: lane i of O1 is the O2 lane that lane i of O3 names, modulo the lane count (R130). -/
def execVperm (i : Site) (ty o1 o2 o3 : Byte) (s : State) : Res :=
  vecIssue s i 0x5B latValu [ty, o1, o2, o3] o1 (fun x =>
    let b := laneW (vty ty)
    let src := lanesOf b (x.th.readV (indexOf o2))
    let idx := lanesOf b (x.th.readV (indexOf o3))
    (ofLanes b (idx.map (fun j => src.getD (j % (512 / b)) 0)), false, x.th.rngS))

/-! ## Reductions (R197) -/

/-- One level of a balanced binary tree: pairs (2i, 2i + 1), with a flag. -/
def treeLevel {α : Type} (f : α → α → α × Bool) : List α → List α × Bool
  | a :: b :: r =>
    let (x, o) := f a b
    let (xs, o') := treeLevel f r
    (x :: xs, o || o')
  | l => (l, false)

/-- The whole tree, `n` levels. -/
def treeFold {α : Type} (f : α → α → α × Bool) : Nat → List α → List α × Bool
  | 0, l => (l, false)
  | n + 1, l =>
    let (l, o) := treeLevel f l
    let (l, o') := treeFold f n l
    (l, o || o')

/-- The sum of the lanes: FP32 nodes round, BF16 runs in FP32 and rounds once, each fraction node clamps or wraps, integers wrap (R197). -/
def redSum (sat : Bool) (ty : Nat) (xs : List Nat) : Nat × Bool :=
  let w := laneW ty
  if isFloat ty then
    let (l, _) := treeFold (fun (a b : W32) => (f32Add a b, false)) 6
      (xs.map (fun x => BitVec.ofNat 32 (if ty = 0 then x else x * 2 ^ 16)))
    let r := l.headD 0
    (if ty = 0 then r.toNat else (toBf16 (fp32 r)).toNat, false)
  else
    let (l, o) := treeFold (fun (a b : Int) =>
      if isFrac ty then satWrap sat w (a + b) else (toSigned w (ofSigned w (a + b)), false)) 6 (xs.map (toSigned w))
    (ofSigned w (l.headD 0), o)

/-- The maximum of the lanes; a NaN ranks below −∞ (R197). -/
def redMax (ty : Nat) (xs : List Nat) : Nat :=
  let (l, _) := treeFold (fun a b => (pickLane true ty a b, false)) 6 xs
  l.headD 0

/-- VREDSUM (R197). -/
def execVredsum (i : Site) (ty o1 o2 : Byte) (s : State) : Res :=
  vecIssue s i 0x5C latVfma [ty, o1, o2] o1 (fun x =>
    let (r, o) := redSum x.sat (vty ty) (lanesOf (laneW (vty ty)) (x.th.readV (indexOf o2)))
    (BitVec.ofNat 512 r, o, x.th.rngS))

/-- VREDMAX (R197). -/
def execVredmax (i : Site) (ty o1 o2 : Byte) (s : State) : Res :=
  vecIssue s i 0x5D latVfma [ty, o1, o2] o1 (fun x =>
    (BitVec.ofNat 512 (redMax (vty ty) (lanesOf (laneW (vty ty)) (x.th.readV (indexOf o2)))), false, x.th.rngS))

/-- `n` draws in order. -/
def drawMany : Nat → W64 → List Nat × W64
  | 0, rng => ([], rng)
  | n + 1, rng =>
    let (rng, u) := rngDraw rng
    let (us, rng) := drawMany n rng
    (u :: us, rng)

/-- VRAND: 32 draws of RNG-S (R130). -/
def execVrand (i : Site) (o1 : Byte) (s : State) : Res :=
  vecIssue s i 0x5E latValu [o1] o1 (fun x =>
    let (us, rng) := drawMany 32 x.th.rngS
    (ofLanes 16 us, false, rng))

/-! ## Selection (R199, R200, R206, R207) -/

/-- Whether candidate `a` ranks strictly above `b`: larger value, NaN below −∞ (R199). -/
def ranksAbove (a b : Fp) : Bool :=
  match a, b with
  | .nan, _ => false
  | _, .nan => true
  | x, y => fpLt y x

/-- Insert a candidate behind every one that it does not rank above, so equal values keep the lower index first. -/
def insertRank (c : Nat × Fp) : List (Nat × Fp) → List (Nat × Fp)
  | [] => [c]
  | d :: r => if ranksAbove c.2 d.2 then c :: d :: r else d :: insertRank c r

/-- Candidates in rank order with their indices: register offset × lanes + lane (R199). -/
def rankAll (vs : List Fp) : List (Nat × Fp) :=
  (vs.zipIdx.map (fun (v, j) => (j, v))).foldl (fun l c => insertRank c l) []

/-- The candidates of 2 ^ h registers. -/
def spanCandidates (th : Thread) (ty h o2 : Nat) : List Fp := (spanLanes th (laneW ty) o2 (2 ^ h)).map (laneFp ty)

/-- VTOPK (R199). -/
def execVtopk (i : Site) (ty o1 o2 imm8 : Byte) (s : State) : Res :=
  issue s i 0x60 [ty, o1, o2, imm8] 0 (fun x =>
    let t := vty ty
    let top := (rankAll (spanCandidates x.th t (bits imm8 7 6) (indexOf o2))).take (bits imm8 5 0)
    .done x.s
      [{ lat := latSel, dst := .v (indexOf o1), val := ofLanes (laneW t) (top.map (fun c => fpLane t c.2)) },
       { lat := latSel, dst := .v (indexOf o1 + 1),
         val := ofLanes 16 (top.map (·.1) ++ List.replicate (32 - top.length) 0xFFFF) }] none)

/-- FP32 1. -/
def one32 : W32 := 0x3F800000

/-- `exp2 ((x − m) × invT × 1.442695)`, each step in FP32 (R200). -/
def softWeight (m invT x : W32) : W32 := sfuFp32 0 (f32Mul (f32Mul (f32Sub x m) invT) log2e)

/-- A sum in order, from the first element (R200). -/
def sum32 : List W32 → W32
  | [] => 0
  | a :: r => r.foldl f32Add a

/-- The largest of FP32 values that are not NaN. -/
def max32 : List W32 → W32
  | [] => 0xFF800000
  | a :: r => r.foldl (fun m x => if fpLt (fp32 m) (fp32 x) then x else m) a

/-- Where the nucleus cut falls: the number of candidates kept (R200). -/
def nucleus (bound : W32) : W32 → Nat → List W32 → Nat
  | _, j, [] => j
  | c, j, w :: r =>
    let c := f32Add c w
    if !fpLt (fp32 c) (fp32 bound) && fp32 c != .nan && fp32 bound != .nan then j + 1 else nucleus bound c (j + 1) r

/-- The first candidate whose running sum exceeds `r`, or the last (R200). -/
def pickSample (r : W32) : W32 → Nat → List W32 → Nat
  | _, j, [] => j - 1
  | c, j, w :: ws =>
    let c := f32Add c w
    if fpLt (fp32 r) (fp32 c) then j else pickSample r c (j + 1) ws

/-- An unsigned 32-bit integer as FP32 by RNE. -/
def nat32 (n : Nat) : W32 := toFp32 (if n = 0 then .zero false else .fin false n 0)

/-- VSAMPLE: the chosen lane, its probability, and the generator (R200, R201). -/
def sampleLane (ty : Nat) (rng : W64) (cand parm : W512) : Nat × W32 × W64 :=
  let ws := lanesOf 32 parm
  let invT : W32 := BitVec.ofNat 32 (ws.getD 0 0)
  let topP : W32 := BitVec.ofNat 32 (ws.getD 1 0)
  let n := (max 1 (min (laneN ty : Int) (toSigned 32 (ws.getD 2 0)))).toNat
  let greedy := ws.getD 3 0 % 2 == 1
  let xs : List W32 := ((lanesOf (laneW ty) cand).take n).map (fun x =>
    let v := toFp32 (laneFp ty x)
    if fp32 v = .nan then 0xFF800000 else v)
  let m := max32 xs
  if greedy || !fpLt (.zero false) (fp32 invT) || m == 0xFF800000 then
    ((xs.findIdx? (fun x => fpEq (fp32 x) (fp32 m))).getD 0, one32, rng)
  else
    let w := xs.map (softWeight m invT)
    let sum := sum32 w
    let kept := if fpLt (fp32 topP) (fp32 one32) then nucleus (f32Mul topP sum) 0 0 w else n
    let w := w.take kept
    let tot := sum32 w
    let (rng, a) := rngDraw rng
    let (rng, b) := rngDraw rng
    let r := f32Mul (f32Mul (nat32 (a * 2 ^ 16 + b)) 0x2F800000) tot
    let i := pickSample r 0 0 w
    (i, f32Div (w.getD i 0) tot, rng)

/-- VSAMPLE (R200, R201). -/
def execVsample (i : Site) (ty o1 o2 o3 : Byte) (s : State) : Res :=
  vecIssue s i 0x61 latSel [ty, o1, o2, o3] o1 (fun x =>
    let (l, p, rng) := sampleLane (vty ty) x.th.rngS (x.th.readV (indexOf o2)) (x.th.readV (indexOf o3))
    (ofLanes 32 [l, p.toNat], false, rng))

/-- Whether an FP32 value is finite. -/
def finite32 (x : W32) : Bool := match fp32 x with | .nan => false | .inf _ => false | _ => true
/-- Whether an FP32 value is −∞ or NaN. -/
def noWeight (x : W32) : Bool := match fp32 x with | .nan => true | .inf s => s | _ => false

/-- The weights of GATE (R207): softmax over the selected logits (MODE 0) or over all finite candidates (MODE 1); `open_` is the weight of
a selected +∞ under MODE 1, which the spec does not state. -/
def gateWeights (mode1 : Bool) (open_ : W32) (all sel : List W32) : List W32 :=
  let num (x : W32) : W32 := if fp32 x = .nan then 0xFF800000 else x
  let base := if mode1 then all.filter finite32 else sel.map num
  let m := max32 base
  let weight (x : W32) : W32 := if noWeight x then 0 else softWeight m one32 x
  let den := sum32 (base.map weight)
  if (base.map weight).all (fun w => fp32 w == .zero false) then sel.map (fun _ => 0)
  else sel.map (fun x => if noWeight x then 0 else if mode1 && !finite32 x then open_ else f32Div (weight x) den)

/-- GATE (R206, R207). -/
def execGate (i : Site) (ty o1 o2 imm8 : Byte) (s : State) : Res :=
  issue s i 0x62 [ty, o1, o2, imm8] 0 (fun x =>
    let t := vty ty
    let vs := spanCandidates x.th t (bits imm8 5 4) (indexOf o2)
    let sel := (rankAll vs).take (bits imm8 3 0)
    let (o, s') := x.s.freeVal 32
    let ws := gateWeights (imm8.getLsbD 6) o (vs.map toFp32) (sel.map (fun c => toFp32 c.2))
    let recs := (sel.zip ws).map (fun (c, w) => w.toNat * 2 ^ 32 + c.1)
    .done s' [{ lat := latSel, dst := .v (indexOf o1), val := ofLanes 64 (recs ++ List.replicate (8 - recs.length) 0xFFFF) }] none)

end Sys2Proof.Machine
end

