-- ==== Sys2Proof/Machine/Dispatch.lean ====
section
/-! DEFINITION. Which meaning each command has: one arm per constructor. -/

namespace Sys2Proof.Machine

/-- The effect of a command on everything but the queue of waiting commands. -/
def exec (i : Instr) (s : State) : Host.Outcome State Fault Refusal :=
  match i with
  | .nop j => Sys2Proof.Machine.execNop j s
  | .undecodable core thr bytes => Sys2Proof.Machine.execUndecodable core thr bytes s
  | .add j o1 o2 o3 => Sys2Proof.Machine.execAdd j o1 o2 o3 s
  | .sub j o1 o2 o3 => Sys2Proof.Machine.execSub j o1 o2 o3 s
  | .andR j o1 o2 o3 => Sys2Proof.Machine.execAnd j o1 o2 o3 s
  | .orR j o1 o2 o3 => Sys2Proof.Machine.execOr j o1 o2 o3 s
  | .xorR j o1 o2 o3 => Sys2Proof.Machine.execXor j o1 o2 o3 s
  | .shl j o1 o2 o3 => Sys2Proof.Machine.execShl j o1 o2 o3 s
  | .shr j o1 o2 o3 => Sys2Proof.Machine.execShr j o1 o2 o3 s
  | .sar j o1 o2 o3 => Sys2Proof.Machine.execSar j o1 o2 o3 s
  | .minS j o1 o2 o3 => Sys2Proof.Machine.execMin j o1 o2 o3 s
  | .maxS j o1 o2 o3 => Sys2Proof.Machine.execMax j o1 o2 o3 s
  | .mul j o1 o2 o3 => Sys2Proof.Machine.execMul j o1 o2 o3 s
  | .mulh j o1 o2 o3 => Sys2Proof.Machine.execMulh j o1 o2 o3 s
  | .fmul j o1 o2 o3 => Sys2Proof.Machine.execFmul j o1 o2 o3 s
  | .fadd j o1 o2 o3 => Sys2Proof.Machine.execFadd j o1 o2 o3 s
  | .fsub j o1 o2 o3 => Sys2Proof.Machine.execFsub j o1 o2 o3 s
  | .addi j o1 o2 imm => Sys2Proof.Machine.execAddi j o1 o2 imm s
  | .andi j o1 o2 imm => Sys2Proof.Machine.execAndi j o1 o2 imm s
  | .ori j o1 o2 imm => Sys2Proof.Machine.execOri j o1 o2 imm s
  | .xori j o1 o2 imm => Sys2Proof.Machine.execXori j o1 o2 imm s
  | .shli j o1 o2 imm => Sys2Proof.Machine.execShli j o1 o2 imm s
  | .shri j o1 o2 imm => Sys2Proof.Machine.execShri j o1 o2 imm s
  | .sari j o1 o2 imm => Sys2Proof.Machine.execSari j o1 o2 imm s
  | .muli j o1 o2 imm => Sys2Proof.Machine.execMuli j o1 o2 imm s
  | .li j o1 imm => Sys2Proof.Machine.execLi j o1 imm s
  | .lih j o1 imm => Sys2Proof.Machine.execLih j o1 imm s
  | .mov j o1 o2 => Sys2Proof.Machine.execMov j o1 o2 s
  | .clz j o1 o2 => Sys2Proof.Machine.execClz j o1 o2 s
  | .popc j o1 o2 => Sys2Proof.Machine.execPopc j o1 o2 s
  | .cmpeq j o1 o2 o3 => Sys2Proof.Machine.execCmpeq j o1 o2 o3 s
  | .cmpne j o1 o2 o3 => Sys2Proof.Machine.execCmpne j o1 o2 o3 s
  | .cmplt j o1 o2 o3 => Sys2Proof.Machine.execCmplt j o1 o2 o3 s
  | .cmpltu j o1 o2 o3 => Sys2Proof.Machine.execCmpltu j o1 o2 o3 s
  | .cmple j o1 o2 o3 => Sys2Proof.Machine.execCmple j o1 o2 o3 s
  | .cmpleu j o1 o2 o3 => Sys2Proof.Machine.execCmpleu j o1 o2 o3 s
  | .cmpeqi j o1 o2 imm => Sys2Proof.Machine.execCmpeqi j o1 o2 imm s
  | .cmpnei j o1 o2 imm => Sys2Proof.Machine.execCmpnei j o1 o2 imm s
  | .cmplti j o1 o2 imm => Sys2Proof.Machine.execCmplti j o1 o2 imm s
  | .cmpltui j o1 o2 imm => Sys2Proof.Machine.execCmpltui j o1 o2 imm s
  | .cmplei j o1 o2 imm => Sys2Proof.Machine.execCmplei j o1 o2 imm s
  | .cmpleui j o1 o2 imm => Sys2Proof.Machine.execCmpleui j o1 o2 imm s
  | .pand j o1 o2 o3 => Sys2Proof.Machine.execPand j o1 o2 o3 s
  | .por j o1 o2 o3 => Sys2Proof.Machine.execPor j o1 o2 o3 s
  | .pxor j o1 o2 o3 => Sys2Proof.Machine.execPxor j o1 o2 o3 s
  | .pnot j o1 o2 => Sys2Proof.Machine.execPnot j o1 o2 s
  | .br j imm => Sys2Proof.Machine.execBr j imm s
  | .brl j o1 imm => Sys2Proof.Machine.execBrl j o1 imm s
  | .jr j o1 imm => Sys2Proof.Machine.execJr j o1 imm s
  | .loop j o1 o2 imm => Sys2Proof.Machine.execLoop j o1 o2 imm s
  | .loopt j o1 o2 imm => Sys2Proof.Machine.execLoopt j o1 o2 imm s
  | .endT j => Sys2Proof.Machine.execEndT j s
  | .vadd j ty o1 o2 o3 => Sys2Proof.Machine.execVadd j ty o1 o2 o3 s
  | .vsub j ty o1 o2 o3 => Sys2Proof.Machine.execVsub j ty o1 o2 o3 s
  | .vmul j ty o1 o2 o3 => Sys2Proof.Machine.execVmul j ty o1 o2 o3 s
  | .vfma j ty o1 o2 o3 => Sys2Proof.Machine.execVfma j ty o1 o2 o3 s
  | .vmax j ty o1 o2 o3 => Sys2Proof.Machine.execVmax j ty o1 o2 o3 s
  | .vmin j ty o1 o2 o3 => Sys2Proof.Machine.execVmin j ty o1 o2 o3 s
  | .vand j ty o1 o2 o3 => Sys2Proof.Machine.execVand j ty o1 o2 o3 s
  | .vor j ty o1 o2 o3 => Sys2Proof.Machine.execVor j ty o1 o2 o3 s
  | .vxor j ty o1 o2 o3 => Sys2Proof.Machine.execVxor j ty o1 o2 o3 s
  | .vshl j ty o1 o2 o3 => Sys2Proof.Machine.execVshl j ty o1 o2 o3 s
  | .vshr j ty o1 o2 o3 => Sys2Proof.Machine.execVshr j ty o1 o2 o3 s
  | .vcmplt j ty o1 o2 o3 => Sys2Proof.Machine.execVcmplt j ty o1 o2 o3 s
  | .vcmpeq j ty o1 o2 o3 => Sys2Proof.Machine.execVcmpeq j ty o1 o2 o3 s
  | .vsel j ty o1 o2 o3 => Sys2Proof.Machine.execVsel j ty o1 o2 o3 s
  | .vexp2 j ty o1 o2 => Sys2Proof.Machine.execVexp2 j ty o1 o2 s
  | .vlog2 j ty o1 o2 => Sys2Proof.Machine.execVlog2 j ty o1 o2 s
  | .vrcp j ty o1 o2 => Sys2Proof.Machine.execVrcp j ty o1 o2 s
  | .vrsqrt j ty o1 o2 => Sys2Proof.Machine.execVrsqrt j ty o1 o2 s
  | .vtanh j ty o1 o2 => Sys2Proof.Machine.execVtanh j ty o1 o2 s
  | .vsigm j ty o1 o2 => Sys2Proof.Machine.execVsigm j ty o1 o2 s
  | .vcvt j ty o1 o2 imm8 => Sys2Proof.Machine.execVcvt j ty o1 o2 imm8 s
  | .vbcast j ty o1 o2 => Sys2Proof.Machine.execVbcast j ty o1 o2 s
  | .vextr j ty o1 o2 imm8 => Sys2Proof.Machine.execVextr j ty o1 o2 imm8 s
  | .vperm j ty o1 o2 o3 => Sys2Proof.Machine.execVperm j ty o1 o2 o3 s
  | .vredsum j ty o1 o2 => Sys2Proof.Machine.execVredsum j ty o1 o2 s
  | .vredmax j ty o1 o2 => Sys2Proof.Machine.execVredmax j ty o1 o2 s
  | .vrand j o1 => Sys2Proof.Machine.execVrand j o1 s
  | .vtopk j ty o1 o2 imm8 => Sys2Proof.Machine.execVtopk j ty o1 o2 imm8 s
  | .vsample j ty o1 o2 o3 => Sys2Proof.Machine.execVsample j ty o1 o2 o3 s
  | .gate j ty o1 o2 imm8 => Sys2Proof.Machine.execGate j ty o1 o2 imm8 s
  | .tcfg j o1 o2 => Sys2Proof.Machine.execTcfg j o1 o2 s
  | .tfree j imm => Sys2Proof.Machine.execTfree j imm s
  | .tld j o1 o2 imm => Sys2Proof.Machine.execTld j o1 o2 imm s
  | .tldc j o1 o2 o3 => Sys2Proof.Machine.execTldc j o1 o2 o3 s
  | .tst j o1 o2 imm => Sys2Proof.Machine.execTst j o1 o2 imm s
  | .mma j o1 o2 o3 => Sys2Proof.Machine.execMma j o1 o2 o3 s
  | .mmaz j o1 o2 o3 => Sys2Proof.Machine.execMmaz j o1 o2 o3 s
  | .savetiles j o1 imm => Sys2Proof.Machine.execSavetiles j o1 imm s
  | .resttiles j o1 imm => Sys2Proof.Machine.execResttiles j o1 imm s
  | .trdv j o1 o2 imm => Sys2Proof.Machine.execTrdv j o1 o2 imm s
  | .twrv j o1 o2 imm => Sys2Proof.Machine.execTwrv j o1 o2 imm s
  | .meOpStart core => Sys2Proof.Machine.execMeOpStart core s
  | .mmaStep core => Sys2Proof.Machine.execMmaStep core s
  | .mmaStepCheck core pass => Sys2Proof.Machine.execMmaStepCheck core pass s
  | .lsOpComplete core => Sys2Proof.Machine.execLsOpComplete core s
  | .latentCheckerTest core detected now => Sys2Proof.Machine.execLatentCheckerTest core detected now s
  | .asyncFaultDelivery core thr ve => Sys2Proof.Machine.execAsyncFaultDelivery core thr ve s
  | .ld8 j o1 o2 imm => Sys2Proof.Machine.execLd8 j o1 o2 imm s
  | .ld16 j o1 o2 imm => Sys2Proof.Machine.execLd16 j o1 o2 imm s
  | .ld32 j o1 o2 imm => Sys2Proof.Machine.execLd32 j o1 o2 imm s
  | .ld64 j o1 o2 imm => Sys2Proof.Machine.execLd64 j o1 o2 imm s
  | .lds8 j o1 o2 imm => Sys2Proof.Machine.execLds8 j o1 o2 imm s
  | .lds16 j o1 o2 imm => Sys2Proof.Machine.execLds16 j o1 o2 imm s
  | .lds32 j o1 o2 imm => Sys2Proof.Machine.execLds32 j o1 o2 imm s
  | .ldv j o1 o2 imm => Sys2Proof.Machine.execLdv j o1 o2 imm s
  | .st8 j o1 o2 imm => Sys2Proof.Machine.execSt8 j o1 o2 imm s
  | .st16 j o1 o2 imm => Sys2Proof.Machine.execSt16 j o1 o2 imm s
  | .st32 j o1 o2 imm => Sys2Proof.Machine.execSt32 j o1 o2 imm s
  | .st64 j o1 o2 imm => Sys2Proof.Machine.execSt64 j o1 o2 imm s
  | .stv j o1 o2 imm => Sys2Proof.Machine.execStv j o1 o2 imm s
  | .rst j o1 o2 imm => Sys2Proof.Machine.execRst j o1 o2 imm s
  | .cst j o1 o2 o3 => Sys2Proof.Machine.execCst j o1 o2 o3 s
  | .aadd j o1 o2 o3 => Sys2Proof.Machine.execAadd j o1 o2 o3 s
  | .amin j o1 o2 o3 => Sys2Proof.Machine.execAmin j o1 o2 o3 s
  | .amax j o1 o2 o3 => Sys2Proof.Machine.execAmax j o1 o2 o3 s
  | .aswap j o1 o2 o3 => Sys2Proof.Machine.execAswap j o1 o2 o3 s
  | .rsend j o1 imm => Sys2Proof.Machine.execRsend j o1 imm s
  | .rsendt j imm => Sys2Proof.Machine.execRsendt j imm s
  | .rrd j o1 o2 imm => Sys2Proof.Machine.execRrd j o1 o2 imm s
  | .route j o1 o2 o3 => Sys2Proof.Machine.execRoute j o1 o2 o3 s
  | .fill j o1 o2 o3 => Sys2Proof.Machine.execFill j o1 o2 o3 s
  | .copy j o1 o2 o3 => Sys2Proof.Machine.execCopy j o1 o2 o3 s
  | .inp j o1 imm => Sys2Proof.Machine.execInp j o1 imm s
  | .outp j o1 imm => Sys2Proof.Machine.execOutp j o1 imm s
  | .iload j o1 o2 o3 => Sys2Proof.Machine.execIload j o1 o2 o3 s
  | .iverify j o1 o2 => Sys2Proof.Machine.execIverify j o1 o2 s
  | .fcOpComplete core => Sys2Proof.Machine.execFcOpComplete core s
  | .wait j o1 imm => Sys2Proof.Machine.execWait j o1 imm s
  | .msync j o1 imm => Sys2Proof.Machine.execMsync j o1 imm s
  | .dsync j o1 => Sys2Proof.Machine.execDsync j o1 s
  | .bar j imm => Sys2Proof.Machine.execBar j imm s
  | .waitTimeout core thr now => Sys2Proof.Machine.execWaitTimeout core thr now s
  | .thrStart core thr startPc => Sys2Proof.Machine.execThrStart core thr startPc s
  | .thrPark core thr => Sys2Proof.Machine.execThrPark core thr s
  | .thrUnpark core thr => Sys2Proof.Machine.execThrUnpark core thr s
  | .thrStop core thr => Sys2Proof.Machine.execThrStop core thr s
  | .coreQcfgWrite core val => Sys2Proof.Machine.execCoreQcfgWrite core val s
  | .thrWaittoWrite core thr val => Sys2Proof.Machine.execThrWaittoWrite core thr val s
  | .thrRngWrite core thr matrix val => Sys2Proof.Machine.execThrRngWrite core thr matrix val s
  | .registerWrite reg val => Sys2Proof.Machine.execRegisterWrite reg val s
  | .dmaStart core thr ch => Sys2Proof.Machine.execDmaStart core thr ch s
  | .dmaStop core ch => Sys2Proof.Machine.execDmaStop core ch s
  | .dmaResume core ch => Sys2Proof.Machine.execDmaResume core ch s
  | .dmaAbort core ch => Sys2Proof.Machine.execDmaAbort core ch s
  | .dmaPacket core ch read => Sys2Proof.Machine.execDmaPacket core ch read s
  | .dmaPacketError core ch => Sys2Proof.Machine.execDmaPacketError core ch s
  | .dmaDescriptorComplete core ch => Sys2Proof.Machine.execDmaDescriptorComplete core ch s
  | .dmaStopDrained core ch => Sys2Proof.Machine.execDmaStopDrained core ch s
  | .writeAckArrive pkt => Sys2Proof.Machine.execWriteAckArrive pkt s
  | .remoteWriteArrive pkt => Sys2Proof.Machine.execRemoteWriteArrive pkt s
  | .ringMessageArrive pkt crcOk => Sys2Proof.Machine.execRingMessageArrive pkt crcOk s
  | .bindRequestArrive pkt => Sys2Proof.Machine.execBindRequestArrive pkt s
  | .bindAnswerArrive pkt => Sys2Proof.Machine.execBindAnswerArrive pkt s
  | .unbindArrive pkt => Sys2Proof.Machine.execUnbindArrive pkt s
  | .creditReturnArrive pkt => Sys2Proof.Machine.execCreditReturnArrive pkt s
  | .routeClaimArrive pkt => Sys2Proof.Machine.execRouteClaimArrive pkt s
  | .routeClaimAnswer pkt => Sys2Proof.Machine.execRouteClaimAnswer pkt s
  | .commonsRequestArrive pkt => Sys2Proof.Machine.execCommonsRequestArrive pkt s
  | .hbmRequestArrive pkt => Sys2Proof.Machine.execHbmRequestArrive pkt s
  | .farResponseArrive pkt => Sys2Proof.Machine.execFarResponseArrive pkt s
  | .fencedAnswerArrive pkt => Sys2Proof.Machine.execFencedAnswerArrive pkt s
  | .meshFlitForward router out crcOk => Sys2Proof.Machine.execMeshFlitForward router out crcOk s
  | .flitCrcFail router out => Sys2Proof.Machine.execFlitCrcFail router out s
  | .bridgeSpareSwitch router out => Sys2Proof.Machine.execBridgeSpareSwitch router out s
  | .cairnHoldExpiry pkt => Sys2Proof.Machine.execCairnHoldExpiry pkt s
  | .cairnFinalCombine pkt crcOk => Sys2Proof.Machine.execCairnFinalCombine pkt crcOk s
  | .ringCtlWrite core n val => Sys2Proof.Machine.execRingCtlWrite core n val s
  | .chanBindWrite core n val => Sys2Proof.Machine.execChanBindWrite core n val s
  | .routeCapWrite core n val => Sys2Proof.Machine.execRouteCapWrite core n val s
  | .barThrmaskWrite core slot val => Sys2Proof.Machine.execBarThrmaskWrite core slot val s
  | .barrierArrival core slot => Sys2Proof.Machine.execBarrierArrival core slot s
  | .barrierRelease place slot => Sys2Proof.Machine.execBarrierRelease place slot s
  | .alarmFire core thr now => Sys2Proof.Machine.execAlarmFire core thr now s
  | .intLogclr mem => Sys2Proof.Machine.execIntLogclr mem s
  | .writeRaw mem => Sys2Proof.Machine.execWriteRaw mem s
  | .readRaw mem => Sys2Proof.Machine.execReadRaw mem s
  | .rawAccessComplete mem => Sys2Proof.Machine.execRawAccessComplete mem s
  | .intRemapWrite mem n val => Sys2Proof.Machine.execIntRemapWrite mem n val s
  | .scrubRead mem off => Sys2Proof.Machine.execScrubRead mem off s
  | .eccWriteback mem off => Sys2Proof.Machine.execEccWriteback mem off s
  | .submit h => Sys2Proof.Machine.execSubmit h s
  | .cancel h => Sys2Proof.Machine.execCancel h s
  | .hold h => Sys2Proof.Machine.execHold h s
  | .release h => Sys2Proof.Machine.execRelease h s
  | .readCtx h => Sys2Proof.Machine.execReadCtx h s
  | .run h => Sys2Proof.Machine.execRun h s
  | .castCmd h => Sys2Proof.Machine.execCast h s
  | .readCast h => Sys2Proof.Machine.execReadCast h s
  | .createQp h => Sys2Proof.Machine.execCreateQp h s
  | .deleteQp h => Sys2Proof.Machine.execDeleteQp h s
  | .cfgWrite h => Sys2Proof.Machine.execCfgWrite h s
  | .cfgRead h => Sys2Proof.Machine.execCfgRead h s
  | .slotLoad h => Sys2Proof.Machine.execSlotLoad h s
  | .slotUnload h => Sys2Proof.Machine.execSlotUnload h s
  | .placeCreate h => Sys2Proof.Machine.execPlaceCreate h s
  | .placeDestroy h => Sys2Proof.Machine.execPlaceDestroy h s
  | .zeroRange h => Sys2Proof.Machine.execZeroRange h s
  | .zeroRangeComplete id => Sys2Proof.Machine.execZeroRangeComplete id s
  | .sqTailDoorbell fn q val => Sys2Proof.Machine.execSqTailDoorbell fn q val s
  | .cqHeadDoorbell fn q val => Sys2Proof.Machine.execCqHeadDoorbell fn q val s
  | .bar4Read fn off len => Sys2Proof.Machine.execBar4Read fn off len s
  | .bar4Write fn off bytes => Sys2Proof.Machine.execBar4Write fn off bytes s
  | .hstAqenWrite fn val => Sys2Proof.Machine.execHstAqenWrite fn val s
  | .msixCoalesceTimer q now => Sys2Proof.Machine.execMsixCoalesceTimer q now s
  | .stepCommandComplete part slot now => Sys2Proof.Machine.execStepCommandComplete part slot now s
  | .stepFormation part slot now => Sys2Proof.Machine.execStepFormation part slot now s
  | .stepLimitExpiry part slot now => Sys2Proof.Machine.execStepLimitExpiry part slot now s
  | .deferExpiry ctx now => Sys2Proof.Machine.execDeferExpiry ctx now s
  | .bucketRefill part contract => Sys2Proof.Machine.execBucketRefill part contract s
  | .tokenSeal ctx sealable now => Sys2Proof.Machine.execTokenSeal ctx sealable now s
  | .contextFree ctx now => Sys2Proof.Machine.execContextFree ctx now s
  | .schSnowCfgWrite part n val => Sys2Proof.Machine.execSchSnowCfgWrite part n val s
  | .schSnowStatWrite part n val => Sys2Proof.Machine.execSchSnowStatWrite part n val s
  | .schMeasGo part val => Sys2Proof.Machine.execSchMeasGo part val s
  | .schMeasSnapshotDone part => Sys2Proof.Machine.execSchMeasSnapshotDone part s
  | .commandEnd place now => Sys2Proof.Machine.execCommandEnd place now s
  | .realignment place now => Sys2Proof.Machine.execRealignment place now s
  | .castComplete place now => Sys2Proof.Machine.execCastComplete place now s
  | .cmdLimitExpiry place now => Sys2Proof.Machine.execCmdLimitExpiry place now s
  | .drain place => Sys2Proof.Machine.execDrain place s
  | .drainComplete place => Sys2Proof.Machine.execDrainComplete place s
  | .restore place => Sys2Proof.Machine.execRestore place s
  | .faultReport rep now => Sys2Proof.Machine.execFaultReport rep now s
  | .stepCancel place status now => Sys2Proof.Machine.execStepCancel place status now s
  | .errUnitSet by_ unit state pass now => Sys2Proof.Machine.execErrUnitSet by_ unit state pass now s
  | .errUnitReconcile by_ unit arg pass now => Sys2Proof.Machine.execErrUnitReconcile by_ unit arg pass now s
  | .errPolicyWrite by_ val => Sys2Proof.Machine.execErrPolicyWrite by_ val s
  | .secHpkeRotate part val now => Sys2Proof.Machine.execSecHpkeRotate part val now s
  | .hpkeAutoRotate part now => Sys2Proof.Machine.execHpkeAutoRotate part now s
  | .challenge by_ nonce => Sys2Proof.Machine.execChallenge by_ nonce s
  | .getMeasurements by_ index nonce => Sys2Proof.Machine.execGetMeasurements by_ index nonce s
  | .keyExchange by_ data => Sys2Proof.Machine.execKeyExchange by_ data s
  | .pldmFirmwareUpdate image => Sys2Proof.Machine.execPldmFirmwareUpdate image s
  | .pldmActivate commit => Sys2Proof.Machine.execPldmActivate commit s
  | .nvStore by_ now => Sys2Proof.Machine.execNvStore by_ now s
  | .pwrCapWrite by_ val => Sys2Proof.Machine.execPwrCapWrite by_ val s
  | .pwrDieCtlWrite by_ die val => Sys2Proof.Machine.execPwrDieCtlWrite by_ die val s
  | .reservedOpcode j opc => Sys2Proof.Machine.execReservedOpcode j opc s
  | .fenceNotice unit core => Sys2Proof.Machine.execFenceNotice unit core s
  | .lostAnswerTimeout core slot now => Sys2Proof.Machine.execLostAnswerTimeout core slot now s
  | .routerSilentTimeout router now => Sys2Proof.Machine.execRouterSilentTimeout router now s
  | .engineWatchdog core now => Sys2Proof.Machine.execEngineWatchdog core now s
  | .heartbeatTimeout unit now => Sys2Proof.Machine.execHeartbeatTimeout unit now s
  | .selfTestComplete unit pass now => Sys2Proof.Machine.execSelfTestComplete unit pass now s
  | .spareSubstitution core now => Sys2Proof.Machine.execSpareSubstitution core now s
  | .spareSubstitutionComplete core now => Sys2Proof.Machine.execSpareSubstitutionComplete core now s
  | .lockstepMismatch now => Sys2Proof.Machine.execLockstepMismatch now s
  | .schedulerMismatch now => Sys2Proof.Machine.execSchedulerMismatch now s
  | .lockstepCheckerTest detected now => Sys2Proof.Machine.execLockstepCheckerTest detected now s
  | .controllerWatchdog now => Sys2Proof.Machine.execControllerWatchdog now s
  | .capacityLoss unit now => Sys2Proof.Machine.execCapacityLoss unit now s
  | .altPlacementTimeout part slot now => Sys2Proof.Machine.execAltPlacementTimeout part slot now s
  | .entropyFailTimeout now => Sys2Proof.Machine.execEntropyFailTimeout now s
  | .entropyHealthTestFail now => Sys2Proof.Machine.execEntropyHealthTestFail now s
  | .entropyHealthTestPass now => Sys2Proof.Machine.execEntropyHealthTestPass now s
  | .tdiLeaveRun part now => Sys2Proof.Machine.execTdiLeaveRun part now s
  | .tdiEnterRun part now => Sys2Proof.Machine.execTdiEnterRun part now s
  | .ideTlpReceive fn stream tbit tagOk => Sys2Proof.Machine.execIdeTlpReceive fn stream tbit tagOk s
  | .tdiConfigLock part req => Sys2Proof.Machine.execTdiConfigLock part req s
  | .ideKmKeyProgramming fn stream inSession => Sys2Proof.Machine.execIdeKmKeyProgramming fn stream inSession s
  | .getVersion by_ => Sys2Proof.Machine.execGetVersion by_ s
  | .getCapabilities by_ => Sys2Proof.Machine.execGetCapabilities by_ s
  | .negotiateAlgorithms by_ => Sys2Proof.Machine.execNegotiateAlgorithms by_ s
  | .getDigests by_ => Sys2Proof.Machine.execGetDigests by_ s
  | .getCertificate by_ slot => Sys2Proof.Machine.execGetCertificate by_ slot s
  | .finish by_ data => Sys2Proof.Machine.execFinish by_ data s
  | .endSession by_ => Sys2Proof.Machine.execEndSession by_ s
  | .pqSign by_ vendor => Sys2Proof.Machine.execPqSign by_ vendor s
  | .debugUnlock token now => Sys2Proof.Machine.execDebugUnlock token now s
  | .lifecycleTransition target token now => Sys2Proof.Machine.execLifecycleTransition target token now s
  | .mctpControl eid => Sys2Proof.Machine.execMctpControl eid s
  | .i3cAddressTimeout now => Sys2Proof.Machine.execI3cAddressTimeout now s
  | .dynamicAddressAssignment addr => Sys2Proof.Machine.execDynamicAddressAssignment addr s
  | .nvStoreComplete readBackOk => Sys2Proof.Machine.execNvStoreComplete readBackOk s
  | .nvStoreWindowExpiry now => Sys2Proof.Machine.execNvStoreWindowExpiry now s
  | .powerEvaluation power tj now => Sys2Proof.Machine.execPowerEvaluation power tj now s
  | .frequencySwitch die => Sys2Proof.Machine.execFrequencySwitch die s
  | .coolantOutOfRange now => Sys2Proof.Machine.execCoolantOutOfRange now s
  | .coolantRecovered now => Sys2Proof.Machine.execCoolantRecovered now s
  | .telemetryRefresh smp now => Sys2Proof.Machine.execTelemetryRefresh smp now s
  | .packageTimeResync now => Sys2Proof.Machine.execPackageTimeResync now s
  | .coldReset now => Sys2Proof.Machine.execColdReset now s
  | .warmReset now => Sys2Proof.Machine.execWarmReset now s
  | .portReset port => Sys2Proof.Machine.execPortReset port s
  | .flr fn => Sys2Proof.Machine.execFlr fn s
  | .bootStageComplete boot now => Sys2Proof.Machine.execBootStageComplete boot now s
  | .perstDeassertion port => Sys2Proof.Machine.execPerstDeassertion port s
  | .currentStretch => Sys2Proof.Machine.execCurrentStretch s
  | .thermtrip => Sys2Proof.Machine.execThermtrip s
  | .emergencyStop => Sys2Proof.Machine.execEmergencyStop s
  | .vddAonApplied => Sys2Proof.Machine.execVddAonApplied s
  | .vddAonRemoved => Sys2Proof.Machine.execVddAonRemoved s
  | .controllerRestartDone => Sys2Proof.Machine.execControllerRestartDone s
  | .schedulerReloadComplete => Sys2Proof.Machine.execSchedulerReloadComplete s

end Sys2Proof.Machine
end

