-- ==== Sys2Proof/Machine/Tick.lean ====
section
/-! DEFINITION. What a clock brings on when no command is waiting: the words and rows that FILL, COPY, ILOAD, TLD, TLDC and TST move one after
another (R226, R311, R316, R317), for which the command table has no row of its own. -/

namespace Sys2Proof.Machine

/-- One clock of a core's engines (log 3). -/
def coreTick (s : State) (c : CoreId) : State := lsTick (fcTick s c) c

/-- One clock of the block: every core's engines move their next word or row while the cores are clocked (log 3). -/
def tick (s : State) : State :=
  if s.clocked then s.cores.foldl (fun t e => coreTick t (BitVec.ofNat 14 e.1)) s else s

end Sys2Proof.Machine
end

