-- ==== Sys2Proof/WellFormed.lean ====
section
/-! DEFINITION. Which commands can be sent at all: the static checks of a command, each with a reason of its own. An encoding that a thread
may issue and that raises a fault is well formed: the fault is its meaning. -/

namespace Sys2Proof.WellFormed

/-- Why no such command can be sent. -/
inductive IllFormed where
  | noSuchCore       -- a core_id or router with column 48 to 63 (R19)
  | decodable        -- an undecodable instruction whose bytes hold an opcode behind at most 15 prefix bytes (R73)
  | listedOpcode     -- a reserved opcode that a reference table lists (R123)
  | noSuchFunction   -- a function number above 8 (R479)
  | noSuchPlacement  -- a placement of a partition above 7 (R459, R502)
  | noSuchDie        -- a die list that does not name each of the 8 dies once (R507, R530)
  | badAccess        -- a host access of no bytes, or of more than 64 (R483)
deriving DecidableEq, Repr

/-- A core_id must name a core. -/
def coreOk (c : CoreId) : Option IllFormed := if Machine.isCore c then none else some .noSuchCore
/-- A function number is 0 to 8. -/
def fnOk (f : FnRef) : Option IllFormed := if f.fn.toNat ≤ 8 then none else some .noSuchFunction
/-- A memory instance must exist: every HBM channel number names one (R503). -/
def memOk : MemRef → Option IllFormed
  | .core c _ => coreOk c
  | .hbm _ => none
/-- A register's core or function must exist. -/
def regOk : RegRef → Option IllFormed
  | .io c _ _ => coreOk c
  | .bar0 f _ => fnOk f
/-- A placement is named by 256 × partition + number. -/
def placeOk (p : Nat) : Option IllFormed := if p < 2048 then none else some .noSuchPlacement
/-- A host access moves 1 to 64 bytes in one command. -/
def lenOk (n : Nat) : Option IllFormed := if 1 ≤ n ∧ n ≤ 64 then none else some .badAccess
/-- A list with one entry per die. -/
def dieListOk (n : Nat) : Option IllFormed := if n = 8 then none else some .noSuchDie

/-- The issuing site of a core instruction, if the command is one. -/
def siteOf (i : Instr) : Option Site :=
  match i with
  | .nop i => some i
  | .add i _ _ _ => some i
  | .sub i _ _ _ => some i
  | .andR i _ _ _ => some i
  | .orR i _ _ _ => some i
  | .xorR i _ _ _ => some i
  | .shl i _ _ _ => some i
  | .shr i _ _ _ => some i
  | .sar i _ _ _ => some i
  | .minS i _ _ _ => some i
  | .maxS i _ _ _ => some i
  | .mul i _ _ _ => some i
  | .mulh i _ _ _ => some i
  | .fmul i _ _ _ => some i
  | .fadd i _ _ _ => some i
  | .fsub i _ _ _ => some i
  | .addi i _ _ _ => some i
  | .andi i _ _ _ => some i
  | .ori i _ _ _ => some i
  | .xori i _ _ _ => some i
  | .shli i _ _ _ => some i
  | .shri i _ _ _ => some i
  | .sari i _ _ _ => some i
  | .muli i _ _ _ => some i
  | .li i _ _ => some i
  | .lih i _ _ => some i
  | .mov i _ _ => some i
  | .clz i _ _ => some i
  | .popc i _ _ => some i
  | .cmpeq i _ _ _ => some i
  | .cmpne i _ _ _ => some i
  | .cmplt i _ _ _ => some i
  | .cmpltu i _ _ _ => some i
  | .cmple i _ _ _ => some i
  | .cmpleu i _ _ _ => some i
  | .cmpeqi i _ _ _ => some i
  | .cmpnei i _ _ _ => some i
  | .cmplti i _ _ _ => some i
  | .cmpltui i _ _ _ => some i
  | .cmplei i _ _ _ => some i
  | .cmpleui i _ _ _ => some i
  | .pand i _ _ _ => some i
  | .por i _ _ _ => some i
  | .pxor i _ _ _ => some i
  | .pnot i _ _ => some i
  | .br i _ => some i
  | .brl i _ _ => some i
  | .jr i _ _ => some i
  | .loop i _ _ _ => some i
  | .loopt i _ _ _ => some i
  | .endT i => some i
  | .vadd i _ _ _ _ => some i
  | .vsub i _ _ _ _ => some i
  | .vmul i _ _ _ _ => some i
  | .vfma i _ _ _ _ => some i
  | .vmax i _ _ _ _ => some i
  | .vmin i _ _ _ _ => some i
  | .vand i _ _ _ _ => some i
  | .vor i _ _ _ _ => some i
  | .vxor i _ _ _ _ => some i
  | .vshl i _ _ _ _ => some i
  | .vshr i _ _ _ _ => some i
  | .vcmplt i _ _ _ _ => some i
  | .vcmpeq i _ _ _ _ => some i
  | .vsel i _ _ _ _ => some i
  | .vexp2 i _ _ _ => some i
  | .vlog2 i _ _ _ => some i
  | .vrcp i _ _ _ => some i
  | .vrsqrt i _ _ _ => some i
  | .vtanh i _ _ _ => some i
  | .vsigm i _ _ _ => some i
  | .vcvt i _ _ _ _ => some i
  | .vbcast i _ _ _ => some i
  | .vextr i _ _ _ _ => some i
  | .vperm i _ _ _ _ => some i
  | .vredsum i _ _ _ => some i
  | .vredmax i _ _ _ => some i
  | .vrand i _ => some i
  | .vtopk i _ _ _ _ => some i
  | .vsample i _ _ _ _ => some i
  | .gate i _ _ _ _ => some i
  | .tcfg i _ _ => some i
  | .tfree i _ => some i
  | .tld i _ _ _ => some i
  | .tldc i _ _ _ => some i
  | .tst i _ _ _ => some i
  | .mma i _ _ _ => some i
  | .mmaz i _ _ _ => some i
  | .savetiles i _ _ => some i
  | .resttiles i _ _ => some i
  | .trdv i _ _ _ => some i
  | .twrv i _ _ _ => some i
  | .ld8 i _ _ _ => some i
  | .ld16 i _ _ _ => some i
  | .ld32 i _ _ _ => some i
  | .ld64 i _ _ _ => some i
  | .lds8 i _ _ _ => some i
  | .lds16 i _ _ _ => some i
  | .lds32 i _ _ _ => some i
  | .ldv i _ _ _ => some i
  | .st8 i _ _ _ => some i
  | .st16 i _ _ _ => some i
  | .st32 i _ _ _ => some i
  | .st64 i _ _ _ => some i
  | .stv i _ _ _ => some i
  | .rst i _ _ _ => some i
  | .cst i _ _ _ => some i
  | .aadd i _ _ _ => some i
  | .amin i _ _ _ => some i
  | .amax i _ _ _ => some i
  | .aswap i _ _ _ => some i
  | .rsend i _ _ => some i
  | .rsendt i _ => some i
  | .rrd i _ _ _ => some i
  | .route i _ _ _ => some i
  | .fill i _ _ _ => some i
  | .copy i _ _ _ => some i
  | .inp i _ _ => some i
  | .outp i _ _ => some i
  | .iload i _ _ _ => some i
  | .iverify i _ _ => some i
  | .wait i _ _ => some i
  | .msync i _ _ => some i
  | .dsync i _ => some i
  | .bar i _ => some i
  | .reservedOpcode i _ => some i
  | _ => none

/-- Everything that is wrong with a command, as far as its own fields say. -/
def check (i : Instr) : Option IllFormed :=
  match siteOf i with
  | some s =>
    match i with
    | .reservedOpcode _ opc => if (Machine.opSig opc.toNat).isSome then some .listedOpcode else coreOk s.core
    | _ => coreOk s.core
  | none =>
    match i with
    | .undecodable c _ bs =>
      let sc := Machine.scanBytes 17 bs [] 0 false false
      if sc.opcode && decide (sc.count ≤ 15) then some .decodable else coreOk c
    | .meOpStart c => coreOk c
    | .mmaStep c => coreOk c
    | .mmaStepCheck c _ => coreOk c
    | .lsOpComplete c => coreOk c
    | .latentCheckerTest c _ _ => coreOk c
    | .asyncFaultDelivery c _ _ => coreOk c
    | .fcOpComplete c => coreOk c
    | .waitTimeout c _ _ => coreOk c
    | .thrStart c _ _ => coreOk c
    | .thrPark c _ => coreOk c
    | .thrUnpark c _ => coreOk c
    | .thrStop c _ => coreOk c
    | .coreQcfgWrite c _ => coreOk c
    | .thrWaittoWrite c _ _ => coreOk c
    | .thrRngWrite c _ _ _ => coreOk c
    | .dmaStart c _ _ => coreOk c
    | .dmaStop c _ => coreOk c
    | .dmaResume c _ => coreOk c
    | .dmaAbort c _ => coreOk c
    | .dmaPacket c _ _ => coreOk c
    | .dmaPacketError c _ => coreOk c
    | .dmaDescriptorComplete c _ => coreOk c
    | .dmaStopDrained c _ => coreOk c
    | .meshFlitForward c _ _ => coreOk c
    | .flitCrcFail c _ => coreOk c
    | .bridgeSpareSwitch c _ => coreOk c
    | .ringCtlWrite c _ _ => coreOk c
    | .chanBindWrite c _ _ => coreOk c
    | .routeCapWrite c _ _ => coreOk c
    | .barThrmaskWrite c _ _ => coreOk c
    | .barrierArrival c _ => coreOk c
    | .lostAnswerTimeout c _ _ => coreOk c
    | .routerSilentTimeout c _ => coreOk c
    | .engineWatchdog c _ => coreOk c
    | .spareSubstitution c _ => coreOk c
    | .spareSubstitutionComplete c _ => coreOk c
    | .alarmFire c _ _ => coreOk c
    | .fenceNotice _ c => coreOk c
    | .registerWrite r _ => regOk r
    | .intLogclr m | .writeRaw m | .readRaw m | .rawAccessComplete m | .scrubRead m _ | .eccWriteback m _ | .intRemapWrite m _ _ => memOk m
    | .barrierRelease p _ | .commandEnd p _ | .realignment p _ | .castComplete p _ | .cmdLimitExpiry p _ | .drain p | .drainComplete p
    | .restore p | .stepCancel p _ _ => placeOk p
    | .sqTailDoorbell f _ _ | .cqHeadDoorbell f _ _ | .hstAqenWrite f _ | .ideTlpReceive f _ _ _ | .flr f | .ideKmKeyProgramming f _ _ => fnOk f
    | .bar4Read f _ n => (fnOk f).or (lenOk n.toNat)
    | .bar4Write f _ bs => (fnOk f).or (lenOk bs.length)
    | .submit h => fnOk h.q.fn
    | .cancel h => fnOk h.q.fn
    | .hold h => fnOk h.q.fn
    | .release h => fnOk h.q.fn
    | .readCtx h => fnOk h.q.fn
    | .run h => fnOk h.q.fn
    | .castCmd h => fnOk h.q.fn
    | .readCast h => fnOk h.q.fn
    | .createQp h => fnOk h.q.fn
    | .deleteQp h => fnOk h.q.fn
    | .cfgWrite h => fnOk h.q.fn
    | .cfgRead h => fnOk h.q.fn
    | .slotLoad h => fnOk h.q.fn
    | .slotUnload h => fnOk h.q.fn
    | .placeCreate h => fnOk h.q.fn
    | .placeDestroy h => fnOk h.q.fn
    | .zeroRange h => fnOk h.q.fn
    | .msixCoalesceTimer q _ => fnOk q.fn
    | .powerEvaluation _ tj _ => dieListOk tj.length
    | .telemetryRefresh t _ => (dieListOk t.cd.length).or (dieListOk t.tj.length)
    | _ => none

/-- A command that can be sent. -/
def ok (i : Instr) : Bool := (check i).isNone

end Sys2Proof.WellFormed
end

