-- ==== Sys2Proof/Safety.lean ====
section
/-! DEFINITION. The terms the statements are made in: what an instruction's bytes are, when it issues and runs, and what it then leaves. -/

namespace Sys2Proof.Safety

open Sys2Proof.Machine

/-! ## An instruction as its bytes -/

/-- What an instruction's bytes hold: where it issues, its opcode, its register and type bytes, and its immediate (R112, R121). -/
structure Layout where
  i   : Site
  op  : Nat
  ops : List Byte
  imm : W32
deriving DecidableEq, Repr

/-- The bytes of every core instruction, from the opcode tables (R123, R124, R126, R130, R131, R133, R136); none for the commands that
are no instruction. -/
def layout (c : Instr) : Option Layout :=
  match c with
  | .nop i => some ⟨i, 0x00, [], 0⟩
  | .add i o1 o2 o3 => some ⟨i, 0x01, [o1, o2, o3], 0⟩
  | .sub i o1 o2 o3 => some ⟨i, 0x02, [o1, o2, o3], 0⟩
  | .andR i o1 o2 o3 => some ⟨i, 0x03, [o1, o2, o3], 0⟩
  | .orR i o1 o2 o3 => some ⟨i, 0x04, [o1, o2, o3], 0⟩
  | .xorR i o1 o2 o3 => some ⟨i, 0x05, [o1, o2, o3], 0⟩
  | .shl i o1 o2 o3 => some ⟨i, 0x06, [o1, o2, o3], 0⟩
  | .shr i o1 o2 o3 => some ⟨i, 0x07, [o1, o2, o3], 0⟩
  | .sar i o1 o2 o3 => some ⟨i, 0x08, [o1, o2, o3], 0⟩
  | .minS i o1 o2 o3 => some ⟨i, 0x09, [o1, o2, o3], 0⟩
  | .maxS i o1 o2 o3 => some ⟨i, 0x0A, [o1, o2, o3], 0⟩
  | .mul i o1 o2 o3 => some ⟨i, 0x0B, [o1, o2, o3], 0⟩
  | .mulh i o1 o2 o3 => some ⟨i, 0x0C, [o1, o2, o3], 0⟩
  | .fmul i o1 o2 o3 => some ⟨i, 0x0D, [o1, o2, o3], 0⟩
  | .fadd i o1 o2 o3 => some ⟨i, 0x0E, [o1, o2, o3], 0⟩
  | .fsub i o1 o2 o3 => some ⟨i, 0x0F, [o1, o2, o3], 0⟩
  | .addi i o1 o2 imm => some ⟨i, 0x10, [o1, o2], imm⟩
  | .andi i o1 o2 imm => some ⟨i, 0x11, [o1, o2], imm⟩
  | .ori i o1 o2 imm => some ⟨i, 0x12, [o1, o2], imm⟩
  | .xori i o1 o2 imm => some ⟨i, 0x13, [o1, o2], imm⟩
  | .shli i o1 o2 imm => some ⟨i, 0x14, [o1, o2], imm⟩
  | .shri i o1 o2 imm => some ⟨i, 0x15, [o1, o2], imm⟩
  | .sari i o1 o2 imm => some ⟨i, 0x16, [o1, o2], imm⟩
  | .muli i o1 o2 imm => some ⟨i, 0x17, [o1, o2], imm⟩
  | .li i o1 imm => some ⟨i, 0x18, [o1], imm⟩
  | .lih i o1 imm => some ⟨i, 0x19, [o1], imm⟩
  | .mov i o1 o2 => some ⟨i, 0x1A, [o1, o2], 0⟩
  | .clz i o1 o2 => some ⟨i, 0x1B, [o1, o2], 0⟩
  | .popc i o1 o2 => some ⟨i, 0x1C, [o1, o2], 0⟩
  | .cmpeq i o1 o2 o3 => some ⟨i, 0x20, [o1, o2, o3], 0⟩
  | .cmpne i o1 o2 o3 => some ⟨i, 0x21, [o1, o2, o3], 0⟩
  | .cmplt i o1 o2 o3 => some ⟨i, 0x22, [o1, o2, o3], 0⟩
  | .cmpltu i o1 o2 o3 => some ⟨i, 0x23, [o1, o2, o3], 0⟩
  | .cmple i o1 o2 o3 => some ⟨i, 0x24, [o1, o2, o3], 0⟩
  | .cmpleu i o1 o2 o3 => some ⟨i, 0x25, [o1, o2, o3], 0⟩
  | .cmpeqi i o1 o2 imm => some ⟨i, 0x28, [o1, o2], imm⟩
  | .cmpnei i o1 o2 imm => some ⟨i, 0x29, [o1, o2], imm⟩
  | .cmplti i o1 o2 imm => some ⟨i, 0x2A, [o1, o2], imm⟩
  | .cmpltui i o1 o2 imm => some ⟨i, 0x2B, [o1, o2], imm⟩
  | .cmplei i o1 o2 imm => some ⟨i, 0x2C, [o1, o2], imm⟩
  | .cmpleui i o1 o2 imm => some ⟨i, 0x2D, [o1, o2], imm⟩
  | .pand i o1 o2 o3 => some ⟨i, 0x30, [o1, o2, o3], 0⟩
  | .por i o1 o2 o3 => some ⟨i, 0x31, [o1, o2, o3], 0⟩
  | .pxor i o1 o2 o3 => some ⟨i, 0x32, [o1, o2, o3], 0⟩
  | .pnot i o1 o2 => some ⟨i, 0x33, [o1, o2], 0⟩
  | .br i imm => some ⟨i, 0xD0, [], imm⟩
  | .brl i o1 imm => some ⟨i, 0xD1, [o1], imm⟩
  | .jr i o1 imm => some ⟨i, 0xD2, [o1], imm⟩
  | .loop i o1 o2 imm => some ⟨i, 0xD3, [o1, o2], imm⟩
  | .loopt i o1 o2 imm => some ⟨i, 0xD4, [o1, o2], imm⟩
  | .endT i => some ⟨i, 0xD5, [], 0⟩
  | .vadd i ty o1 o2 o3 => some ⟨i, 0x40, [ty, o1, o2, o3], 0⟩
  | .vsub i ty o1 o2 o3 => some ⟨i, 0x41, [ty, o1, o2, o3], 0⟩
  | .vmul i ty o1 o2 o3 => some ⟨i, 0x42, [ty, o1, o2, o3], 0⟩
  | .vfma i ty o1 o2 o3 => some ⟨i, 0x43, [ty, o1, o2, o3], 0⟩
  | .vmax i ty o1 o2 o3 => some ⟨i, 0x44, [ty, o1, o2, o3], 0⟩
  | .vmin i ty o1 o2 o3 => some ⟨i, 0x45, [ty, o1, o2, o3], 0⟩
  | .vand i ty o1 o2 o3 => some ⟨i, 0x46, [ty, o1, o2, o3], 0⟩
  | .vor i ty o1 o2 o3 => some ⟨i, 0x47, [ty, o1, o2, o3], 0⟩
  | .vxor i ty o1 o2 o3 => some ⟨i, 0x48, [ty, o1, o2, o3], 0⟩
  | .vshl i ty o1 o2 o3 => some ⟨i, 0x49, [ty, o1, o2, o3], 0⟩
  | .vshr i ty o1 o2 o3 => some ⟨i, 0x4A, [ty, o1, o2, o3], 0⟩
  | .vcmplt i ty o1 o2 o3 => some ⟨i, 0x4B, [ty, o1, o2, o3], 0⟩
  | .vcmpeq i ty o1 o2 o3 => some ⟨i, 0x4C, [ty, o1, o2, o3], 0⟩
  | .vsel i ty o1 o2 o3 => some ⟨i, 0x4D, [ty, o1, o2, o3], 0⟩
  | .vexp2 i ty o1 o2 => some ⟨i, 0x50, [ty, o1, o2], 0⟩
  | .vlog2 i ty o1 o2 => some ⟨i, 0x51, [ty, o1, o2], 0⟩
  | .vrcp i ty o1 o2 => some ⟨i, 0x52, [ty, o1, o2], 0⟩
  | .vrsqrt i ty o1 o2 => some ⟨i, 0x53, [ty, o1, o2], 0⟩
  | .vtanh i ty o1 o2 => some ⟨i, 0x54, [ty, o1, o2], 0⟩
  | .vsigm i ty o1 o2 => some ⟨i, 0x55, [ty, o1, o2], 0⟩
  | .vcvt i ty o1 o2 imm8 => some ⟨i, 0x58, [ty, o1, o2, imm8], 0⟩
  | .vbcast i ty o1 o2 => some ⟨i, 0x59, [ty, o1, o2], 0⟩
  | .vextr i ty o1 o2 imm8 => some ⟨i, 0x5A, [ty, o1, o2, imm8], 0⟩
  | .vperm i ty o1 o2 o3 => some ⟨i, 0x5B, [ty, o1, o2, o3], 0⟩
  | .vredsum i ty o1 o2 => some ⟨i, 0x5C, [ty, o1, o2], 0⟩
  | .vredmax i ty o1 o2 => some ⟨i, 0x5D, [ty, o1, o2], 0⟩
  | .vrand i o1 => some ⟨i, 0x5E, [o1], 0⟩
  | .vtopk i ty o1 o2 imm8 => some ⟨i, 0x60, [ty, o1, o2, imm8], 0⟩
  | .vsample i ty o1 o2 o3 => some ⟨i, 0x61, [ty, o1, o2, o3], 0⟩
  | .gate i ty o1 o2 imm8 => some ⟨i, 0x62, [ty, o1, o2, imm8], 0⟩
  | .tcfg i o1 o2 => some ⟨i, 0x80, [o1, o2], 0⟩
  | .tfree i imm => some ⟨i, 0x81, [], imm⟩
  | .tld i o1 o2 imm => some ⟨i, 0x82, [o1, o2], imm⟩
  | .tldc i o1 o2 o3 => some ⟨i, 0x83, [o1, o2, o3], 0⟩
  | .tst i o1 o2 imm => some ⟨i, 0x84, [o1, o2], imm⟩
  | .mma i o1 o2 o3 => some ⟨i, 0x85, [o1, o2, o3], 0⟩
  | .mmaz i o1 o2 o3 => some ⟨i, 0x86, [o1, o2, o3], 0⟩
  | .savetiles i o1 imm => some ⟨i, 0x87, [o1], imm⟩
  | .resttiles i o1 imm => some ⟨i, 0x88, [o1], imm⟩
  | .trdv i o1 o2 imm => some ⟨i, 0x89, [o1, o2], imm⟩
  | .twrv i o1 o2 imm => some ⟨i, 0x8A, [o1, o2], imm⟩
  | .ld8 i o1 o2 imm => some ⟨i, 0xA0, [o1, o2], imm⟩
  | .ld16 i o1 o2 imm => some ⟨i, 0xA1, [o1, o2], imm⟩
  | .ld32 i o1 o2 imm => some ⟨i, 0xA2, [o1, o2], imm⟩
  | .ld64 i o1 o2 imm => some ⟨i, 0xA3, [o1, o2], imm⟩
  | .lds8 i o1 o2 imm => some ⟨i, 0xA4, [o1, o2], imm⟩
  | .lds16 i o1 o2 imm => some ⟨i, 0xA5, [o1, o2], imm⟩
  | .lds32 i o1 o2 imm => some ⟨i, 0xA6, [o1, o2], imm⟩
  | .ldv i o1 o2 imm => some ⟨i, 0xA7, [o1, o2], imm⟩
  | .st8 i o1 o2 imm => some ⟨i, 0xA8, [o1, o2], imm⟩
  | .st16 i o1 o2 imm => some ⟨i, 0xA9, [o1, o2], imm⟩
  | .st32 i o1 o2 imm => some ⟨i, 0xAA, [o1, o2], imm⟩
  | .st64 i o1 o2 imm => some ⟨i, 0xAB, [o1, o2], imm⟩
  | .stv i o1 o2 imm => some ⟨i, 0xAC, [o1, o2], imm⟩
  | .rst i o1 o2 imm => some ⟨i, 0xB0, [o1, o2], imm⟩
  | .cst i o1 o2 o3 => some ⟨i, 0xB1, [o1, o2, o3], 0⟩
  | .aadd i o1 o2 o3 => some ⟨i, 0xB2, [o1, o2, o3], 0⟩
  | .amin i o1 o2 o3 => some ⟨i, 0xB3, [o1, o2, o3], 0⟩
  | .amax i o1 o2 o3 => some ⟨i, 0xB4, [o1, o2, o3], 0⟩
  | .aswap i o1 o2 o3 => some ⟨i, 0xB5, [o1, o2, o3], 0⟩
  | .rsend i o1 imm => some ⟨i, 0xB8, [o1], imm⟩
  | .rsendt i imm => some ⟨i, 0xB9, [], imm⟩
  | .rrd i o1 o2 imm => some ⟨i, 0xBA, [o1, o2], imm⟩
  | .route i o1 o2 o3 => some ⟨i, 0xBB, [o1, o2, o3], 0⟩
  | .fill i o1 o2 o3 => some ⟨i, 0xBC, [o1, o2, o3], 0⟩
  | .copy i o1 o2 o3 => some ⟨i, 0xBD, [o1, o2, o3], 0⟩
  | .inp i o1 imm => some ⟨i, 0xC0, [o1], imm⟩
  | .outp i o1 imm => some ⟨i, 0xC1, [o1], imm⟩
  | .iload i o1 o2 o3 => some ⟨i, 0xD8, [o1, o2, o3], 0⟩
  | .iverify i o1 o2 => some ⟨i, 0xD9, [o1, o2], 0⟩
  | .wait i o1 imm => some ⟨i, 0xDC, [o1], imm⟩
  | .msync i o1 imm => some ⟨i, 0xDD, [o1], imm⟩
  | .dsync i o1 => some ⟨i, 0xDE, [o1], 0⟩
  | .bar i imm => some ⟨i, 0xDF, [], imm⟩
  | .reservedOpcode i opc => if (opSig opc.toNat).isSome then none else some ⟨i, opc.toNat, [], 0⟩
  | _ => none

/-- The thread that an instruction issues on. -/
def Layout.th (l : Layout) (s : State) : Thread := s.thread l.i.core l.i.thr
/-- Bytes of an instruction (R112); those of a reserved opcode end with it. -/
def Layout.len (l : Layout) : Nat := match opSig l.op with | some (f, _) => insnLen l.i.px f | none => (l.i.px.map prefixLen).sum + 1

/-- The thread can issue: the core exists, the dies are clocked, the thread is RUNNING or WAITING (R74, R100), and no asynchronous fault stands that
it takes first (R223). -/
def CanIssue (s : State) (l : Layout) : Prop :=
  isCore l.i.core = true ∧ s.clocked = true ∧ ((l.th s).st = .running ∨ (l.th s).st = .waiting) ∧ (l.th s).asyncDue = false

/-- The instruction's slot grants its thread: no other thread that is ready for the slot stands nearer to the slot's pointer (R73, R75). -/
def Granted (s : State) (l : Layout) : Prop := slotGrants s l.i.core l.i.thr (issueSlot (l.th s) l.i.px l.op) = true

/-- The instruction's bytes stand in the instruction store (R93). -/
def InStore (s : State) (l : Layout) : Prop := (l.th s).past = false ∧ (l.th s).pc.toNat + l.len ≤ 0x10000

/-- Every word of the instruction's bytes can be read (R342). -/
def FetchClean (s : State) (l : Layout) : Prop := (fetchBytes s l.i.core (l.th s).pc.toNat l.len).1 = false

/-- What the instruction sees at issue, the reads of its bytes counted. -/
def fetched (s : State) (l : Layout) : Iss :=
  { issCtx s l.i l.op l.imm with s := (fetchBytes s l.i.core (l.th s).pc.toNat l.len).2 }

/-- The instruction issues: it decodes, its bytes are read, and nothing of R110 is raised for its encoding. -/
def Issues (s : State) (l : Layout) : Prop :=
  CanIssue s l ∧ InStore s l ∧ FetchClean s l ∧ encFaults l.op l.i.px l.ops l.imm = []

/-- It issues, its guard lets it take effect (R115), and its unit's queue, if it has one, is not full (R173, R226). -/
def Meets (s : State) (l : Layout) : Prop :=
  Issues s l ∧ guardHolds (l.th s) l.i.px = true ∧ queueFull (s.core l.i.core) l.op = false

/-- It takes effect, and its slot grants the thread. -/
def Runs (s : State) (l : Layout) : Prop := Meets s l ∧ Granted s l

/-- Scalar sources can be read and scalar destinations taken: each port named is enabled for the thread, each source port's head has
entered, and each destination port has a free entry (R84, R85). -/
def OperandsReady (k : Core) (t : BitVec 2) (dsts srcs : List Byte) : Prop :=
  dsts.flatMap (dstFaults k t) = [] ∧ srcFaults k t srcs = [] ∧ srcWait k srcs = none ∧ dsts.findSome? (dstWait k) = none

/-- The value of a scalar source of an instruction at issue (R118). -/
def Layout.src (l : Layout) (s : State) (b : Byte) : W64 := srcVal (s.core l.i.core) l.i.thr b

/-- The core after the sources have been read: each source port gives up its head (R85). -/
def sourced (x : Iss) (srcs : List Byte) : Core := popPorts x.k srcs

/-- The state after an instruction with scalar sources `srcs` and one scalar destination `d`, which receives `v` `lat` ticks after
issue (R77, R85). -/
def scalarDone (x : Iss) (sl : Slot4) (lat : Nat) (d : Byte) (srcs : List Byte) (v : W64) (sovf : Bool := false) : State :=
  let (k, dst) := takeDst (sourced x srcs) d
  finishIssue (x.s.setCore x.c k) x sl [{ lat := lat, dst := dst, val := v.zeroExtend 512, sovf := sovf }] none

/-- An instruction of two scalar sources and one scalar destination gives `f` of its sources, `lat` ticks after issue. -/
def GivesOfTwo (mk : Site → Byte → Byte → Byte → Instr) (op lat : Nat) (f : W64 → W64 → W64) : Prop :=
  ∀ (s : State) (i : Site) (o1 o2 o3 : Byte), let l : Layout := ⟨i, op, [o1, o2, o3], 0⟩
    Runs s l → OperandsReady (s.core i.core) i.thr [o1] [o2, o3] →
    exec (mk i o1 o2 o3) s = .next (scalarDone (fetched s l) .S lat o1 [o2, o3] (f (l.src s o2) (l.src s o3)))

/-- An instruction of one scalar source, an immediate and one scalar destination. -/
def GivesOfImm (mk : Site → Byte → Byte → W32 → Instr) (op lat : Nat) (f : W64 → W64 → W64) : Prop :=
  ∀ (s : State) (i : Site) (o1 o2 : Byte) (imm : W32), let l : Layout := ⟨i, op, [o1, o2], imm⟩
    Runs s l → OperandsReady (s.core i.core) i.thr [o1] [o2] →
    exec (mk i o1 o2 imm) s = .next (scalarDone (fetched s l) .S lat o1 [o2] (f (l.src s o2) (immVal i.px imm)))

/-- An instruction of one scalar source and one scalar destination. -/
def GivesOfOne (mk : Site → Byte → Byte → Instr) (op : Nat) (f : W64 → W64) : Prop :=
  ∀ (s : State) (i : Site) (o1 o2 : Byte), let l : Layout := ⟨i, op, [o1, o2], 0⟩
    Runs s l → OperandsReady (s.core i.core) i.thr [o1] [o2] →
    exec (mk i o1 o2) s = .next (scalarDone (fetched s l) .S 1 o1 [o2] (f (l.src s o2)))

/-- The write of a truth value to a predicate, visible at the next tick (R140). -/
def predWrite (o1 : Byte) (b : Bool) : Wr := { lat := 1, dst := .p (indexOf o1), val := if b then 1 else 0 }

/-- A predicate operation of two predicate sources. -/
def GivesPredicate (mk : Site → Byte → Byte → Byte → Instr) (op : Nat) (f : Bool → Bool → Bool) : Prop :=
  ∀ (s : State) (i : Site) (o1 o2 o3 : Byte), let l : Layout := ⟨i, op, [o1, o2, o3], 0⟩
    Runs s l → exec (mk i o1 o2 o3) s = .next (finishIssue (fetched s l).s (fetched s l) .S
      [predWrite o1 (f ((l.th s).readP (indexOf o2)) ((l.th s).readP (indexOf o3)))] none)

/-- A thread fault at issue: the slot's pointer moves, the thread enters FAULTED with `code` and `addr`, and the core reports it (R109). -/
def faultsWith (x : Iss) (sl : Slot4) (code : Nat) (addr : W64) : State :=
  takeFault (x.s.setCore x.c (movePtr (x.s.core x.c) sl x.t)) x.c x.t code x.pc addr

/-- A BUS_ERROR at issue: as `faultsWith`, but the reports of fresh uncorrectable errors met in the issue take the thread fault's code and stand for
its report, and an answer that was FENCED marks it (R426, R437). -/
def busFault (s : State) (l : Layout) (sl : Slot4) (addr : W64) : State :=
  let n := s.err.reports.length
  let f := stampUes (fetched s l).s n ((fetched s l).s.core l.i.core).place
  takeFault (f.setCore l.i.core (movePtr (f.core l.i.core) sl l.i.thr)) l.i.core l.i.thr 9 (l.th s).pc addr (issueCause (fetched s l).s n (l.th s))

/-- The rounding code and saturation of an instruction: its rounding prefix, else THR_ARITH (R56, R59). -/
def Layout.rnd (l : Layout) (s : State) : Nat × Bool :=
  match roundingOf l.i.px with
  | some b => (bits b 2 0, b.getLsbD 3)
  | none => (bits (l.th s).arith 2 0, (l.th s).arith.getLsbD 3)

/-- The exact value `v` with its `drop` low bits rounded away and the rest brought into 32 bits: the code, whether it overflowed, and the
RNG-S state after any draw (R48, R50, R52). -/
def f32Of (s : State) (l : Layout) (v : Int) (drop : Nat) : Int × Bool × W64 :=
  let (r, rng) := scaleRound (l.rnd s).1 (l.th s).rngS v (-(drop : Int))
  ((satWrap (l.rnd s).2 32 r).1, (satWrap (l.rnd s).2 32 r).2, rng)

/-- The F32 value of a scalar source (R125). -/
def Layout.f32 (l : Layout) (s : State) (b : Byte) : Int := ((l.src s b).truncate 32 : W32).toInt

/-- An F32 operation: its exact value loses `drop` bits to rounding, is saturated or wrapped, sets SOVF and draws from RNG-S where its rounding does. -/
def GivesFraction (mk : Site → Byte → Byte → Byte → Instr) (op lat : Nat) (f : Int → Int → Int) (drop : Nat) : Prop :=
  ∀ (s : State) (i : Site) (o1 o2 o3 : Byte), let l : Layout := ⟨i, op, [o1, o2, o3], 0⟩
    Runs s l → OperandsReady (s.core i.core) i.thr [o1] [o2, o3] →
    let r := f32Of s l (f (l.f32 s o2) (l.f32 s o3)) drop
    let kd := takeDst (sourced (fetched s l) [o2, o3]) o1
    exec (mk i o1 o2 o3) s = .next (finishIssue
      ((fetched s l).s.setCore i.core (kd.1.setThread i.thr { kd.1.thread i.thr with rngS := r.2.2 })) (fetched s l) .S
      [{ lat := lat, dst := kd.2, val := (BitVec.ofInt 64 r.1).zeroExtend 512, sovf := r.2.1 }] none)

/-- The thread with loop `l` started last; a loop on the same counter is replaced (R88, R128). -/
def withLoop (th : Thread) (l : Loop) : Thread := { th with loops := l :: th.loops.filter (fun o => o.lc ≠ l.lc) }

/-- Results held back stand in order of their completion ticks (R78, R79). -/
def PendSorted (ps : List Pend) : Prop := ps.Pairwise (fun a b => a.due.toNat ≤ b.due.toNat)

/-- A write as the thread holds it back from its issue on: due `lat` ticks later (R77). -/
def heldOf (x : Iss) (th : Thread) (w : Wr) : Pend :=
  { due := th.tick + BitVec.ofNat 64 w.lat, dst := w.dst, val := w.val, pc := x.pc, sovf := w.sovf, vovf := w.vovf, rng := x.th.rngS }

/-- The last of some results that names a destination. -/
def lastTo (ps : List Pend) (d : Dst) : Option Pend := (ps.filter (fun w => decide (w.dst = d))).getLast?

/-! ## Vectors -/

/-- Lane `j` of `b` bits of a vector register, as a number (R189). -/
def laneAt (b : Nat) (v : W512) (j : Nat) : Nat := v.toNat / 2 ^ (b * j) % 2 ^ b

/-- A lane as a two's-complement number of its type's width (R31). -/
def laneInt (ty x : Nat) : Int := (BitVec.ofNat (laneW ty) x).toInt

/-- A vector register that an operand names. -/
def Layout.v (l : Layout) (s : State) (b : Byte) : W512 := (l.th s).readV (indexOf b)

/-- The state after a vector instruction of slot V that writes `v` to O1, VOVF as `vovf`, and leaves RNG-S at `rng` (R54, R57, R58). -/
def vecDone (s : State) (l : Layout) (lat : Nat) (o1 : Byte) (v : W512) (vovf : Bool) (rng : W64) : State :=
  finishIssue ((fetched s l).s.setThread l.i.core l.i.thr { l.th s with rngS := rng }) (fetched s l) .V
    [{ lat := lat, dst := .v (indexOf o1), val := v, vovf := vovf }] none

/-- A lane-wise instruction of three registers that neither rounds nor sets a flag: lane j of O1 becomes `f` of the type and of lane j of O1, O2
and O3 as read at issue. -/
def GivesLanes (mk : Site → Byte → Byte → Byte → Byte → Instr) (op : Nat) (f : Nat → Nat → Nat → Nat → Nat) : Prop :=
  ∀ (s : State) (i : Site) (ty o1 o2 o3 : Byte), let l : Layout := ⟨i, op, [ty, o1, o2, o3], 0⟩
    Runs s l → ∃ r, exec (mk i ty o1 o2 o3) s = .next (vecDone s l 2 o1 r false (l.th s).rngS) ∧
      ∀ j, j < laneN (vty ty) → laneAt (laneW (vty ty)) r j =
        f (vty ty) (laneAt (laneW (vty ty)) (l.v s o1) j) (laneAt (laneW (vty ty)) (l.v s o2) j) (laneAt (laneW (vty ty)) (l.v s o3) j)

/-- Lanes computed from lane 0 upward, each from the generator state that the lane before left (R50): the lanes, whether any overflowed, and
the generator afterwards. -/
def LaneChain (n : Nat) (lane : Nat → W64 → Nat × Bool × W64) (rng : W64) (out : Nat → Nat) (ovf : Bool) (rng' : W64) : Prop :=
  ∃ g : Nat → W64, g 0 = rng ∧ g n = rng' ∧
    (∀ j, j < n → out j = (lane j (g j)).1 ∧ g (j + 1) = (lane j (g j)).2.2) ∧
    (ovf = true ↔ ∃ j, j < n ∧ (lane j (g j)).2.1 = true)

/-- A fraction lane: the exact value loses `drop` bits to the rounding mode and is brought into the lane's width (R46, R48, R52). -/
def fractionLane (md : Nat × Bool) (ty : Nat) (v : Int) (drop : Nat) (rng : W64) : Nat × Bool × W64 :=
  let (r, rng) := scaleRound md.1 rng v (-(drop : Int))
  ((BitVec.ofInt (laneW ty) (satWrap md.2 (laneW ty) r).1).toNat, (satWrap md.2 (laneW ty) r).2, rng)

/-- VADD, VSUB, VMUL and VFMA: integer lanes wrap without a flag or a draw, FP32 and BF16 lanes round the exact result once, fraction lanes
round, saturate and set VOVF. `fi` is the exact value over integers at the scale of a product when `drop` is not 0; `ff` over FP values. -/
def GivesArithmetic (mk : Site → Byte → Byte → Byte → Byte → Instr) (op lat : Nat) (fi : Int → Int → Int → Int) (ff : Fp → Fp → Fp → Fp)
    (fx : Nat → Int → Int → Int → Int) (drop : Nat → Nat) : Prop :=
  ∀ (s : State) (i : Site) (ty o1 o2 o3 : Byte), let l : Layout := ⟨i, op, [ty, o1, o2, o3], 0⟩
    let w := laneW (vty ty)
    let a := fun j => laneAt w (l.v s o2) j
    let b := fun j => laneAt w (l.v s o3) j
    let c := fun j => laneAt w (l.v s o1) j
    let t := vty ty
    Runs s l → ∃ r ovf rng, exec (mk i ty o1 o2 o3) s = .next (vecDone s l lat o1 r ovf rng) ∧
      (isFloat t = false → isFrac t = false → ovf = false ∧ rng = (l.th s).rngS ∧ ∀ j, j < laneN t →
        laneAt w r j = (BitVec.ofInt w (fi (laneInt t (a j)) (laneInt t (b j)) (laneInt t (c j)))).toNat) ∧
      (isFloat t = true → ovf = false ∧ rng = (l.th s).rngS ∧ ∀ j, j < laneN t →
        laneAt w r j = fpLane t (ff (laneFp t (a j)) (laneFp t (b j)) (laneFp t (c j)))) ∧
      (isFrac t = true → LaneChain (laneN t)
        (fun j => fractionLane (l.rnd s) t (fx (w - 1) (laneInt t (a j)) (laneInt t (b j)) (laneInt t (c j))) (drop (w - 1)))
        (l.th s).rngS (laneAt w r) ovf rng)

/-- A special function: every lane through one function of the lane and the type, the same on every core (R196). -/
def GivesSpecial (mk : Site → Byte → Byte → Byte → Instr) (op f : Nat) : Prop :=
  ∀ (s : State) (i : Site) (ty o1 o2 : Byte), let l : Layout := ⟨i, op, [ty, o1, o2], 0⟩
    Runs s l → ∃ r, exec (mk i ty o1 o2) s = .next (vecDone s l 8 o1 r false (l.th s).rngS) ∧
      ∀ j, j < laneN (vty ty) → laneAt (laneW (vty ty)) r j =
        (if vty ty = 0 then (sfuFp32 f (BitVec.ofNat 32 (laneAt 32 (l.v s o2) j))).toNat
         else (toBf16 (fp32 (sfuFp32 f ((BitVec.ofNat 16 (laneAt 16 (l.v s o2) j)).zeroExtend 32 <<< 16)))).toNat)

/-- Candidates of a selection: the lanes of `2 ^ h` registers from O2, numbered register offset × lanes + lane (R199). -/
def candidate (s : State) (l : Layout) (ty : Nat) (o2 : Byte) (j : Nat) : Fp :=
  laneFp ty (laneAt (laneW ty) ((l.th s).readV (indexOf o2 + j / laneN ty)) (j % laneN ty))

/-- `sel` is the selection of `k` among `n` candidates: distinct, in descending order with equal values by lower index, a NaN below −∞, and
nothing left out ranks above anything taken (R199). -/
def SelectsTop (n k : Nat) (cand : Nat → Fp) (sel : List Nat) : Prop :=
  sel.length = min k n ∧ (∀ j ∈ sel, j < n) ∧
  sel.Pairwise (fun a b => a ≠ b ∧ ranksAbove (cand b) (cand a) = false ∧ (ranksAbove (cand a) (cand b) = false → a < b)) ∧
  ∀ a b, a ∈ sel → b < n → b ∉ sel → ranksAbove (cand b) (cand a) = false ∧ (ranksAbove (cand a) (cand b) = false → a < b)

/-! ## The matrix engine -/

/-- An entry at the tail of the matrix queue, its rounding, saturation and generator sequence taken at issue (R51, R59, R173). -/
def queued (s : State) (l : Layout) (k : Core) (kind : MeKind) : Core :=
  { k with me := { k.me with
      queue := k.me.queue ++ [{ id := k.me.nextId, thr := l.i.thr, pc := (l.th s).pc, kind := kind, mode := BitVec.ofNat 3 (l.rnd s).1,
                                sat := (l.rnd s).2, epoch := (l.th s).rngEpoch, ord := (l.th s).issued,
                                reuse := BitVec.ofNat 4 (bits (stationarityOf l.i.px) 3 0) }],
      nextId := k.me.nextId + 1 } }

/-- The state after an M-slot instruction has entered the matrix queue of core state `k`. -/
def meDone (s : State) (l : Layout) (k : Core) (kind : MeKind) : State :=
  finishIssue ((fetched s l).s.setCore l.i.core (queued s l k kind)) (fetched s l) .M [] none

/-- The matrix engine that an instruction meets. -/
def Layout.me (l : Layout) (s : State) : Me := (s.core l.i.core).me

/-- An M-slot instruction runs: the matrix queue has a free entry (R173). -/
def RunsME (s : State) (l : Layout) : Prop := Runs s l ∧ (l.me s).queue.length < 8

/-- The thread owns a tile, as issue checks see it (R144, R155). -/
def Owns (s : State) (l : Layout) (n : Nat) : Prop := cfgOwner ((l.me s).tile n).cfg = l.i.thr.toNat

/-- The address of an M-slot or X-slot memory operand: g plus the sign-extended immediate (R133). -/
def Layout.addr (l : Layout) (s : State) (o : Byte) : W64 := (l.th s).readG (indexOf o) + immVal l.i.px l.imm

/-- TLD and TST: the tile is owned, the shape lies within its capacity, the address is aligned and every byte of the region and of its exponent
shadow lies in own local memory (R149, R155, R159). -/
def TransferOk (s : State) (l : Layout) (o1 o2 : Byte) : Prop :=
  let n := indexOf o1
  let w := ((l.me s).tile n).cfg
  let sh := transferShape l.i.px n w
  Owns s l n ∧ sh.1 ≤ 32 ∧ sh.2 ≤ colCap n w ∧
  (l.addr s o2).toNat % (if isAcc n = false ∧ fmtGroup (cfgFmt w) = true then 32 else 16) = 0 ∧
  tileAddrFault n w (l.addr s o2) sh.1 sh.2 = []

/-- The shape of an MMA: from the shape prefix, or from the rows of A and of B and the columns of A (R149, R150). -/
def mmaShape (s : State) (l : Layout) (a b : Nat) : Nat × Nat × Nat :=
  match shapeOf l.i.px with
  | some (m, n, k) => (bits m 6 0 + 1, bits n 6 0 + 1, bits k 6 0 + 1)
  | none => (cfgRows ((l.me s).tile a).cfg, cfgRows ((l.me s).tile b).cfg, cfgCols ((l.me s).tile a).cfg)

/-- MMA and MMAZ: every tile is owned, M, N and K lie within the tiles, B's logical columns match A's, PATTERN 1 has B compressed and both widths
equal, and PATTERN 0 has neither tile compressed (R149 to R152, R155). -/
def MmaOk (s : State) (l : Layout) (o1 o2 o3 : Byte) : Prop :=
  let a := indexOf o2
  let b := indexOf o3
  let ca := ((l.me s).tile a).cfg
  let cb := ((l.me s).tile b).cfg
  let pat := bits (sparsityOf l.i.px) 7 4 = 1
  let sh := mmaShape s l a b
  (Owns s l (indexOf o1) ∧ Owns s l a ∧ Owns s l b ∧ (pat → Owns s l (bits (sparsityOf l.i.px) 3 0))) ∧
  (pat → cfgCmp cb = true ∧ fmtW (cfgFmt ca) = fmtW (cfgFmt cb)) ∧ (¬ pat → cfgCmp ca = false ∧ cfgCmp cb = false) ∧
  (shapeOf l.i.px = none → cfgCols ca = (if cfgCmp cb then 2 * cfgCols cb else cfgCols cb)) ∧
  (shapeOf l.i.px ≠ none → sh.1 ≤ 32 ∧ sh.2.1 ≤ 32 ∧ sh.2.2 ≤ colCap a ca ∧
    (pat → sh.2.2 % 2 = 0 ∧ sh.2.2 / 2 ≤ colCap b cb) ∧ (¬ pat → sh.2.2 ≤ colCap b cb))

/-- The MMA of a layout's tiles, as it enters the queue. -/
def mmaKind (s : State) (l : Layout) (o1 o2 o3 : Byte) (zero : Bool) : MeKind :=
  let sh := mmaShape s l (indexOf o2) (indexOf o3)
  .mma (indexOf o1) (indexOf o2) (indexOf o3) sh.1 sh.2.1 sh.2.2 zero (bits (sparsityOf l.i.px) 7 4 == 1) (bits (sparsityOf l.i.px) 3 0)
    (BitVec.ofNat 2 (bits (stationarityOf l.i.px) 5 4))

/-- No raw parity stands on the tile file, and no remap entry serves a word of it (R342, R356). -/
def ParityClean (k : Core) : Prop := k.me.parity = [] ∧ (k.inst 2).remap = []

/-- The exact group sum of accumulator element (r, c): products of A row r and B row c over group `g` of the logical K, a dense product
(R41, R152). -/
def denseSum (m : Me) (d : MmaDims) (r c g : Nat) : Int :=
  ((List.range 32).map (fun k => if 32 * g + k < d.k then
    (m.tile d.a).elem (m.opW d.a) r (32 * g + k) * (m.tile d.b).elem (m.opW d.b) c (32 * g + k) else 0)).sum

/-! ## Memory -/

/-- The value that loaded bytes give: little-endian, zero- or sign-extended to the register (R9, R133). -/
def extendLoad (size : Nat) (signed : Bool) (bs : List Byte) : W512 :=
  if signed then ((BitVec.ofNat (8 * size) (leNat bs)).signExtend 64).zeroExtend 512 else BitVec.ofNat 512 (leNat bs)

/-- The loads: constructor, opcode, size in bytes, whether signed (R133). -/
def loads : List ((Site → Byte → Byte → W32 → Instr) × Nat × Nat × Bool) :=
  [(.ld8, 0xA0, 1, false), (.ld16, 0xA1, 2, false), (.ld32, 0xA2, 4, false), (.ld64, 0xA3, 8, false),
   (.lds8, 0xA4, 1, true), (.lds16, 0xA5, 2, true), (.lds32, 0xA6, 4, true), (.ldv, 0xA7, 64, false)]

/-- The stores of a general register: constructor, opcode, size in bytes (R133). -/
def stores : List ((Site → Byte → Byte → W32 → Instr) × Nat × Nat) :=
  [(.st8, 0xA8, 1), (.st16, 0xA9, 2), (.st32, 0xAA, 4), (.st64, 0xAB, 8)]

/-- The atomics: constructor, opcode, operation code in the request (R235). -/
def atomics : List ((Site → Byte → Byte → Byte → Instr) × Nat × Nat) :=
  [(.aadd, 0xB2, 0), (.amin, 0xB3, 1), (.amax, 0xB4, 2), (.aswap, 0xB5, 3)]

/-- The state after a store of `bs` at byte `a` of own local memory from core state `k`; a word that cannot be merged into is left and
reported to the thread (R222). -/
def storeDone (s : State) (l : Layout) (k : Core) (a : W64) (bs : List Byte) : State :=
  let r := lmWrite ((fetched s l).s.setCore l.i.core k) l.i.core a.toNat bs
  finishIssue (if r.1 = [] then r.2 else raiseUe r.2 (fetched s l).s.err.reports.length l.i.core l.i.thr (l.th s).pc a (l.th s).issued)
    (fetched s l) .X [] none

/-- An address that another unit serves and that the thread may reach: `d` is where its requests go (R94, R96, R256). -/
def FarOk (s : State) (l : Layout) (a : W64) (d : Dest) : Prop :=
  0x60000 ≤ a.toNat ∧ s.rangeFaults l.i.core (l.th s).priv a = [] ∧ s.destOf (s.classify a) = some d

/-- The state after a load's error: its destination stays, and the fault sets out, to be taken by the load's completion tick (R223). -/
def loadFailed (s : State) (l : Layout) (r : State) (a : W64) : State :=
  finishIssue (raiseUe r (fetched s l).s.err.reports.length l.i.core l.i.thr (l.th s).pc a (l.th s).issued (some ((l.th s).tick + 6)))
    (fetched s l) .X [] none

/-- `t` has sent one packet more than `s`, of class `cls`, from its core to `d`. -/
def Sent (s t : State) (c : CoreId) (d : Dest) (cls : Nat) (body : Body) (after : List (Nat × BitVec 4)) (free : Bool) : Prop :=
  t.net = s.net ++ [{ id := s.pktCtr, cls := cls, src := c, dst := d, at_ := c, inp := .loc, body := body, free := free, after := after }]

/-- A request is open in a slot of its core under `tag` (R431). -/
def OpenSlot (s t : State) (l : Layout) (a : W64) (d : Dest) (kind : SlotKind) (tag : ReqTag) : Prop :=
  tag.core = l.i.core ∧ ∃ r, matchSlot t tag = some r ∧ r.kind = kind ∧ r.thr = l.i.thr ∧ r.pc = (l.th s).pc ∧ r.addr = a ∧
    r.unit = destUnit d ∧ r.sent = s.time

/-- A blocking access has sent its request and its thread waits for the answer (R80, R82). -/
def Blocked (s t : State) (l : Layout) (a : W64) (d : Dest) (kind : SlotKind) (body : ReqTag → Body) : Prop :=
  ∃ tag w, Sent s t l.i.core d 0 (body tag) [] true ∧ OpenSlot s t l a d kind tag ∧ (t.thread l.i.core l.i.thr).st = .waiting ∧
    (t.thread l.i.core l.i.thr).wait = some w ∧ w.kind = 9 ∧ w.done = false ∧ w.slot = some (tag.slot, tag.epoch)

/-- The thread waits for a far access. -/
def AwaitsFar (s : State) (l : Layout) (w : Wait) : Prop := (l.th s).wait = some w ∧ w.kind = 9

/-- A posted write has left its thread: the packet is in the network, its slot is open, and the instruction is done (R82, R255). -/
def Posted (s t : State) (l : Layout) (a : W64) (d : Dest) (bs : List Byte) (cnt : Option (BitVec 5)) (after : List (Nat × BitVec 4)) : Prop :=
  ∃ tag t', t = finishIssue t' (fetched s l) .X [] none ∧ Sent s t l.i.core d 0 (.store tag a bs cnt) after true ∧ OpenSlot s t l a d .store tag

/-- No word of a memory is under test or remapped: every word reads as written (R342, R352, R357). -/
def CodeClean (m : EccMem) (i : Inst) : Prop := m.chk = [] ∧ i.remap = []

/-- The state after an operation has entered the FILL and COPY unit's queue; operations of length zero that are the oldest complete at once (R226). -/
def fcDone (s : State) (l : Layout) (k : Core) (kind : FcKind) : State :=
  finishIssue (fcSettle l.i.core (k.fcq ++ [{ thr := l.i.thr, pc := (l.th s).pc, kind := kind }]) ((fetched s l).s.setCore l.i.core k))
    (fetched s l) .X [] none

/-! ## Channels -/

/-- A packet has arrived at a core in service, addressed to it since it took its place, and is next of its class, source and destination (R253, R269,
R429). -/
def ArrivesAt (s : State) (pkt : Nat) (p : Packet) (c : CoreId) : Prop :=
  s.clocked = true ∧ arrived s pkt = some p ∧ p.dst = .core c ∧ s.turnsAway p = false

/-- The network of `t` is that of `s` without packet `pkt`, and with what follows. -/
def NetAfter (s t : State) (pkt : Nat) (more : List Packet) : Prop := t.net = s.net.filter (fun q => q.id ≠ pkt) ++ more

/-- A packet that core `c` sends on a class, ready to leave. -/
def packet (s : State) (cls : Nat) (c : CoreId) (d : Dest) (body : Body) : Packet :=
  { id := s.pktCtr, cls := cls, src := c, dst := d, at_ := c, inp := .loc, body := body }

/-- A message may be sent on a binding now: it is BOUND with credit, and the router accepts its packet (R255, R292). -/
def MaySend (s : State) (c : CoreId) (n : Nat) : Prop :=
  ((s.core c).bind n).state = 2 ∧ ((s.core c).bind n).credit ≠ 0 ∧ routerAccepts s c 2 1 = true

/-- The message has left: one channel-data packet, one credit less (R289, R292), and the instruction is done. A message that names a counter
waits for earlier writes of another class to the same core (R274). -/
def MessageLeft (s t : State) (l : Layout) (n : Nat) (isTok : Bool) (code : Byte) (len : Nat) (payload : W512) : Prop :=
  let b := (s.core l.i.core).bind n
  ∃ tag t', t = finishIssue t' (fetched s l) .X [] none ∧ (t'.core l.i.core).bind n = { b with credit := b.credit - 1 } ∧
    Sent s t' l.i.core (.core b.target) 2 (.msg tag b.ring isTok code len payload (if b.cntEn then some b.acnt else none) none)
      (if b.cntEn then earlierWrites s l.i.core b.target 2 false (byThread l.i.thr) else []) true ∧
    OpenSlot s t' l 0 (.core b.target) .send tag

/-- The instruction waits, or goes on waiting, on an object (R74, R305). -/
def waitsOn (s : State) (l : Layout) (kind index arg : Nat) : State :=
  enterWait (fetched s l).s l.i.core l.i.thr { kind := kind, index := index, arg := arg, begun := s.time }

/-- The tag entry and the payload of the oldest message of a ring, as local memory holds them (R285). -/
def ringTag (k : Core) (n : Nat) : W64 := BitVec.ofNat 64 (leNat (getBytes 0 k.lm.data ((k.ring n).tagAddr (k.ring n).rd) 8))
def ringPayload (k : Core) (n size : Nat) : W512 := BitVec.ofNat 512 (leNat (getBytes 0 k.lm.data ((k.ring n).slotAddr (k.ring n).rd) size))

/-- The core that an entry of an expert table names (R209). -/
def expertCore (k : Core) (ta : W64) (e : Nat) : CoreId := BitVec.ofNat 14 (leNat (getBytes 0 k.lm.data (ta.toNat + 16 + 8 * e) 8) % 2 ^ 14)

/-- Every word of a core's local memory reads as written. -/
def LmClean (s : State) (c : CoreId) : Prop := CodeClean (s.core c).lm ((s.core c).inst 0) ∧ tabWf 0 (s.core c).lm.data = true

/-! ## Registers, threads -/

/-- I/O addresses whose registers OUT cannot change: CORE_ID, CORE_THRSTAT, MX_WIDTH, the tile descriptors, THR_TICK, MX_STAT, the fault records, MX_FENCE,
MESH_CFG, ALIGN_STAT, TMR_TIME and TMR_FREQ, and the unassigned addresses above 0xC70 (R97, R98). -/
def readOnlyIo (a : Nat) : Bool :=
  a == 0x000 || a == 0x008 || a == 0x018 || (decide (0x040 ≤ a) && decide (a < 0x100)) || a == 0x120 || (decide (0x188 ≤ a) && decide (a < 0x1E0)) ||
  a == 0x990 || a == 0xA08 || a == 0xA18 || (decide (0xC70 ≤ a) && decide (a < 0xD00))

/-- A core of the clocked part. -/
def OnCore (s : State) (c : CoreId) : Prop := isCore c = true ∧ s.clocked = true

/-- What START leaves in a thread (R71, R106, R108). -/
def FreshThread (th old : Thread) (pc : W16) : Prop :=
  th.st = .running ∧ th.pc = pc ∧ th.tick = 0 ∧ (∀ n, th.readG n = 0) ∧ (∀ n, th.readV n = 0) ∧ (∀ n, th.readLc n = 0) ∧
  (∀ n, 0 < n → n < 8 → th.readP n = false) ∧ th.readP 0 = true ∧ th.loops = [] ∧ th.pend = [] ∧ th.wait = none ∧ th.dsync = [] ∧
  th.dsyncHeld = old.dsyncHeld ∧
  th.fault = 0 ∧ th.faddr = 0 ∧ th.priv = false ∧ th.waitTo = 2000 ∧ th.rngS ≠ 0 ∧ th.rngM ≠ 0 ∧ bits th.arith 2 0 = 0 ∧ th.arith.getLsbD 3 = true ∧
  th.arith.getLsbD 6 = old.arith.getLsbD 6 ∧ th.arith.getLsbD 7 = old.arith.getLsbD 7

/-- A thread as a fault leaves it: the first fault since the record was cleared is recorded (R105, R106). -/
def FaultedWith (th old : Thread) (code : Nat) (addr : W64) (async : Bool) : Prop :=
  th.st = .faulted ∧ th.wait = none ∧ th.claims = [] ∧ (bits old.fault 7 0 = 0 → bits th.fault 7 0 = code ∧ th.faddr = addr ∧ th.fault.getLsbD 9 = async) ∧
  (bits old.fault 7 0 ≠ 0 → th.fault = old.fault ||| 0x100 ∧ th.faddr = old.faddr)

/-! ## DMA, the mesh and memories -/

/-- The channel of a core. -/
abbrev chanAt (s : State) (c : CoreId) (n : BitVec 3) : Chan := (s.core c).chan n.toNat

/-- The records of a thread's DSYNC port, those that the engines hold behind it included, after one more (R138, R249). -/
def PostsRecord (s t : State) (c : CoreId) (x : Chan) (n : BitVec 3) (event status : Nat) : Prop :=
  (t.thread c x.evthr).records = (s.thread c x.evthr).records ++ [dsyncRec (min x.bytes.toNat 0xFFFFFFFF) n.toNat event status]

/-- A thread of a core has one record more to pop, and nothing else of it has changed (R138). -/
def Posts (k k' : Core) (t : BitVec 2) (r : W64) : Prop :=
  (k'.thread t).records = (k.thread t).records ++ [r] ∧
  k'.thread t = { k.thread t with dsync := (k'.thread t).dsync, dsyncHeld := (k'.thread t).dsyncHeld }

/-- No START of the core waits for its engines (R108). -/
def NoStartHeld (s : State) (c : CoreId) : Prop := ∀ t, (s.thread c t).startHeld = false

/-- Routers apart between two positions of the package (R20, R253). -/
def distance (a b : CoreId) : Nat := (coreX a - coreX b) + (coreX b - coreX a) + ((coreY a - coreY b) + (coreY b - coreY a))

/-- A request has arrived at a memory in service. -/
def AtMemory (s : State) (pkt : Nat) (p : Packet) : Prop := s.clocked = true ∧ arrived s pkt = some p ∧ s.turnsAway p = false

/-- Every word of a commons slice reads as written. -/
def SliceClean (s : State) (k : Nat) : Prop :=
  CodeClean (s.slice k) (s.sliceI k) ∧ tabWf 0 (s.slice k).data = true ∧ tabRising 0 s.commons = true ∧ tabRising 0 s.sliceInst = true

/-- A HBM unit reads as written: it lies in no part of the reserved range that the controllers or the Plinth keep, its channel has no remap entry, neither
poison nor a raw code stands on it or on the bitmap unit that covers its page, and its page is not lost (R333, R339, R342, R343, R356). -/
def UnitClean (s : State) (die off : Nat) : Prop :=
  let b := s.unitSlot die (s.hbmReserved + 64 * (off / 4096 / 512))
  s.bitmapAt off = none ∧ reservedOpen s die off = false ∧ tabGet false s.hbm.poison b = false ∧ tabLook s.hbm.raw b = none ∧
  tabLook s.hbm.lost (pageOf die off) = none ∧
  (s.hbmI (chanOf die off)).remap = [] ∧ (∀ e ∈ s.hbm.poison, e.1 ≠ unitOf die off) ∧ (∀ e ∈ s.hbm.raw, e.1 ≠ unitOf die off) ∧ tabWf 0 s.hbm.data = true

/-- The bytes that a unit holds (R334, R336): zeros in a page that nothing has written. -/
def unitBytes (s : State) (die off n : Nat) : List Byte :=
  if tabGet false s.hbm.pages (pageOf die off) = true then getBytes 0 s.hbm.data (hbmKey die off) n else List.replicate n 0

/-- A wait that a far answer has reached (R82). -/
def Answered (t : State) (c : CoreId) (thr : BitVec 2) (val : W512) (err : Bool) : Prop :=
  ∃ w, (t.thread c thr).wait = some w ∧ w.kind = 9 ∧ w.done = true ∧ w.err = err ∧ w.reply = val

/-! ## Integrity -/

/-- A memory instance that exists, with its registers (R346, R503). -/
def InstAt (s : State) (r : MemRef) (i : Inst) : Prop :=
  memRefOk r = true ∧ s.memInst r = some i ∧ tabRising 0 s.sliceInst = true ∧ tabRising 0 s.hbmInst = true

/-- The word of local memory that INT_TADDR names. -/
def testAddr (i : Inst) : Nat := bits i.taddr 47 3 * 8


/-! ## Host queues and entries -/

/-- A submission entry of the row, with what its opcode may use (R490, R491, R493, R495, R499). -/
def hostRow : Instr → Option (HostCmd × Uses)
  | .submit h => some (h, { flags := 7, sched := true, slot := true, contract := true, addr1 := true, len1 := true, out := true, lens := !h.e.flags.getLsbD 0, crypto := h.e.flags.getLsbD 0 })
  | .cancel h => some (h, { handle := true, sched := true })
  | .hold h => some (h, { handle := true, sched := true })
  | .release h => some (h, { handle := true, sched := true })
  | .readCtx h => some (h, { handle := true, addr1 := true, len1 := true })
  | .run h => some (h, { index := true, arg := true })
  | .castCmd h => some (h, { index := true })
  | .readCast h => some (h, { index := true, addr1 := true, len1 := true })
  | .cfgWrite h => some (h, { admin := true, index := true, flags := 8, arg := true, addr1 := true, len1 := true })
  | .cfgRead h => some (h, { admin := true, index := true, arg := true, addr1 := true, len1 := true })
  | .slotLoad h => some (h, { admin := true, index := true, addr1 := true, len1 := true, arg := true })
  | .slotUnload h => some (h, { admin := true, index := true, flags := 8 })
  | .placeCreate h => some (h, { admin := true, index := true })
  | .placeDestroy h => some (h, { admin := true, index := true })
  | .createQp h => some ({ h with data := some [] }, { admin := true, addr1 := true, len1 := true, out := true, arg := true })
  | .deleteQp h => some (h, { admin := true, index := true, flags := 8 })
  | .zeroRange h => some ({ h with data := some [] }, { admin := true, addr1 := true, len1 := true })
  | _ => none

/-- The Plinth has taken an entry: package time is the event's, and the ring's head has moved on. -/
def taken (s : State) (h : HostCmd) : State := consume (s.atTime h.now) h.q

/-- The command's entry acts: its queue pair exists and is of the row's kind, the part is ready, unused fields are zero, the bytes at ADDR1 have come, no
Plinth block that it needs is fenced, and neither the controllers nor the scheduler hardware make it wait (R425, R439, R440, R480, R489, R490). -/
def Acts (c : Instr) (h : HostCmd) (s : State) : Prop :=
  ∃ (g : HostCmd) (u : Uses), hostRow c = some (g, u) ∧ g.q = h.q ∧ g.e = h.e ∧ g.now = h.now ∧ (s.qp? h.q).isSome = true ∧ s.phase = .ready ∧
    u.admin = (h.q.q == 0) ∧ unusedZero u h.e = true ∧ (u.addr1 = true → g.data.isSome = true) ∧
    (u.admin = true → s.err.ctlRestart = false ∧ s.err.ctlStopped = false) ∧ (u.sched = true → s.err.schReload = false) ∧
    entryFenced (taken s h) h u = false

/-- Bytes of host memory as a number. -/
def hostNat (s : State) (a n : Nat) : Nat := leNat (getBytes 0 s.hostMem a n)

/-- Host memory outside a range is as before. -/
def HostKept (s t : State) (a n : Nat) : Prop := ∀ j, j < a ∨ a + n ≤ j → tabGet 0 t.hostMem j = tabGet 0 s.hostMem j

/-! ## Configuration and requests -/

/-- A value brought into a range (R500). -/
def inRange (lo hi v : Nat) : Nat := max lo (min v hi)

/-- A contract block's fields as R368 applies them, from the 58 B of a whole block: CLASS, SLOTS, RATE, BURST, CONC, KV_RESERVE up to the pages that the
pool has unreserved, the four targets, MAX_DEFER and DEFER_DEPTH. -/
def contractOf (bs : List Byte) (pages : Nat) : ContractCfg :=
  let cls := if field bs 16 1 ≤ 2 then field bs 16 1 else 2
  { cls := BitVec.ofNat 8 cls, slots := BitVec.ofNat 16 (field bs 18 2), rate := BitVec.ofNat 32 (inRange (if cls = 0 then 1 else 0) 0xFFFFFFFF (field bs 20 4))
    burst := BitVec.ofNat 32 (inRange 1 0x7FFFFFFF (field bs 24 4)), conc := BitVec.ofNat 32 (inRange 1 2097152 (field bs 28 4))
    kvReserve := BitVec.ofNat 32 (inRange 0 pages (field bs 32 4)), ttftP50 := BitVec.ofNat 32 (inRange 1 100000000 (field bs 36 4))
    ttftP99 := BitVec.ofNat 32 (inRange 1 100000000 (field bs 40 4)), itlP99 := BitVec.ofNat 32 (inRange 1 100000000 (field bs 44 4))
    itlP999 := BitVec.ofNat 32 (inRange 1 100000000 (field bs 48 4)), maxDefer := BitVec.ofNat 32 (inRange 0 10000000 (field bs 52 4))
    deferDepth := BitVec.ofNat 16 (field bs 56 2) }

/-- A request ended with its final state, status and reason, its pages dropped and its output written (R366, R475). -/
def Ended (t : State) (i : Nat) (st : RqSt) (status reason : Byte) : Prop :=
  (t.ctx i).st = st ∧ (t.ctx i).status = status ∧ (t.ctx i).reason = reason ∧ (t.ctx i).pages = [] ∧ (t.ctx i).unsealed = []

/-- The context that the handle of an entry names: of its GEN, not FREE, of the function's partition (R363). -/
def Names (s : State) (h : HostCmd) (i : Nat) : Prop :=
  i = bits h.e.handle 20 0 ∧ (s.ctx i).st ≠ .free ∧ (s.ctx i).gen.toNat = bits h.e.handle 31 21 ∧ partNo h.q.fn = some (s.ctx i).part.toNat

/-! ## Steps and placements -/

/-- No thread of a placement runs or waits. -/
def Quiet (t : State) (p : Place) : Prop := ∀ e ∈ p.cores, ∀ th, (t.thread e.core th).st ≠ .running ∧ (t.thread e.core th).st ≠ .waiting

/-- The cancelled command of a placement stands with its status until its packets are delivered, or has ended (R436). -/
def Cancelled (t : State) (key : Nat) (status : Byte) : Prop :=
  (∃ c, (t.place key).running = some c ∧ c.status = some status) ∨ (t.place key).running = none

/-- The order in which statuses of one attempt are chosen (R437). -/
def statusOrder : List Byte := [0x10, 0x07, 0x09, 0x0B, 0x0D, 0x0A]

/-- Nothing of a core differs from its baselines: no counter is compared, every enabled ring is empty with no promise, every bound credit is whole, no
barrier has an arrival and no port holds a value (R299). -/
def Aligned (s : State) (c : CoreId) : Prop :=
  (s.core c).sync.alignMask = 0 ∧ (∀ n, n < 64 → ((s.core c).ring n).en = true → ((s.core c).ring n).wr = ((s.core c).ring n).rd ∧ ((s.core c).ring n).promised = 0) ∧
  (∀ n, n < 64 → ((s.core c).bind n).state = 2 → ((s.core c).bind n).credit.toNat = ((s.core ((s.core c).bind n).target).ring ((s.core c).bind n).ring.toNat).cap) ∧
  (∀ n, n < 16 → ((s.core c).bar n).arrived = 0) ∧ (∀ n, n < 8 → (s.core c).port n = [])

/-- A placement that nothing holds up: no core of it is fenced, and no link on the way to one (R425, R492). -/
def Serving (s : State) (p : Place) : Prop :=
  p.cast = none ∧ p.draining = false ∧ p.drained = false ∧ p.loading = false ∧ p.failed = false ∧
  (∀ e ∈ p.cores, s.coreFenced e.core = false ∧ s.rowFenced (.core e.core) = false)

/-! ## Faults -/

/-- The latest fault record of a state, one more than `s` has written (R447, R448). -/
def Recorded (s t : State) (x : FRec) : Prop := t.err.flogWr = s.err.flogWr + 1 ∧ t.err.log.getLast? = some x

/-- A live request ended FAILED with CAPACITY_LOST (R445, R446). -/
def LostRequest (t : State) (i : Nat) : Prop := (t.ctx i).st = .failed ∧ (t.ctx i).status = 0x10

/-- Whether a requester is the management controller or a physical function (R481, R505). -/
def ControlsPackage (r : Requester) : Prop := r = .mgmt ∨ ∃ port, r = .host ⟨port, 0⟩

/-! ## Security, power, resets -/

/-- An SPDM request that the part answers without a random value (R464). -/
def spdmPlainRow (by_ : Requester) : Instr → Bool
  | .getVersion r => r == by_
  | .getCapabilities r => r == by_
  | .negotiateAlgorithms r => r == by_
  | .getDigests r => r == by_
  | .getCertificate r _ => r == by_
  | .finish r _ => r == by_
  | .endSession r => r == by_
  | .pqSign r _ => r == by_
  | _ => false

/-- An SPDM request whose answer draws from the DRBG (R461, R464). -/
def spdmDrawRow (by_ : Requester) : Instr → Bool
  | .challenge r _ => r == by_
  | .getMeasurements r _ _ => r == by_
  | .keyExchange r _ => r == by_
  | _ => false

/-- SPDM is up for a requester: boot stage 2 has been reached, and a host's function exists (R464, R514). -/
def SpdmUp (s : State) (r : Requester) : Prop := s.up = true ∧ 2 ≤ s.stage ∧ ∀ f, r = .host f → s.present f = true

/-- The twin controllers run (R439). -/
def ControllersRun (s : State) : Prop := s.err.ctlRestart = false ∧ s.err.ctlStopped = false

/-- The answer has left for its requester. -/
def Replied (s t : State) (r : Requester) : Prop := ∃ b, t.out = .reply r b :: s.out

/-- The part after full zeroisation (R457): no request lives, no partition exists, no HBM page is written and the fault log is empty. -/
def Zeroised (t : State) : Prop :=
  (∀ i, (t.ctx i).live = false) ∧ t.parts = [] ∧ (∀ d x, d < 8 → x < t.hbmSize → tabGet false t.hbm.pages (pageOf d x) = false) ∧ t.err.log = []

/-- Integrity instances of which nothing stands but remap entries. -/
def RemapsOnly (t : Tab Inst) : Prop := ∀ e ∈ t, e.2 = { remap := e.2.remap }

/-- The part as a reset of every domain but the always-on one leaves it (R355, R509, R511, R513): nothing of cores, memories, serving, queues, faults or
settings stands but remap entries and UEPOCH; a context that was used has the next GEN; the settings copies, flash and fuses are kept. -/
def AllReset (s t : State) : Prop :=
  (∀ e ∈ t.cores, e.2 = { insts := e.2.insts } ∧ RemapsOnly e.2.insts) ∧ RemapsOnly t.sliceInst ∧ RemapsOnly t.hbmInst ∧ t.net = [] ∧ t.commons = [] ∧ t.hbm = {} ∧
  t.writeQ = [] ∧ t.set = {} ∧ t.parts = [] ∧ t.places = [] ∧ t.slots = [] ∧ t.contracts = [] ∧ t.ctrEff = [] ∧
  t.qps = [] ∧ t.fns = [] ∧ t.err = { units := t.err.units, epochBase := t.err.epochBase } ∧ t.stage = 0 ∧ t.spares = [] ∧ t.cells = [] ∧
  t.bypass = s.bypass ∧ t.fuseSpares = s.fuseSpares ∧ t.fuseCells = s.fuseCells ∧
  t.sec.debug = false ∧ t.sec.alias_ = [] ∧ t.sec.lifecycle = s.sec.lifecycle ∧ t.sec.svn = s.sec.svn ∧
  t.sec.flash = s.sec.flash ∧ t.nv.copyA = s.nv.copyA ∧ t.nv.copyB = s.nv.copyB ∧ t.nv.repair = s.nv.repair ∧ t.nv.busy = false ∧ t.out = s.out ∧
  (∀ i x, tabLook s.ctxs i = some x → (t.ctx i).st = .free ∧ (t.ctx i).gen = x.gen + 1)

/-- No remap entry stands (R355). -/
def NoRemaps (t : State) : Prop := t.cores = [] ∧ t.sliceInst = [] ∧ t.hbmInst = []

/-- Every unit is IN_SERVICE with nothing recorded, and its UEPOCH `n` greater (R432). -/
def EpochsKept (s t : State) (n : Byte) : Prop :=
  tabRising 0 s.err.units = true → ∀ u, t.unit u = { uepoch := (s.unit u).uepoch } ∧ t.uepoch u = s.uepoch u + n

/-! ## The whole machine -/

/-- Every waiting command is one that can be sent. -/
def QueueSendable (s : State) : Prop := ∀ c ∈ s.pending, WellFormed.ok c = true

/-- The command answers a next state, of which `P` holds. -/
def Completes (c : Instr) (s : State) (P : State → Prop) : Prop := ∃ t, exec c s = .next t ∧ P t

/-- The instruction is done in its slot: the thread has gone on past it, with these writes to come (R76, R77). -/
def DoneIn (s : State) (l : Layout) (c : Instr) (sl : Slot4) (ws : List Wr) : Prop := ∃ u, exec c s = .next (finishIssue u (fetched s l) sl ws none)

end Sys2Proof.Safety
end

