-- ==== Sys2Proof/Certificates/Slice0/Obligations.lean ====
section
/-! DEFINITION. The statements for the provers. Each docstring names the rule of the spec that the statement formalises. -/

open Sys2Proof Sys2Proof.Machine Sys2Proof.Safety

/-- R120, R124: the twelve integer operations of two sources; SHL, SHR and SAR shift by bits [5:0], MIN and MAX and MULH are signed, MUL and
MULH give the low and high halves of the 128-bit product. MUL and MULH take 3 ticks and the rest 1 (R140). The immediate forms take the
sign-extended immediate as second source. -/
def Obligations.IntegerResults : Prop :=
  GivesOfTwo .add 0x01 1 (fun a b => a + b) ∧ GivesOfTwo .sub 0x02 1 (fun a b => a + ~~~b + 1) ∧
  GivesOfTwo .andR 0x03 1 (fun a b => ~~~(~~~a ||| ~~~b)) ∧ GivesOfTwo .orR 0x04 1 (fun a b => a ||| b) ∧
  GivesOfTwo .xorR 0x05 1 (fun a b => (a ||| b) &&& ~~~(a &&& b)) ∧
  GivesOfTwo .shl 0x06 1 (fun a b => BitVec.ofNat 64 (a.toNat * 2 ^ (b.toNat % 64))) ∧
  GivesOfTwo .shr 0x07 1 (fun a b => BitVec.ofNat 64 (a.toNat / 2 ^ (b.toNat % 64))) ∧
  GivesOfTwo .sar 0x08 1 (fun a b => BitVec.ofInt 64 (a.toInt / 2 ^ (b.toNat % 64))) ∧
  GivesOfTwo .minS 0x09 1 (fun a b => BitVec.ofInt 64 (min a.toInt b.toInt)) ∧
  GivesOfTwo .maxS 0x0A 1 (fun a b => BitVec.ofInt 64 (max a.toInt b.toInt)) ∧
  GivesOfTwo .mul 0x0B 3 (fun a b => BitVec.ofInt 64 (a.toInt * b.toInt)) ∧
  GivesOfTwo .mulh 0x0C 3 (fun a b => ((a.signExtend 128 * b.signExtend 128) >>> (64 : Nat)).truncate 64) ∧
  GivesOfImm .addi 0x10 1 (fun a b => a + b) ∧ GivesOfImm .andi 0x11 1 (fun a b => ~~~(~~~a ||| ~~~b)) ∧
  GivesOfImm .ori 0x12 1 (fun a b => a ||| b) ∧ GivesOfImm .xori 0x13 1 (fun a b => (a ||| b) &&& ~~~(a &&& b)) ∧
  GivesOfImm .shli 0x14 1 (fun a b => BitVec.ofNat 64 (a.toNat * 2 ^ (b.toNat % 64))) ∧
  GivesOfImm .shri 0x15 1 (fun a b => BitVec.ofNat 64 (a.toNat / 2 ^ (b.toNat % 64))) ∧
  GivesOfImm .sari 0x16 1 (fun a b => BitVec.ofInt 64 (a.toInt / 2 ^ (b.toNat % 64))) ∧
  GivesOfImm .muli 0x17 3 (fun a b => BitVec.ofInt 64 (a.toInt * b.toInt))

/-- R76, R123 to R125: NOP takes one tick and writes nothing; LI gives the sign-extended immediate, LIH replaces bits [63:32], MOV copies, CLZ
counts leading zeros (64 for zero) and POPC counts set bits. -/
def Obligations.MoveAndCountResults : Prop :=
  (∀ (s : State) (i : Site), Runs s ⟨i, 0x00, [], 0⟩ →
    exec (.nop i) s = .next (finishIssue (fetched s ⟨i, 0x00, [], 0⟩).s (fetched s ⟨i, 0x00, [], 0⟩) .S [] none)) ∧
  (∀ (s : State) (i : Site) (o1 : Byte) (imm : W32), let l : Layout := ⟨i, 0x18, [o1], imm⟩
    Runs s l → OperandsReady (s.core i.core) i.thr [o1] [] →
    exec (.li i o1 imm) s = .next (scalarDone (fetched s l) .S 1 o1 [] (immVal i.px imm))) ∧
  (∀ (s : State) (i : Site) (o1 : Byte) (imm : W32), let l : Layout := ⟨i, 0x19, [o1], imm⟩
    Runs s l → OperandsReady (s.core i.core) i.thr [o1] [o1] →
    exec (.lih i o1 imm) s = .next (scalarDone (fetched s l) .S 1 o1 [o1]
      (BitVec.ofNat 32 (rawImm i.px imm) ++ (l.src s o1).truncate 32))) ∧
  GivesOfOne .mov 0x1A (fun a => a) ∧
  GivesOfOne .clz 0x1B (fun a => BitVec.ofNat 64 (((List.range 64).find? (fun n => a.getMsbD n)).getD 64)) ∧
  GivesOfOne .popc 0x1C (fun a => BitVec.ofNat 64 ((List.range 64).filter (fun n => a.getLsbD n)).length)

/-- R124: the compares write 1 or 0 to a predicate, signed except the U forms; PAND, POR and PXOR of two predicates, and PNOT of one. -/
def Obligations.CompareResults : Prop :=
  GivesOfTwo .cmpeq 0x20 1 (fun a b => if a = b then 1 else 0) ∧ GivesOfTwo .cmpne 0x21 1 (fun a b => if a = b then 0 else 1) ∧
  GivesOfTwo .cmplt 0x22 1 (fun a b => if a.toInt < b.toInt then 1 else 0) ∧
  GivesOfTwo .cmpltu 0x23 1 (fun a b => if a.toNat < b.toNat then 1 else 0) ∧
  GivesOfTwo .cmple 0x24 1 (fun a b => if a.toInt ≤ b.toInt then 1 else 0) ∧
  GivesOfTwo .cmpleu 0x25 1 (fun a b => if a.toNat ≤ b.toNat then 1 else 0) ∧
  GivesOfImm .cmpeqi 0x28 1 (fun a b => if a = b then 1 else 0) ∧ GivesOfImm .cmpnei 0x29 1 (fun a b => if a = b then 0 else 1) ∧
  GivesOfImm .cmplti 0x2A 1 (fun a b => if a.toInt < b.toInt then 1 else 0) ∧
  GivesOfImm .cmpltui 0x2B 1 (fun a b => if a.toNat < b.toNat then 1 else 0) ∧
  GivesOfImm .cmplei 0x2C 1 (fun a b => if a.toInt ≤ b.toInt then 1 else 0) ∧
  GivesOfImm .cmpleui 0x2D 1 (fun a b => if a.toNat ≤ b.toNat then 1 else 0) ∧
  GivesPredicate .pand 0x30 (fun a b => a && b) ∧ GivesPredicate .por 0x31 (fun a b => a || b) ∧
  GivesPredicate .pxor 0x32 (fun a b => a != b) ∧
  (∀ (s : State) (i : Site) (o1 o2 : Byte), let l : Layout := ⟨i, 0x33, [o1, o2], 0⟩
    Runs s l → exec (.pnot i o1 o2) s = .next (finishIssue (fetched s l).s (fetched s l) .S
      [predWrite o1 (!(l.th s).readP (indexOf o2))] none))

/-- R46, R53, R125: FMUL, FADD and FSUB on F32 codes. FADD and FSUB are exact before saturation. -/
def Obligations.FractionResults : Prop :=
  GivesFraction .fmul 0x0D 3 (fun a b => a * b) 31 ∧ GivesFraction .fadd 0x0E 1 (fun a b => a + b) 0 ∧
  GivesFraction .fsub 0x0F 1 (fun a b => a - b) 0

/-- R126, R127: BR goes to its own address plus the offset, BRL does so and leaves the address of the next instruction in O1, JR goes to
O1 plus the immediate; a target past 0xFFFF raises SPACE_VIOLATION with the 64-bit target and has no other effect. -/
def Obligations.BranchResults : Prop :=
  (∀ (s : State) (i : Site) (imm : W32), let l : Layout := ⟨i, 0xD0, [], imm⟩
    Runs s l → let a : W64 := (l.th s).pc.zeroExtend 64 + immVal i.px imm
    exec (.br i imm) s = .next (if a.toNat < 0x10000 then finishIssue (fetched s l).s (fetched s l) .S [] (some a.toNat)
      else faultsWith (fetched s l) .S 0x0D a)) ∧
  (∀ (s : State) (i : Site) (o1 : Byte) (imm : W32), let l : Layout := ⟨i, 0xD1, [o1], imm⟩
    Runs s l → OperandsReady (s.core i.core) i.thr [o1] [] →
    let a : W64 := (l.th s).pc.zeroExtend 64 + immVal i.px imm
    let kd := takeDst ((fetched s l).k) o1
    exec (.brl i o1 imm) s = .next (if a.toNat < 0x10000 then
        finishIssue ((fetched s l).s.setCore i.core kd.1) (fetched s l) .S
          [{ lat := 1, dst := kd.2, val := BitVec.ofNat 512 ((l.th s).pc.toNat + l.len) }] (some a.toNat)
      else faultsWith (fetched s l) .S 0x0D a)) ∧
  (∀ (s : State) (i : Site) (o1 : Byte) (imm : W32), let l : Layout := ⟨i, 0xD2, [o1], imm⟩
    Runs s l → OperandsReady (s.core i.core) i.thr [] [o1] →
    let a : W64 := l.src s o1 + immVal i.px imm
    exec (.jr i o1 imm) s = .next (if a.toNat < 0x10000 then
        finishIssue ((fetched s l).s.setCore i.core (sourced (fetched s l) [o1])) (fetched s l) .S [] (some a.toNat)
      else faultsWith (fetched s l) .S 0x0D a))

/-- R88, R91, R128, R129: LOOP loads its counter with the low 32 bits of O2 and starts a loop whose body begins at the next instruction and
ends at END_OFF; a count of zero starts none and continues after the body's last instruction, or at it when its bytes do not decode.
LOOPT starts its counter at zero, bound to a ring, and raises ALTITUDE above 63. At the issue of an active loop's last instruction a counted
loop decrements its counter and goes back to its body unless the counter reaches zero, which ends it; a loop on a ring increments its counter
and goes back unless END_LOOP has been popped in the pass; a taken branch keeps its own target and ends no loop. -/
def Obligations.Loops : Prop :=
  (∀ (s : State) (i : Site) (o1 o2 : Byte) (imm : W32), let l : Layout := ⟨i, 0xD3, [o1, o2], imm⟩
    Runs s l → OperandsReady (s.core i.core) i.thr [] [o2] →
    let k := sourced (fetched s l) [o2]
    let n : W32 := (l.src s o2).truncate 32
    let last := (l.th s).pc.toNat + rawImm i.px imm
    let th := (k.thread i.thr).writeLc (indexOf o1) n
    exec (.loop i o1 o2 imm) s = .next (if n = 0 then
        finishIssue ((fetched s l).s.setCore i.core (k.setThread i.thr th)) (fetched s l) .S []
          (some (last + (decodeLen (getBytes 0xFF k.istore.data last (min 17 (0x10000 - last)))).getD 0))
      else finishIssue ((fetched s l).s.setCore i.core (k.setThread i.thr (withLoop th
        { lc := BitVec.ofNat 2 (indexOf o1), head := (l.th s).pc + BitVec.ofNat 16 l.len, last := last, ring := none }))) (fetched s l) .S [] none)) ∧
  (∀ (s : State) (i : Site) (o1 o2 : Byte) (imm : W32), let l : Layout := ⟨i, 0xD4, [o1, o2], imm⟩
    Runs s l → OperandsReady (s.core i.core) i.thr [] [o2] →
    let k := sourced (fetched s l) [o2]
    let th := (k.thread i.thr).writeLc (indexOf o1) 0
    exec (.loopt i o1 o2 imm) s = .next (if 63 < (l.src s o2).toNat then faultsWith (fetched s l) .S 0x0A (l.src s o2)
      else finishIssue ((fetched s l).s.setCore i.core (k.setThread i.thr (withLoop th
        { lc := BitVec.ofNat 2 (indexOf o1), head := (l.th s).pc + BitVec.ofNat 16 l.len,
          last := (l.th s).pc.toNat + rawImm i.px imm, ring := some ((l.src s o2).truncate 6) }))) (fetched s l) .S [] none)) ∧
  (∀ (s : State) (x : Iss) (sl : Slot4) (jump : Option Nat) (l : Loop) (rest : List Loop),
    let th := (s.core x.c).thread x.t
    let th' := (finishIssue s x sl [] jump).thread x.c x.t
    let fall := jump.getD (x.pc.toNat + x.len)
    th.pend = [] → tabWf 0 th.lc = true → th.loops = l :: rest → l.last = x.pc.toNat → (∀ o ∈ rest, o.last ≠ x.pc.toNat) →
    (l.ring = none → th'.readLc l.lc.toNat = th.readLc l.lc.toNat - 1 ∧
      (th.readLc l.lc.toNat ≠ 1 → th'.loops = l :: rest ∧ th'.pc = BitVec.ofNat 16 (jump.getD l.head.toNat)) ∧
      (th.readLc l.lc.toNat = 1 → th'.loops = rest ∧ th'.pc = BitVec.ofNat 16 fall)) ∧
    (∀ r, l.ring = some r → th'.readLc l.lc.toNat = th.readLc l.lc.toNat + 1 ∧
      (l.ended = false → th'.loops = l :: rest ∧ th'.pc = BitVec.ofNat 16 (jump.getD l.head.toNat)) ∧
      (l.ended = true → th'.loops = rest ∧ th'.pc = BitVec.ofNat 16 fall)))

/-- R78, R106, R126: END completes every result held back, in their order, and stops the thread: a g, v or p register takes the last result that
names it and keeps its value where none does, nothing is held back any more and the thread waits for nothing. -/
def Obligations.EndStopsTheThread : Prop :=
  ∀ (s : State) (i : Site), let l : Layout := ⟨i, 0xD5, [], 0⟩
    let th := l.th s
    Runs s l → tabWf 0 th.g = true → tabWf 0 th.v = true → ∃ t, exec (.endT i) s = .next t ∧
      (t.thread i.core i.thr).st = .stopped ∧ (t.thread i.core i.thr).pend = [] ∧ (t.thread i.core i.thr).wait = none ∧
      (∀ n, n ≠ 0 → (t.thread i.core i.thr).readG n = ((lastTo th.pend (.g n)).map (fun w => w.val.truncate 64)).getD (th.readG n)) ∧
      (∀ n, (t.thread i.core i.thr).readV n = ((lastTo th.pend (.v n)).map (·.val)).getD (th.readV n)) ∧
      (∀ n, 0 < n → n < 8 → (t.thread i.core i.thr).readP n = ((lastTo th.pend (.p n)).map (fun w => w.val.getLsbD 0)).getD (th.readP n))
/-- R73 to R75, R87, R93, R100, R109 to R111, R223: a thread of an existing core issues nothing while the dies are not clocked or the thread is neither
RUNNING nor WAITING, and one with an asynchronous fault that is due takes it instead. An instruction that issues with a false guard consumes its tick,
moves on and has no other effect; while its slot grants another thread it does nothing. An instruction whose bytes are all in the store and readable
raises the lowest of its encoding's faults whatever its guard, with its first 8 bytes in THR_FADDR; a word that cannot be read raises BUS_ERROR with
the instruction's address; a PC that has run past 0xFFFF raises SPACE_VIOLATION at 0x1_0000. All this holds of every core instruction. That a fetch
faults whatever the guard is the model's reading (log 126). -/
def Obligations.WhatIssues : Prop :=
  (∀ (s : State) (c : Instr) (l : Layout), layout c = some l → isCore l.i.core = true →
    (s.clocked = false ∨ ((l.th s).st ≠ .running ∧ (l.th s).st ≠ .waiting)) → exec c s = .next s) ∧
  (∀ (s : State) (c : Instr) (l : Layout), layout c = some l → isCore l.i.core = true → s.clocked = true →
    ((l.th s).st = .running ∨ (l.th s).st = .waiting) → (l.th s).asyncDue = true → exec c s = .next (deliverNext s l.i.core l.i.thr)) ∧
  (∀ (s : State) (c : Instr) (l : Layout), layout c = some l → Issues s l → guardHolds (l.th s) l.i.px = false →
    (Granted s l → exec c s = .next (finishIssue (fetched s l).s (fetched s l) (opSlot l.op) [] none)) ∧
    (¬ Granted s l → exec c s = .next s)) ∧
  (∀ (s : State) (c : Instr) (l : Layout), layout c = some l → CanIssue s l → Granted s l →
    (∀ code rest, InStore s l → FetchClean s l → (l.i.px.map prefixLen).sum ≤ 15 → encFaults l.op l.i.px l.ops l.imm = code :: rest →
      exec c s = .next (faultsWith (fetched s l) (opSlot l.op) code
        (firstBytes (fetched s l).k (l.th s).pc (insnBytes l.i.px l.op l.ops l.imm)))) ∧
    (InStore s l → (l.i.px.map prefixLen).sum ≤ 15 → ¬ FetchClean s l →
      exec c s = .next (busFault s l (opSlot l.op) ((l.th s).pc.zeroExtend 64))) ∧
    ((l.th s).past = true → exec c s = .next (faultsWith (fetched s l) .S 0x0D 0x10000)))

/-- R105, R106, R109, R427: a fault at issue. The thread is FAULTED, waits for nothing, holds no claim and no result back, and keeps its
PC and tick; the first fault since the record was cleared fills THR_FAULT and THR_FADDR and a further one sets MULTI alone; the core
reports the fault; the core's other threads are as they were. -/
def Obligations.TakingAThreadFault : Prop :=
  ∀ (s : State) (c : CoreId) (t : BitVec 2) (code : Nat) (pc : W16) (addr : W64), code < 256 →
    let s' := takeFault s c t code pc addr
    let th := s.thread c t
    let th' := s'.thread c t
    th'.st = .faulted ∧ th'.wait = none ∧ th'.claims = [] ∧ th'.pend = [] ∧ th'.pc = th.pc ∧ th'.tick = th.tick ∧
    (bits th.fault 7 0 = 0 → bits th'.fault 7 0 = code ∧ th'.fault.getLsbD 8 = false ∧ th'.fault.getLsbD 9 = false ∧
      bits th'.fault 47 32 = pc.toNat ∧ th'.faddr = addr) ∧
    (bits th.fault 7 0 ≠ 0 → th'.fault = th.fault ||| 0x100 ∧ th'.faddr = th.faddr) ∧
    s'.err.reports = s.err.reports ++ [{ unit := unitCore c, cls := faultClass code, code := BitVec.ofNat 8 code,
                                         place := (s.core c).place, detail := addr }] ∧
    ∀ t', t' ≠ t → s'.thread c t' = s.thread c t'

/-- R76, R77, R78, R79: finishing an issue advances the thread's tick by one, and a result is in its register from its completion tick on and
not before: of the results held back and the instruction's own, ordered by completion tick with later issues later among equals, the
last one due by the new tick that names a register gives its value, and every other g, v, p and lc keeps its value. What is not due
stays held back. -/
def Obligations.ResultsCompleteAtTheirTicks : Prop :=
  ∀ (s : State) (x : Iss) (sl : Slot4) (ws : List Wr) (jump : Option Nat),
    let th := (s.core x.c).thread x.t
    let th' := (finishIssue s x sl ws jump).thread x.c x.t
    PendSorted th.pend → th.loops = [] →
    let all := ws.foldl (fun ps w => pendInsert (heldOf x th w) ps) th.pend
    let due := all.filter (fun w => decide (w.due.toNat ≤ (th.tick + 1).toNat))
    th'.tick = th.tick + 1 ∧ th'.pend = all.filter (fun w => !decide (w.due.toNat ≤ (th.tick + 1).toNat)) ∧ PendSorted th'.pend ∧
    (∀ n, tabWf 0 th.g = true → n ≠ 0 → th'.readG n = ((lastTo due (.g n)).map (fun w => w.val.truncate 64)).getD (th.readG n)) ∧
    (∀ n, tabWf 0 th.v = true → th'.readV n = ((lastTo due (.v n)).map (·.val)).getD (th.readV n)) ∧
    (∀ n, tabWf 0 th.lc = true → th'.readLc n = ((lastTo due (.lc n)).map (fun w => w.val.truncate 32)).getD (th.readLc n)) ∧
    (∀ n, 0 < n → n < 8 → th'.readP n = ((lastTo due (.p n)).map (fun w => w.val.getLsbD 0)).getD (th.readP n)) ∧
    (∀ n, tabWf 0 (s.core x.c).sh = true →
      tabGet 0 ((finishIssue s x sl ws jump).core x.c).sh n =
        ((lastTo due (.sh n)).map (fun w => w.val.truncate 64)).getD (tabGet 0 (s.core x.c).sh n)) ∧
    th'.arith = due.foldl (fun a w => arithSet a w.sovf w.vovf) th.arith ∧ th'.readG 0 = 0 ∧ th'.readP 0 = true

/-- R75, R76, R106: what finishing an issue leaves alone: every other core, every other thread of the core, local memory, the instruction store,
the matrix engine, the DMA channels, rings, bindings and barriers, commons, HBM and host memory; and the thread goes on at the branch
target or the next instruction, RUNNING if it was WAITING, its slot's priority pointer past it. -/
def Obligations.IssueFrame : Prop :=
  ∀ (s : State) (x : Iss) (sl : Slot4) (ws : List Wr) (jump : Option Nat),
    let t := finishIssue s x sl ws jump
    let k := s.core x.c
    let k' := t.core x.c
    let th := k.thread x.t
    let th' := k'.thread x.t
    t = { s with cores := t.cores } ∧ (∀ c, c ≠ x.c → t.core c = s.core c) ∧ (∀ r, r ≠ x.t → k'.thread r = k.thread r) ∧
    k'.lm = k.lm ∧ k'.istore = k.istore ∧ k'.me = k.me ∧ k'.fcq = k.fcq ∧ k'.chans = k.chans ∧ k'.sync = k.sync ∧ k'.slots = k.slots ∧
    k'.insts = k.insts ∧ k'.perf = k.perf ∧ k'.qcfg = k.qcfg ∧ k'.place = k.place ∧
    th'.fault = th.fault ∧ th'.faddr = th.faddr ∧ th'.rngS = th.rngS ∧ th'.rngM = th.rngM ∧ th'.priv = th.priv ∧ th'.dsync = th.dsync ∧
    th'.dsyncHeld = th.dsyncHeld ∧ th'.async = th.async ∧
    (th'.st = if th.st = .waiting then .running else th.st) ∧ th'.wait = none ∧
    ((∀ l ∈ th.loops, l.last ≠ x.pc.toNat) → th'.loops = th.loops ∧
      th'.pc = BitVec.ofNat 16 (jump.getD (x.pc.toNat + x.len)) ∧ th'.past = decide (0x10000 ≤ jump.getD (x.pc.toNat + x.len))) ∧
    (k'.ptrS = if sl = .S then x.t + 1 else k.ptrS) ∧ (k'.ptrV = if sl = .V then x.t + 1 else k.ptrV) ∧
    (k'.ptrM = if sl = .M then x.t + 1 else k.ptrM) ∧ (k'.ptrX = if sl = .X then x.t + 1 else k.ptrX)

/-- R130: the logical, shift, compare, select, maximum and minimum lane operations. A shift by the lane width or more shifts every bit out, VSHR
with copies of the sign; a NaN compares false and −0 equals +0; VMAX and VMIN return the number beside a NaN and the O2 lane on equality;
VSEL reads the O1 lane. -/
def Obligations.LaneLogicResults : Prop :=
  GivesLanes .vand 0x46 (fun _ _ a b => a &&& b) ∧ GivesLanes .vor 0x47 (fun _ _ a b => a ||| b) ∧
  GivesLanes .vxor 0x48 (fun _ _ a b => a ^^^ b) ∧
  GivesLanes .vshl 0x49 (fun t _ a n => a * 2 ^ n % 2 ^ laneW t) ∧
  GivesLanes .vshr 0x4A (fun t _ a n => ((BitVec.ofNat (laneW t) a).sshiftRight n).toNat) ∧
  GivesLanes .vcmplt 0x4B (fun t _ a b =>
    if (if isFloat t then fpLt (laneFp t a) (laneFp t b) = true else laneInt t a < laneInt t b) then 2 ^ laneW t - 1 else 0) ∧
  GivesLanes .vcmpeq 0x4C (fun t _ a b =>
    if (if isFloat t then fpEq (laneFp t a) (laneFp t b) = true else a = b) then 2 ^ laneW t - 1 else 0) ∧
  GivesLanes .vsel 0x4D (fun _ c a b => if c = 0 then b else a) ∧
  GivesLanes .vmax 0x44 (fun t _ a b => if isFloat t then
      fpLane t (if laneFp t a = .nan then laneFp t b else if fpLt (laneFp t a) (laneFp t b) then laneFp t b else laneFp t a)
    else if laneInt t a < laneInt t b then b else a) ∧
  GivesLanes .vmin 0x45 (fun t _ a b => if isFloat t then
      fpLane t (if laneFp t a = .nan then laneFp t b else if fpLt (laneFp t b) (laneFp t a) then laneFp t b else laneFp t a)
    else if laneInt t b < laneInt t a then b else a)

/-- R46, R50, R52, R53, R54, R60, R130: VADD, VSUB, VMUL and VFMA (O2 × O3 + O1, rounded once). VADD and VSUB are of class VALU, VMUL and VFMA
of class VFMA. -/
def Obligations.LaneArithmeticResults : Prop :=
  GivesArithmetic .vadd 0x40 2 (fun a b _ => a + b) (fun a b _ => fpAdd a b) (fun _ a b _ => a + b) (fun _ => 0) ∧
  GivesArithmetic .vsub 0x41 2 (fun a b _ => a - b) (fun a b _ => fpAdd a (fpNegate b)) (fun _ a b _ => a - b) (fun _ => 0) ∧
  GivesArithmetic .vmul 0x42 4 (fun a b _ => a * b) (fun a b _ => fpMul a b) (fun _ a b _ => a * b) (fun f => f) ∧
  GivesArithmetic .vfma 0x43 4 (fun a b c => a * b + c) (fun a b c => fpAdd (fpMul a b) c)
    (fun f a b c => a * b + c * 2 ^ f) (fun f => f)

/-- R61, R196: the special functions lane by lane, and their special inputs: a NaN gives the NaN of R61; the infinities, the zeros and the
negative numbers give what the table of R196 says; a VEXP2 operand of 128 or more gives +∞, one below −126 gives +0. -/
def Obligations.SpecialFunctionResults : Prop :=
  (GivesSpecial .vexp2 0x50 0 ∧ GivesSpecial .vlog2 0x51 1 ∧ GivesSpecial .vrcp 0x52 2 ∧ GivesSpecial .vrsqrt 0x53 3 ∧
   GivesSpecial .vtanh 0x54 4 ∧ GivesSpecial .vsigm 0x55 5) ∧
  (∀ f x, f < 6 → fp32 x = .nan → sfuFp32 f x = 0x7FC00000) ∧
  (∀ f neg, (f, neg) ∈ [(0, false), (1, false)] → ∀ x, fp32 x = .inf neg → sfuFp32 f x = 0x7F800000) ∧
  (∀ f neg, (f, neg) ∈ [(0, true), (2, false), (3, false), (5, true)] → ∀ x, fp32 x = .inf neg → sfuFp32 f x = 0) ∧
  (∀ x, fp32 x = .inf true → sfuFp32 2 x = 0x80000000 ∧ sfuFp32 4 x = 0xBF800000) ∧
  (∀ x, fp32 x = .inf false → sfuFp32 4 x = 0x3F800000 ∧ sfuFp32 5 x = 0x3F800000) ∧
  (∀ x neg, fp32 x = .zero neg → sfuFp32 1 x = 0xFF800000 ∧ sfuFp32 2 x = (if neg then 0xFF800000 else 0x7F800000) ∧
    sfuFp32 3 x = (if neg then 0xFF800000 else 0x7F800000)) ∧
  (∀ x m e, fp32 x = .fin true m e → sfuFp32 1 x = 0x7FC00000 ∧ sfuFp32 3 x = 0x7FC00000) ∧
  (∀ x neg m e, fp32 x = .fin neg m e → (fpLt (fp32 x) (.fin false 1 7) = false → sfuFp32 0 x = 0x7F800000) ∧
    (fpLt (fp32 x) (.fin true 126 0) = true → sfuFp32 0 x = 0))

/-- R122, R130, R191: VBCAST puts the low bits of O2 in every lane, VEXTR sign-extends one lane to 64 bits, VPERM takes for lane j the O2 lane
that lane j of O3 names modulo the lane count. VCVT writes the registers that its destination spans, all four ticks after issue and with one VOVF;
FP32 elements go to BF16 with one rounding, and fraction codes of scale imm8 to FP32 with one rounding. The element conversion to a fraction gives 0
for a NaN and the end of the range for an infinity, both with VOVF, and 0 without VOVF for a zero (R62). -/
def Obligations.LaneMoveResults : Prop :=
  (∀ (s : State) (i : Site) (ty o1 o2 : Byte), let l : Layout := ⟨i, 0x59, [ty, o1, o2], 0⟩
    Runs s l → OperandsReady (s.core i.core) i.thr [] [o2] → ∃ r,
      exec (.vbcast i ty o1 o2) s = .next (finishIssue ((fetched s l).s.setCore i.core (sourced (fetched s l) [o2])) (fetched s l) .V
        [{ lat := 2, dst := .v (indexOf o1), val := r }] none) ∧
      ∀ j, j < laneN (vty ty) → laneAt (laneW (vty ty)) r j = (l.src s o2).toNat % 2 ^ laneW (vty ty)) ∧
  (∀ (s : State) (i : Site) (ty o1 o2 imm8 : Byte), let l : Layout := ⟨i, 0x5A, [ty, o1, o2, imm8], 0⟩
    Runs s l → OperandsReady (s.core i.core) i.thr [o1] [] →
      let kd := takeDst (fetched s l).k o1
      exec (.vextr i ty o1 o2 imm8) s = .next (finishIssue ((fetched s l).s.setCore i.core kd.1) (fetched s l) .V
        [{ lat := 2, dst := kd.2,
           val := (((BitVec.ofNat (laneW (vty ty)) (laneAt (laneW (vty ty)) (l.v s o2) imm8.toNat)).signExtend 64 : W64)).zeroExtend 512 }] none)) ∧
  (∀ (s : State) (i : Site) (ty o1 o2 o3 : Byte), let l : Layout := ⟨i, 0x5B, [ty, o1, o2, o3], 0⟩
    Runs s l → ∃ r, exec (.vperm i ty o1 o2 o3) s = .next (vecDone s l 2 o1 r false (l.th s).rngS) ∧
      ∀ j, j < laneN (vty ty) → laneAt (laneW (vty ty)) r j =
        laneAt (laneW (vty ty)) (l.v s o2) (laneAt (laneW (vty ty)) (l.v s o3) j % laneN (vty ty))) ∧
  (∀ (s : State) (i : Site) (ty o1 o2 imm8 : Byte), let l : Layout := ⟨i, 0x58, [ty, o1, o2, imm8], 0⟩
    Runs s l → ∃ (rs : List W512) (ovf : Bool) (rng : W64),
      exec (.vcvt i ty o1 o2 imm8) s = .next (finishIssue
        ((fetched s l).s.setThread i.core i.thr { l.th s with rngS := rng }) (fetched s l) .V
        (rs.zipIdx.map (fun e => { lat := 4, dst := .v (indexOf o1 + e.2), val := e.1, vovf := ovf })) none) ∧
      rs.length = (if isGroup (bits ty 3 0) then 2 else cvtCount (bits ty 7 4) (bits ty 3 0) / cvtDstLanes (bits ty 3 0)) ∧
      (bits ty 7 4 = 0 → bits ty 3 0 = 1 → ∀ j, j < 32 → laneAt 16 (rs.getD 0 0) j =
        (toBf16 (laneFp 0 (laneAt 32 ((l.th s).readV (indexOf o2 + j / 16)) (j % 16)))).toNat) ∧
      (isFrac (bits ty 7 4) = true → bits ty 3 0 = 0 → ∀ j, j < laneN (bits ty 7 4) → let w := laneW (bits ty 7 4)
        laneAt 32 (rs.getD (j / 16) 0) (j % 16) =
          (toFp32 (fpOfInt (laneInt (bits ty 7 4) (laneAt w (l.v s o2) j)) (imm8.toInt - ((w : Int) - 1)))).toNat)) ∧
  (∀ mode w e rng, 1 < w → (fpToFrac mode w e rng .nan).1 = 0 ∧ (fpToFrac mode w e rng .nan).2.1 = true ∧
    (fpToFrac mode w e rng (.inf true)).1 = -(2 ^ (w - 1) : Nat) ∧ (fpToFrac mode w e rng (.inf false)).1 = (2 ^ (w - 1) : Nat) - 1 ∧
    (∀ n, (fpToFrac mode w e rng (.inf n)).2.1 = true) ∧
    ∀ n, (fpToFrac mode w e rng (.zero n)).1 = 0 ∧ (fpToFrac mode w e rng (.zero n)).2.1 = false)

/-- R130, R197: VREDSUM and VREDMAX put the sum and the maximum of the lanes in lane 0 and zero in the others. An integer sum wraps; a fraction
sum without overflow at any node is the exact sum. VRAND fills its 32 lanes with 32 draws in lane order. -/
def Obligations.ReductionResults : Prop :=
  (∀ (s : State) (i : Site) (ty o1 o2 : Byte), let l : Layout := ⟨i, 0x5C, [ty, o1, o2], 0⟩
    let t := vty ty
    let w := laneW t
    Runs s l → ∃ r ovf, exec (.vredsum i ty o1 o2) s = .next (vecDone s l 4 o1 r ovf (l.th s).rngS) ∧
      (∀ j, 0 < j → j < laneN t → laneAt w r j = 0) ∧
      (isFloat t = false → isFrac t = false → ovf = false ∧
        laneAt w r 0 = ((List.range (laneN t)).map (fun j => laneAt w (l.v s o2) j)).sum % 2 ^ w) ∧
      (isFrac t = true → ovf = false → laneInt t (laneAt w r 0) = ((List.range (laneN t)).map (fun j => laneInt t (laneAt w (l.v s o2) j))).sum)) ∧
  (∀ (s : State) (i : Site) (ty o1 o2 : Byte), let l : Layout := ⟨i, 0x5D, [ty, o1, o2], 0⟩
    let t := vty ty
    let w := laneW t
    Runs s l → ∃ r, exec (.vredmax i ty o1 o2) s = .next (vecDone s l 4 o1 r false (l.th s).rngS) ∧
      (∀ j, 0 < j → j < laneN t → laneAt w r j = 0) ∧
      (isFloat t = false → (∃ j, j < laneN t ∧ laneAt w r 0 = laneAt w (l.v s o2) j) ∧
        ∀ j, j < laneN t → laneInt t (laneAt w (l.v s o2) j) ≤ laneInt t (laneAt w r 0))) ∧
  (∀ (s : State) (i : Site) (o1 : Byte), let l : Layout := ⟨i, 0x5E, [o1], 0⟩
    Runs s l → ∃ r rng, exec (.vrand i o1) s = .next (vecDone s l 2 o1 r false rng) ∧
      LaneChain 32 (fun _ g => ((rngDraw g).2, false, (rngDraw g).1)) (l.th s).rngS (laneAt 16 r) false rng)

/-- R199, R200, R201, R206, R207: VTOPK and GATE select the k largest candidates in descending order, equal values by lower index; VTOPK writes
values and indices, zero and 0xFFFF beyond k; GATE writes up to k records naming the selected experts and marks the rest empty. A greedy VSAMPLE
writes the first of its n lanes that holds the maximum, with probability 1, and draws nothing; one that is not greedy takes exactly two draws when
invT is above 0 and some candidate is not −∞, and none otherwise; the words behind lane and probability are zero. The weights of GATE and which lane a
sampling VSAMPLE picks stand in no clause. -/
def Obligations.SelectionResults : Prop :=
  (∀ (s : State) (i : Site) (ty o1 o2 imm8 : Byte), let l : Layout := ⟨i, 0x60, [ty, o1, o2, imm8], 0⟩
    let t := vty ty
    let k := bits imm8 5 0
    Runs s l → ∃ vals idx sel, exec (.vtopk i ty o1 o2 imm8) s = .next (finishIssue (fetched s l).s (fetched s l) .V
        [{ lat := 8, dst := .v (indexOf o1), val := vals }, { lat := 8, dst := .v (indexOf o1 + 1), val := idx }] none) ∧
      SelectsTop (laneN t * 2 ^ bits imm8 7 6) k (candidate s l t o2) sel ∧
      (∀ j, j < laneN t → laneAt (laneW t) vals j = if h : j < sel.length then fpLane t (candidate s l t o2 sel[j]) else 0) ∧
      (∀ j, j < 32 → laneAt 16 idx j = if h : j < sel.length then sel[j] else 0xFFFF)) ∧
  (∀ (s : State) (i : Site) (ty o1 o2 o3 : Byte), let l : Layout := ⟨i, 0x61, [ty, o1, o2, o3], 0⟩
    let t := vty ty
    let x := fun j => toFp32 (laneFp t (laneAt (laneW t) (l.v s o2) j))
    let num := fun j => if fp32 (x j) = .nan then 0xFF800000 else x j
    Runs s l → ∃ r rng, exec (.vsample i ty o1 o2 o3) s = .next (vecDone s l 8 o1 r false rng) ∧
      (∀ j, 2 ≤ j → j < 16 → laneAt 32 r j = 0) ∧
      (laneAt 32 (l.v s o3) 3 % 2 = 1 → rng = (l.th s).rngS ∧ laneAt 32 r 1 = 0x3F800000) ∧
      (laneAt 32 (l.v s o3) 3 % 2 = 1 → ∀ n, n = max 1 (min (laneN t : Int) (BitVec.ofNat 32 (laneAt 32 (l.v s o3) 2)).toInt) →
        (laneAt 32 r 0 : Int) < n ∧ (∀ j : Nat, (j : Int) < n → fpLt (fp32 (num (laneAt 32 r 0))) (fp32 (num j)) = false) ∧
        ∀ j, j < laneAt 32 r 0 → fpLt (fp32 (num j)) (fp32 (num (laneAt 32 r 0))) = true) ∧
      (∀ n : Int, n = max 1 (min (laneN t : Int) (BitVec.ofNat 32 (laneAt 32 (l.v s o3) 2)).toInt) →
        let draws := laneAt 32 (l.v s o3) 3 % 2 = 0 ∧ fpLt (.zero false) (fp32 (BitVec.ofNat 32 (laneAt 32 (l.v s o3) 0))) = true ∧
          ∃ j : Nat, (j : Int) < n ∧ fp32 (num j) ≠ .inf true
        (draws → rng = (rngDraw (rngDraw (l.th s).rngS).1).1) ∧ (¬ draws → rng = (l.th s).rngS))) ∧
  (∀ (s : State) (i : Site) (ty o1 o2 imm8 : Byte), let l : Layout := ⟨i, 0x62, [ty, o1, o2, imm8], 0⟩
    let t := vty ty
    Runs s l → ∃ recs sel, exec (.gate i ty o1 o2 imm8) s = .next (finishIssue
        { (fetched s l).s with freeCtr := (fetched s l).s.freeCtr + 1 } (fetched s l) .V [{ lat := 8, dst := .v (indexOf o1), val := recs }] none) ∧
      SelectsTop (laneN t * 2 ^ bits imm8 5 4) (bits imm8 3 0) (candidate s l t o2) sel ∧
      (∀ j, j < 8 → laneAt 32 recs (2 * j) = if h : j < sel.length then sel[j] else 0xFFFF) ∧
      (∀ j, j < 8 → sel.length ≤ j → laneAt 32 recs (2 * j + 1) = 0))
/-- R131, R144, R149 to R158, R162, R173: an M-slot instruction whose checks pass enters the matrix queue with its operands as read at issue and
does nothing else; TCFG's word stands for issue checks at once. -/
def Obligations.MatrixInstructionsEnterTheQueue : Prop :=
  (∀ (s : State) (i : Site) (o1 o2 : Byte), let l : Layout := ⟨i, 0x80, [o1, o2], 0⟩
    let n := indexOf o1
    let w := l.src s o2
    let own := cfgOwner ((l.me s).tile n).cfg
    let k := sourced (fetched s l) [o2]
    RunsME s l → OperandsReady (s.core i.core) i.thr [] [o2] → cfgOk n w = true →
    (own = i.thr.toNat ∨ liveThread (s.thread i.core (BitVec.ofNat 2 own)) = false) →
    exec (.tcfg i o1 o2) s = .next (meDone s l { k with me := (l.me s).setTile n { (l.me s).tile n with cfg := w } }
      (.tcfg n w (cfgOwner w != own)))) ∧
  (∀ (s : State) (i : Site) (imm : W32), let l : Layout := ⟨i, 0x81, [], imm⟩
    RunsME s l → (∀ n, n < 24 → rawImm i.px imm / 2 ^ n % 2 = 1 → Owns s l n) →
    exec (.tfree i imm) s = .next (meDone s l (fetched s l).k (.tfree (BitVec.ofNat 24 (rawImm i.px imm))))) ∧
  (∀ (s : State) (i : Site) (o1 o2 : Byte) (imm : W32), let l : Layout := ⟨i, 0x82, [o1, o2], imm⟩
    let w := ((l.me s).tile (indexOf o1)).cfg
    let sh := transferShape i.px (indexOf o1) w
    RunsME s l → TransferOk s l o1 o2 →
    exec (.tld i o1 o2 imm) s = .next (meDone s l (fetched s l).k (.tld (indexOf o1) (l.addr s o2) sh.1 sh.2 w))) ∧
  (∀ (s : State) (i : Site) (o1 o2 : Byte) (imm : W32), let l : Layout := ⟨i, 0x84, [o1, o2], imm⟩
    let w := ((l.me s).tile (indexOf o1)).cfg
    let sh := transferShape i.px (indexOf o1) w
    RunsME s l → TransferOk s l o1 o2 →
    exec (.tst i o1 o2 imm) s = .next (meDone s l (fetched s l).k (.tst (indexOf o1) (l.addr s o2) sh.1 sh.2 w))) ∧
  (∀ (s : State) (i : Site) (o1 o2 o3 : Byte), let l : Layout := ⟨i, 0x83, [o1, o2, o3], 0⟩
    let n := indexOf o1
    let w := ((l.me s).tile n).cfg
    let sh := transferShape i.px n w
    let p := l.src s o3
    let base := (l.th s).readG (indexOf o2)
    RunsME s l → OperandsReady (s.core i.core) i.thr [] [o3] → Owns s l n → sh.1 ≤ 32 → sh.2 ≤ colCap n w → convOk w p = true →
    (∀ r j a, r < sh.1 → j < sh.2 → convAddr base p (fmtW (cfgFmt w)) (pitch n w) r j = some a → inLm a.1 (elemBytes (fmtW (cfgFmt w))) = true) →
    exec (.tldc i o1 o2 o3) s = .next (meDone s l (sourced (fetched s l) [o3]) (.tldc n base p sh.1 sh.2 w))) ∧
  (∀ (s : State) (i : Site) (o1 o2 o3 : Byte), let l : Layout := ⟨i, 0x85, [o1, o2, o3], 0⟩
    RunsME s l → MmaOk s l o1 o2 o3 → exec (.mma i o1 o2 o3) s = .next (meDone s l (fetched s l).k (mmaKind s l o1 o2 o3 false))) ∧
  (∀ (s : State) (i : Site) (o1 o2 o3 : Byte), let l : Layout := ⟨i, 0x86, [o1, o2, o3], 0⟩
    RunsME s l → MmaOk s l o1 o2 o3 → exec (.mmaz i o1 o2 o3) s = .next (meDone s l (fetched s l).k (mmaKind s l o1 o2 o3 true))) ∧
  (∀ (s : State) (i : Site) (o1 : Byte) (imm : W32), let l : Layout := ⟨i, 0x87, [o1], imm⟩
    RunsME s l → (l.addr s o1).toNat % 64 = 0 → (l.addr s o1).toNat + 58624 ≤ 0x60000 →
    exec (.savetiles i o1 imm) s = .next (meDone s l (fetched s l).k (.save (l.addr s o1)))) ∧
  (∀ (s : State) (i : Site) (o1 : Byte) (imm : W32), let l : Layout := ⟨i, 0x88, [o1], imm⟩
    RunsME s l → (l.addr s o1).toNat % 64 = 0 → (l.addr s o1).toNat + 58624 ≤ 0x60000 →
    exec (.resttiles i o1 imm) s = .next (meDone s l (fetched s l).k (.rest (l.addr s o1)))) ∧
  (∀ (s : State) (i : Site) (o1 o2 : Byte) (imm : W32), let l : Layout := ⟨i, 0x89, [o1, o2], imm⟩
    RunsME s l → Owns s l (indexOf o2) → exec (.trdv i o1 o2 imm) s = .next (meDone s l (fetched s l).k
      (.trdv (indexOf o1) (indexOf o2) (rawImm i.px imm % 32) (rawImm i.px imm / 32 % 4)))) ∧
  (∀ (s : State) (i : Site) (o1 o2 : Byte) (imm : W32), let l : Layout := ⟨i, 0x8A, [o1, o2], imm⟩
    RunsME s l → Owns s l (indexOf o1) → exec (.twrv i o1 o2 imm) s = .next (meDone s l (fetched s l).k
      (.twrv (indexOf o1) (rawImm i.px imm % 32) (rawImm i.px imm / 32 % 4) (l.v s o2))))

/-- R155, R173, R549: an M-slot instruction on a tile that the thread does not own raises TILE_NOT_OWNED with the lowest such tile, whatever
other fault it could raise; with the matrix queue full it is not ready, and nothing happens. -/
def Obligations.MatrixIssueChecks : Prop :=
  (∀ (s : State) (c : Instr) (l : Layout), layout c = some l → 0x80 ≤ l.op → l.op < 0xA0 → Issues s l → guardHolds (l.th s) l.i.px = true →
    8 ≤ (l.me s).queue.length → exec c s = .next s) ∧
  (∀ (s : State) (c : Instr) (l : Layout) (ns : List Nat), layout c = some l → Runs s l →
    (∃ i o1 o2 imm, (c = .tld i o1 o2 imm ∧ ns = [indexOf o1]) ∨ (c = .tst i o1 o2 imm ∧ ns = [indexOf o1]) ∨
      (c = .trdv i o1 o2 imm ∧ ns = [indexOf o2]) ∨ (c = .twrv i o1 o2 imm ∧ ns = [indexOf o1]) ∨
      (c = .tfree i imm ∧ ns = (List.range 24).filter (fun n => rawImm i.px imm / 2 ^ n % 2 == 1)) ∨
      ∃ o3, (c = .mma i o1 o2 o3 ∨ c = .mmaz i o1 o2 o3) ∧ ns = [indexOf o1, indexOf o2, indexOf o3] ++
        (if bits (sparsityOf i.px) 7 4 = 1 then [bits (sparsityOf i.px) 3 0] else [])) →
    ∀ n, n < 24 → n ∈ ns → ¬ Owns s l n → (∀ m, m < n → m ∈ ns → Owns s l m) →
      exec c s = .next (faultsWith (fetched s l) .M 4 (BitVec.ofNat 64 n)))

/-- R171, R174, R175, R178 to R180: ME_OP_START marks the first entry that has not started once every earlier dependence has cleared, its steps that are
skipped counted when it is an MMA; an entry that meets a fenced tile completes without effect. MMA_STEP sends the next step of the oldest started
MMA that has one into the arrays, counts it and reads its blocks through the latches and the operand cache. A passing MMA_STEP_CHECK writes the oldest
step in the arrays and completes the operation at its last step; a failing one fences the accumulator, removes the operation and sends ARITH_CHECK to its
thread. MMAs without steps behind the operation complete with it. The tile file is taken without raw parity and without remap entries at a start. -/
def Obligations.MatrixEngineSteps : Prop :=
  ∀ (s : State) (c : CoreId), isCore c = true → s.clocked = true →
    let k := s.core c
    (∀ o, startable k.me = some o → ParityClean k → meetsFence k.me o = false → isMma o = false →
      exec (.meOpStart c) s = .next (s.setCore c (k.setQueue (putOp k.me.queue { o with started := true })))) ∧
    (∀ o d, startable k.me = some o → ParityClean k → meetsFence k.me o = false → mmaOf o = some d →
      exec (.meOpStart c) s = .next (releaseHeld (sweepEmpty 8 ((s.setCore c (k.setQueue (putOp k.me.queue { o with started := true }))).perfAdd
        c 0x0C08 ((allSteps k.me d).length - (liveSteps k.me d).length)) c) c)) ∧
    (∀ o, startable k.me = some o → meetsFence k.me o = true → exec (.meOpStart c) s = .next (releaseHeld (finishOp s c o) c)) ∧
    (∀ o d, k.me.queue.find? (fun o => o.started && decide (o.entered < (opSteps k.me o).length)) = some o → mmaOf o = some d →
      let u := (s.setCore c (k.setQueue (putOp k.me.queue { o with entered := o.entered + 1 }))).perfAdd c 0x0C00 1
      exec (.mmaStep c) s = .next (releaseHeld (sweepEmpty 8 (stepReads u c o d ((opSteps k.me o).getD o.entered (0, 0, 0))
        (o.entered + 1 == (opSteps k.me o).length)) c) c)) ∧
    (∀ o d, k.me.queue.find? (fun o => o.started && decide (o.checked < o.entered)) = some o → mmaOf o = some d →
      let w := writeStep s c o d ((liveSteps k.me d).getD o.checked (0, 0, 0))
      let o' := { w.2 with checked := w.2.checked + 1 }
      let t := w.1.setCore c ((w.1.core c).setQueue (putOp (w.1.core c).me.queue o'))
      exec (.mmaStepCheck c true) s = .next (if o'.checked < (liveSteps k.me d).length then t
        else releaseHeld (sweepEmpty 8 (finishOp t c o') c) c)) ∧
    (∀ o d, k.me.queue.find? (fun o => o.started && decide (o.checked < o.entered)) = some o → mmaOf o = some d →
      exec (.mmaStepCheck c false) s = .next (releaseHeld (sweepEmpty 8 (fenceTile s c d.acc o) c) c) ∧
      (((fenceTile s c d.acc o).core c).me.tile d.acc).fence = true ∧ (∀ p ∈ ((fenceTile s c d.acc o).core c).me.queue, p.id ≠ o.id) ∧
      ((fenceTile s c d.acc o).thread c o.thr).async = (s.thread c o.thr).async ++
        [{ code := 0x0B, pc := o.pc, addr := BitVec.ofNat 64 d.acc, ord := o.ord, at_ := s.time }])

/-- R33, R34, R41 to R44, R151, R169, R170, R172: what a step writes. Under a rounding mode other than RSR, each element of the step's block inside
M × N adds, for a group that both rows scale, the exact group sum times 2^(33 − wa − wb + Ea + Eb − EO), rounded and brought into 40 bits,
by one more addition in 40 bits; a group that either row marks zero adds nothing; elements outside the block stay. -/
def Obligations.MultiplyAccumulate : Prop :=
  ∀ (m : Me) (d : MmaDims) (mode : Nat) (sat : Bool) (rng : W64) (i j g r c : Nat), mode ≠ 4 → (m.tile d.acc).inUse = true →
    tabWf 0 (m.tile d.acc).acc = true → d.m ≤ 32 → d.n ≤ 32 → r < 32 → c < 32 → d.pat = false →
    let t := (applyUnit m d mode sat rng i j g).1
    let old := ((m.tile d.acc).accAt r c).toInt
    let inside := 8 * i ≤ r ∧ r < 8 * i + 8 ∧ r < d.m ∧ m.w * j ≤ c ∧ c < m.w * j + m.w ∧ c < d.n
    (¬ inside → (t.accAt r c).toInt = old) ∧
    (inside → ∀ ea eb, groupExpOf m d.a r g = some ea → groupExpOf m d.b c g = some eb →
      let x := (scaleRound mode rng (denseSum m d r c g) (33 - (m.opW d.a : Int) - (m.opW d.b : Int) + ea + eb - cfgEo (m.tile d.acc).live)).1
      (t.accAt r c).toInt = (satWrap sat 40 (old + (satWrap sat 40 x).1)).1) ∧
    (inside → (groupExpOf m d.a r g = none ∨ groupExpOf m d.b c g = none) → (t.accAt r c).toInt = old) ∧
    (applyUnit m d mode sat rng i j g).2.1 = rng

/-- R144, R148, R154, R159, R160, R162, R176: LS_OP_COMPLETE completes the oldest started operation of the load-store path. TCFG applies its word, and
a reassignment clears the in-use flag and the fence; TFREE clears both for the tiles of its mask; TRDV delivers a row and TWRV stores one,
so that a row written is the row read. RESTTILES leaves the tiles of other threads and SAVETILES leaves the engine as it was. The entry is freed, and an
operation that meets a fenced tile completes without effect. What TLD, TLDC, TST, SAVETILES and RESTTILES move stands in no clause. -/
def Obligations.MatrixLoadStorePath : Prop :=
  (∀ (s : State) (c : CoreId) (o : MeOp), isCore c = true → s.clocked = true →
    (s.core c).me.queue.find? (fun o => o.started && !isMma o) = some o → meetsFence (s.core c).me o = true →
    exec (.lsOpComplete c) s = .next (releaseHeld (finishOp s c o) c)) ∧
  (∀ (s : State) (c : CoreId) (o : MeOp), isCore c = true → s.clocked = true →
    (s.core c).me.queue.find? (fun o => o.started && !isMma o) = some o → meetsFence (s.core c).me o = false →
    exec (.lsOpComplete c) s = .next (releaseHeld (finishOp (runLs s c o).1 c (runLs s c o).2) c) ∧
    (∀ p ∈ ((finishOp (runLs s c o).1 c (runLs s c o).2).core c).me.queue, p.id ≠ (runLs s c o).2.id) ∧
    (∀ n w re, o.kind = .tcfg n w re → let t := ((runLs s c o).1.core c).me.tile n
      t.live = w ∧ (re = true → t.inUse = false ∧ t.fence = false) ∧
      (re = false → t.inUse = ((s.core c).me.tile n).inUse ∧ t.fence = ((s.core c).me.tile n).fence)) ∧
    (∀ mask n, o.kind = .tfree mask → n < 24 → let t := ((runLs s c o).1.core c).me.tile n
      (mask.getLsbD n = true → t.inUse = false ∧ t.fence = false) ∧ (mask.getLsbD n = false → t = (s.core c).me.tile n)) ∧
    (∀ v n row seg, o.kind = .trdv v n row seg → tabWf 0 (s.thread c o.thr).v = true →
      ((runLs s c o).1.thread c o.thr).readV v = rowValue ((s.core c).me.tile n) n row seg) ∧
    (∀ a, o.kind = .rest a → ∀ n, n < 24 → cfgOwner ((s.core c).me.tile n).live ≠ o.thr.toNat →
      ((runLs s c o).1.core c).me.tile n = (s.core c).me.tile n) ∧
    (∀ a, o.kind = .save a → ((runLs s c o).1.core c).me = (s.core c).me)) ∧
  (∀ (t : Tile) (n row seg : Nat) (v : W512), n < 16 → row < 32 → tabWf 0 t.bytes = true → tabWf 0 t.exps = true →
    ∀ j, j < 34 → laneAt 8 (rowValue (putRowValue t n row seg v) n row seg) j = laneAt 8 v j) ∧
  (∀ (t : Tile) (n row seg : Nat) (v : W512), 16 ≤ n → row < 32 → seg < 4 → tabWf 0 t.acc = true →
    ∀ j, j < 8 → laneAt 64 (rowValue (putRowValue t n row seg v) n row seg) j =
      ((BitVec.ofNat 40 (laneAt 64 v j)).signExtend 64).toNat)
/-- R9, R94 to R96, R111, R133, R222, R223: a load of an aligned address in own local memory. Its bytes are read at issue and reach the destination six ticks
later, zero- or sign-extended; when a word cannot be read the destination keeps its value and the thread is sent an asynchronous
BUS_ERROR. An address that is not a multiple of the size raises ALIGNMENT,
and one that the thread may not reach the fault of its range. -/
def Obligations.LocalLoads : Prop :=
  ∀ e ∈ loads, ∀ (s : State) (i : Site) (o1 o2 : Byte) (imm : W32), let l : Layout := ⟨i, e.2.1, [o1, o2], imm⟩
    let a := l.addr s o2
    let x := fetched s l
    let kd := takeDst x.k o1
    let r := lmRead (x.s.setCore i.core kd.1) i.core a.toNat e.2.2.1
    Runs s l → OperandsReady (s.core i.core) i.thr [o1] [] →
    (a.toNat < 0x60000 → a.toNat % e.2.2.1 = 0 → exec (e.1 i o1 o2 imm) s = .next (if r.2.1 = [] then
        finishIssue r.2.2 x .X [{ lat := 6, dst := kd.2, val := extendLoad e.2.2.1 e.2.2.2 r.1 }] none
      else loadFailed s l (lmRead x.s i.core a.toNat e.2.2.1).2.2 a)) ∧
    (a.toNat % e.2.2.1 ≠ 0 → exec (e.1 i o1 o2 imm) s = .next (faultsWith x .X 7 a)) ∧
    (∀ code b, a.toNat % e.2.2.1 = 0 → s.rangeFaults i.core (l.th s).priv a = [(code, b)] → exec (e.1 i o1 o2 imm) s = .next (faultsWith x .X code b))

/-- R94 to R96, R111, R133, R222: a store to an aligned address in own local memory writes the low bytes of its source, or the whole vector
register, at issue. An address that is not a multiple of the size raises ALIGNMENT, and one that the thread may not reach the fault of its
range. -/
def Obligations.LocalStores : Prop :=
  (∀ e ∈ stores, ∀ (s : State) (i : Site) (o1 o2 : Byte) (imm : W32), let l : Layout := ⟨i, e.2.1, [o1, o2], imm⟩
    let a := l.addr s o2
    Runs s l → OperandsReady (s.core i.core) i.thr [] [o1] →
    (a.toNat < 0x60000 → a.toNat % e.2.2 = 0 →
      exec (e.1 i o1 o2 imm) s = .next (storeDone s l (sourced (fetched s l) [o1]) a (leBytes e.2.2 (l.src s o1).toNat))) ∧
    (a.toNat % e.2.2 ≠ 0 → exec (e.1 i o1 o2 imm) s = .next (faultsWith (fetched s l) .X 7 a)) ∧
    (∀ code b, a.toNat % e.2.2 = 0 → s.rangeFaults i.core (l.th s).priv a = [(code, b)] →
      exec (e.1 i o1 o2 imm) s = .next (faultsWith (fetched s l) .X code b))) ∧
  (∀ (s : State) (i : Site) (o1 o2 : Byte) (imm : W32), let l : Layout := ⟨i, 0xAC, [o1, o2], imm⟩
    let a := l.addr s o2
    Runs s l →
    (a.toNat < 0x60000 → a.toNat % 64 = 0 → exec (.stv i o1 o2 imm) s = .next (storeDone s l (fetched s l).k a (leBytes 64 (l.v s o1).toNat))) ∧
    (a.toNat % 64 ≠ 0 → exec (.stv i o1 o2 imm) s = .next (faultsWith (fetched s l) .X 7 a)))

/-- R9, R219, R222: what a write of local memory does. The bytes written read back, every other byte reads as before, the memory keeps its
canonical form, and no other core and nothing else of the core but its integrity counts changes. -/
def Obligations.LocalMemoryReadsWhatWasWritten : Prop :=
  ∀ (s : State) (c : CoreId) (a : Nat) (bs : List Byte), CodeClean (s.core c).lm ((s.core c).inst 0) → tabWf 0 (s.core c).lm.data = true →
    let w := lmWrite s c a bs
    let k := w.2.core c
    w.1 = [] ∧ tabWf 0 k.lm.data = true ∧ CodeClean k.lm (k.inst 0) ∧
    (lmRead w.2 c a bs.length).1 = bs ∧ (lmRead w.2 c a bs.length).2.1 = [] ∧
    (∀ j, j < a ∨ a + bs.length ≤ j → tabGet 0 k.lm.data j = tabGet 0 (s.core c).lm.data j) ∧
    k = { s.core c with lm := k.lm, insts := k.insts } ∧ (∀ n, n ≠ 0 → k.inst n = (s.core c).inst n) ∧
    (∀ d, d ≠ c → w.2.core d = s.core d) ∧ w.2 = { s with cores := w.2.cores }

/-- R80, R82, R94, R111, R133, R235, R431: a load or atomic of another unit's memory. It sends one request packet and waits; while no answer has
come it goes on waiting; with the answer it completes one tick later with the value; an error answer raises BUS_ERROR at the address. -/
def Obligations.FarLoadsAndAtomics : Prop :=
  (∀ e ∈ loads, ∀ (s : State) (i : Site) (o1 o2 : Byte) (imm : W32) (d : Dest), let l : Layout := ⟨i, e.2.1, [o1, o2], imm⟩
    let a := l.addr s o2
    let kd := takeDst (fetched s l).k o1
    Runs s l → OperandsReady (s.core i.core) i.thr [o1] [] → a.toNat % e.2.2.1 = 0 → FarOk s l a d →
    ((∀ w, ¬ AwaitsFar s l w) → ∃ t, exec (e.1 i o1 o2 imm) s = .next t ∧ Blocked s t l a d .load (fun tag => .load tag a e.2.2.1)) ∧
    (∀ w, AwaitsFar s l w → w.done = false → exec (e.1 i o1 o2 imm) s = .next (enterWait (fetched s l).s i.core i.thr w)) ∧
    (∀ w, AwaitsFar s l w → w.done = true → w.err = true → exec (e.1 i o1 o2 imm) s = .next (busFault s l .X a)) ∧
    (∀ w, AwaitsFar s l w → w.done = true → w.err = false → exec (e.1 i o1 o2 imm) s =
      .next (finishIssue ((fetched s l).s.setCore i.core kd.1) (fetched s l) .X
        [{ lat := 1, dst := kd.2, val := extendLoad e.2.2.1 e.2.2.2 (leBytes e.2.2.1 w.reply.toNat) }] none))) ∧
  (∀ e ∈ atomics, ∀ (s : State) (i : Site) (o1 o2 o3 : Byte) (die off : Nat) (d : Dest), let l : Layout := ⟨i, e.2.1, [o1, o2, o3], 0⟩
    let a := (l.th s).readG (indexOf o2)
    let kd := takeDst (sourced (fetched s l) [o3]) o1
    Runs s l → OperandsReady (s.core i.core) i.thr [o1] [o3] → a.toNat % 8 = 0 → s.classify a = .commons die off → FarOk s l a d →
    ((∀ w, ¬ AwaitsFar s l w) → ∃ t, exec (e.1 i o1 o2 o3) s = .next t ∧
      Blocked s t l a d .atomic (fun tag => .atomic tag e.2.2 a (l.src s o3))) ∧
    (∀ w, AwaitsFar s l w → w.done = false → exec (e.1 i o1 o2 o3) s = .next (enterWait (fetched s l).s i.core i.thr w)) ∧
    (∀ w, AwaitsFar s l w → w.done = true → w.err = true → exec (e.1 i o1 o2 o3) s = .next (busFault s l .X a)) ∧
    (∀ w, AwaitsFar s l w → w.done = true → w.err = false → exec (e.1 i o1 o2 o3) s =
      .next (finishIssue ((fetched s l).s.setCore i.core kd.1) (fetched s l) .X
        [{ lat := 1, dst := kd.2, val := (w.reply.truncate 64 : W64).zeroExtend 512 }] none)))

/-- R82, R134, R254, R255, R271 to R274: a store to another unit's memory, RST and CST post one packet when the router accepts it, and the
thread goes on; a router without room keeps a store from issuing. The packet of an RST that names a counter, and of every CST, waits in its
router for earlier writes of its sender to the same core; a CST's packet goes on into the buffer of its output, where it may merge (R276). -/
def Obligations.PostedStores : Prop :=
  (∀ e ∈ stores, ∀ (s : State) (i : Site) (o1 o2 : Byte) (imm : W32) (d : Dest), let l : Layout := ⟨i, e.2.1, [o1, o2], imm⟩
    let a := l.addr s o2
    Runs s l → OperandsReady (s.core i.core) i.thr [] [o1] → a.toNat % e.2.2 = 0 → FarOk s l a d →
    (routerAccepts s i.core 0 1 = false → exec (e.1 i o1 o2 imm) s = .next s) ∧
    (routerAccepts s i.core 0 1 = true → ∃ t, exec (e.1 i o1 o2 imm) s = .next t ∧
      Posted s t l a d (leBytes e.2.2 (l.src s o1).toNat) none [])) ∧
  (∀ (s : State) (i : Site) (o1 o2 : Byte) (imm : W32) (d : Dest), let l : Layout := ⟨i, 0xAC, [o1, o2], imm⟩
    let a := l.addr s o2
    Runs s l → a.toNat % 64 = 0 → FarOk s l a d → routerAccepts s i.core 0 1 = true →
    ∃ t, exec (.stv i o1 o2 imm) s = .next t ∧ Posted s t l a d (leBytes 64 (l.v s o1).toNat) none []) ∧
  (∀ (s : State) (i : Site) (o1 o2 : Byte) (imm : W32) (target : CoreId) (off : Nat), let l : Layout := ⟨i, 0xB0, [o1, o2], imm⟩
    let a := (l.th s).readG (indexOf o2)
    let vec := fileOf o1 = 1
    let raw := rawImm i.px imm
    let named := raw / 2 ^ 15 % 2 = 1
    Runs s l → OperandsReady (s.core i.core) i.thr [] (if vec then [] else [o1]) → a.toNat % (if vec then 64 else 8) = 0 →
    s.classify a = .window target off → s.rangeFaults i.core (l.th s).priv a = [] → routerAccepts s i.core 0 1 = true →
    ∃ t, exec (.rst i o1 o2 imm) s = .next t ∧ Posted s t l a (.core target)
      (if vec then leBytes 64 (l.v s o1).toNat else leBytes 8 (l.src s o1).toNat)
      (if named then some (BitVec.ofNat 5 raw) else none)
      (if named then earlierWrites s i.core target 0 false (byThread i.thr) else [])) ∧
  (∀ (s : State) (i : Site) (o1 o2 o3 : Byte) (target : CoreId) (off : Nat), let l : Layout := ⟨i, 0xB1, [o1, o2, o3], 0⟩
    let a := (l.th s).readG (indexOf o2)
    let w := l.src s o3
    let f16 := w.getLsbD 29
    Runs s l → OperandsReady (s.core i.core) i.thr [] [o3] → cairnIllegal w o1 = false → a.toNat % (if f16 then 32 else 128) = 0 →
    s.classify a = .window target off → s.rangeFaults i.core (l.th s).priv a = [] →
    routerAccepts s i.core 3 (if f16 then 1 else 2) = true →
    ∃ u, exec (.cst i o1 o2 o3) s = .next (finishIssue (settleCairn u i.core (outPort i.core (.core target)) true) (fetched s l) .X [] none) ∧
      Sent s u i.core (.core target) 3 (.cairn a (BitVec.ofNat 16 (bits w 63 48)) (BitVec.ofNat 16 (bits w 47 32)) (BitVec.ofNat 2 (bits w 31 30)) f16
          (w.getLsbD 28) (BitVec.ofNat 5 (bits w 20 16)) (cairnVals (l.th s) f16 (indexOf o1)) false false)
        (earlierWrites s i.core target 3 true (byThread i.thr)) ((s.core i.core).cairnHold == 0))

/-- R135, R225, R226: FILL, COPY, ILOAD and IVERIFY enter the unit's queue of four when their checks pass; while it is full they are not ready, and nothing
happens. FILL and COPY operations of length zero that are the oldest complete at once. -/
def Obligations.FillAndCopyEnterTheQueue : Prop :=
  (∀ (s : State) (i : Site) (o1 o2 o3 : Byte), let l : Layout := ⟨i, 0xBC, [o1, o2, o3], 0⟩
    let a := (l.th s).readG (indexOf o1)
    let n := (l.th s).readG (indexOf o2)
    Runs s l → OperandsReady (s.core i.core) i.thr [] [o3] → a.toNat % 8 = 0 → n.toNat % 8 = 0 → a.toNat + n.toNat ≤ 0x60000 →
    exec (.fill i o1 o2 o3) s = .next (fcDone s l (sourced (fetched s l) [o3]) (.fill a n (l.src s o3)))) ∧
  (∀ (s : State) (i : Site) (o1 o2 o3 : Byte), let l : Layout := ⟨i, 0xBD, [o1, o2, o3], 0⟩
    let d := (l.th s).readG (indexOf o1)
    let a := (l.th s).readG (indexOf o2)
    let n := (l.th s).readG (indexOf o3)
    Runs s l → d.toNat % 8 = 0 → a.toNat % 8 = 0 → n.toNat % 8 = 0 → a.toNat + n.toNat ≤ 0x60000 → d.toNat + n.toNat ≤ 0x60000 →
    exec (.copy i o1 o2 o3) s = .next (fcDone s l (fetched s l).k (.copy d a n))) ∧
  (∀ (s : State) (i : Site) (o1 o2 o3 : Byte), let l : Layout := ⟨i, 0xD8, [o1, o2, o3], 0⟩
    let d := (l.th s).readG (indexOf o1)
    let a := (l.th s).readG (indexOf o2)
    let n := (l.th s).readG (indexOf o3)
    Runs s l → d.toNat % 16 = 0 → a.toNat % 64 = 0 → n.toNat % 16 = 0 → n ≠ 0 → a.toNat + n.toNat ≤ 0x60000 → d.toNat + n.toNat ≤ 0x10000 →
    exec (.iload i o1 o2 o3) s = .next (fcDone s l (fetched s l).k (.iload d a n))) ∧
  (∀ (s : State) (i : Site) (o1 o2 : Byte), let l : Layout := ⟨i, 0xD9, [o1, o2], 0⟩
    let a := (l.th s).readG (indexOf o1)
    let n := (l.th s).readG (indexOf o2)
    Runs s l → a.toNat % 16 = 0 → n.toNat % 16 = 0 → n ≠ 0 → a.toNat + n.toNat ≤ 0x10000 →
    exec (.iverify i o1 o2) s = .next (fcDone s l (fetched s l).k (.iverify a n))) ∧
  (∀ (s : State) (c : Instr) (l : Layout), layout c = some l → l.op ∈ [0xBC, 0xBD, 0xD8, 0xD9] → Issues s l → guardHolds (l.th s) l.i.px = true →
    4 ≤ (s.core l.i.core).fcq.length → exec c s = .next s)

/-- R135, R138, R225 to R227: FC_OP_COMPLETE takes the oldest operation of the unit and posts its record to the thread that issued it. Of an operation
none of whose words have moved yet, FILL repeats its 8-byte value, COPY leaves the source's bytes at the destination, ILOAD leaves local memory's bytes
in the instruction store, and IVERIFY's record holds the CRC-32C of the range; no other byte changes. The operation behind it is none of length zero,
no START is held, and both memories read as written. -/
def Obligations.FillAndCopyComplete : Prop :=
  ∀ (s : State) (c : CoreId) (o : FcOp) (r : List FcOp), let k := s.core c
    isCore c = true → s.clocked = true → k.fcq = o :: r → o.moved = 0 → o.bad = false → (∀ p, r.head? = some p → p.kind.empty = false) → NoStartHeld s c →
    CodeClean k.lm (k.inst 0) → CodeClean k.istore (k.inst 1) → tabWf 0 k.lm.data = true → tabWf 0xFF k.istore.data = true →
    ∃ t, exec (.fcOpComplete c) s = .next t ∧ let k' := t.core c
      k'.fcq = r ∧ k'.me = k.me ∧ k'.chans = k.chans ∧ k'.sync = k.sync ∧ (∀ q, q ≠ o.thr → k'.thread q = k.thread q) ∧
      (∀ a n v, o.kind = .fill a n v → a.toNat % 8 = 0 → n.toNat % 8 = 0 → a.toNat + n.toNat ≤ 0x60000 →
        Posts k k' o.thr (dsyncRec 0 0x12 2 0) ∧ k'.istore = k.istore ∧
        (∀ j, tabGet 0 k'.lm.data j = if a.toNat ≤ j ∧ j < a.toNat + n.toNat then (leBytes 8 v.toNat).getD (j % 8) 0 else tabGet 0 k.lm.data j)) ∧
      (∀ d a n, o.kind = .copy d a n → d.toNat % 8 = 0 → a.toNat % 8 = 0 → n.toNat % 8 = 0 → d.toNat + n.toNat ≤ 0x60000 → a.toNat + n.toNat ≤ 0x60000 →
        Posts k k' o.thr (dsyncRec 0 0x13 2 0) ∧ k'.istore = k.istore ∧
        (∀ j, tabGet 0 k'.lm.data j = if d.toNat ≤ j ∧ j < d.toNat + n.toNat then tabGet 0 k.lm.data (a.toNat + (j - d.toNat))
          else tabGet 0 k.lm.data j)) ∧
      (∀ d a n, o.kind = .iload d a n → d.toNat % 16 = 0 → a.toNat % 64 = 0 → n.toNat % 16 = 0 → d.toNat + n.toNat ≤ 0x10000 → a.toNat + n.toNat ≤ 0x60000 →
        Posts k k' o.thr (dsyncRec 0 0x10 2 0) ∧ k'.lm.data = k.lm.data ∧
        (∀ j, tabGet 0xFF k'.istore.data j = if d.toNat ≤ j ∧ j < d.toNat + n.toNat then tabGet 0 k.lm.data (a.toNat + (j - d.toNat))
          else tabGet 0xFF k.istore.data j)) ∧
      (∀ a n, o.kind = .iverify a n → a.toNat % 16 = 0 → n.toNat % 16 = 0 → a.toNat + n.toNat ≤ 0x10000 →
        Posts k k' o.thr (dsyncRec (crc32c (getBytes 0xFF k.istore.data a.toNat n.toNat)).toNat 0x11 2 0) ∧
        k'.lm.data = k.lm.data ∧ k'.istore.data = k.istore.data)
/-- R89 to R91, R134, R274, R285, R288, R289, R292: RSEND sends 64 B of a vector register or 8 B of any other source on a BOUND binding with credit
and RSENDT a control token; a binding that is PENDING or without credit makes the thread wait, one that is UNBOUND or REFUSED raises
ALTITUDE. RRD waits on an empty ring; else it pops the oldest message, RD advances, O1 gets the payload or the token's code and O2
tells a token, and END_LOOP ends the latest loop bound to the ring. -/
def Obligations.ChannelInstructions : Prop :=
  (∀ (s : State) (i : Site) (o1 : Byte) (imm : W32), let l : Layout := ⟨i, 0xB8, [o1], imm⟩
    let n := rawImm i.px imm % 64
    Runs s l → OperandsReady (s.core i.core) i.thr [] (if fileOf o1 = 1 then [] else [o1]) →
    (MaySend s i.core n → ∃ t, exec (.rsend i o1 imm) s = .next t ∧ (fileOf o1 = 1 → MessageLeft s t l n false 0 2 (l.v s o1)) ∧
      (fileOf o1 ≠ 1 → MessageLeft s t l n false 0 0 ((l.src s o1).zeroExtend 512))) ∧
    (((s.core i.core).bind n).state = 1 ∨ (((s.core i.core).bind n).state = 2 ∧ ((s.core i.core).bind n).credit = 0) →
      exec (.rsend i o1 imm) s = .next (waitsOn s l 6 n 0)) ∧
    (((s.core i.core).bind n).state = 0 ∨ ((s.core i.core).bind n).state = 3 →
      exec (.rsend i o1 imm) s = .next (faultsWith (fetched s l) .X 0x0A (BitVec.ofNat 64 n)))) ∧
  (∀ (s : State) (i : Site) (imm : W32), let l : Layout := ⟨i, 0xB9, [], imm⟩
    let n := rawImm i.px imm % 64
    Runs s l →
    (MaySend s i.core n → ∃ t, exec (.rsendt i imm) s = .next t ∧ MessageLeft s t l n true (BitVec.ofNat 8 (rawImm i.px imm / 256)) 0 0) ∧
    (((s.core i.core).bind n).state = 1 ∨ (((s.core i.core).bind n).state = 2 ∧ ((s.core i.core).bind n).credit = 0) →
      exec (.rsendt i imm) s = .next (waitsOn s l 6 n 0)) ∧
    (((s.core i.core).bind n).state = 0 ∨ ((s.core i.core).bind n).state = 3 →
      exec (.rsendt i imm) s = .next (faultsWith (fetched s l) .X 0x0A (BitVec.ofNat 64 n)))) ∧
  (∀ (s : State) (i : Site) (o1 o2 : Byte) (imm : W32), let l : Layout := ⟨i, 0xBA, [o1, o2], imm⟩
    let n := rawImm i.px imm % 64
    let k := s.core i.core
    let r := k.ring n
    let d1 := takeDst (fetched s l).k o1
    let d2 := takeDst d1.1 o2
    let tag := ringTag k n
    let isTok := tag.getLsbD 24
    let code : Byte := BitVec.ofNat 8 (bits tag 23 16)
    let val : W512 := if isTok then code.zeroExtend 512 else ringPayload k n (if fileOf o1 = 1 then lenBytes (bits tag 26 25) else 8)
    Runs s l → OperandsReady k i.thr [o1, o2] [] →
    (r.en = false → exec (.rrd i o1 o2 imm) s = .next (faultsWith (fetched s l) .X 0x0A (BitVec.ofNat 64 n))) ∧
    (r.en = true → r.wr = r.rd → exec (.rrd i o1 o2 imm) s = .next (waitsOn s l 5 n 0)) ∧
    (r.en = true → r.wr ≠ r.rd → LmClean s i.core → ∃ t,
      exec (.rrd i o1 o2 imm) s = .next (finishIssue t (fetched s l) .X
        [{ lat := 1, dst := d1.2, val := val }, { lat := 1, dst := d2.2, val := if isTok then 1 else 0 }] none) ∧
      ((t.core i.core).ring n).rd = r.rd + 1 ∧ ((t.core i.core).ring n).wr = r.wr ∧ (t.core i.core).lm.data = k.lm.data ∧
      (t.thread i.core i.thr).loops = (if isTok = true ∧ code = 1 then endLoop n (l.th s).loops else (l.th s).loops) ∧
      (r.claims = [] → t.net = s.net ++ (match r.holder with
        | some (d, b) => [packet s 1 i.core (.core d) (.credit b (BitVec.ofNat 6 n))]
        | none => []))))

/-- R208 to R216, R291, R430: ROUTE. Without a record it completes at once; otherwise it sends one claim per record for one header and its row and
waits; with every answer in and none FENCED it sends the granted records, one header and one packet per 64 B of the row, counts them in
ROUTE_SENT and the records dropped under POLICY 0 in ROUTE_DROP, and holds no claim. A claim's arrival at a ring without a free place
under its capacity register is refused and counted, one with a place raises USED; at a ring that no capacity register guards, a claim with none before
it is granted when the ring has the slots; a withdrawal takes the grant and USED back; the answer reaches the claim. -/
def Obligations.RouteAndItsClaims : Prop :=
  (∀ (s : State) (i : Site) (o1 o2 o3 : Byte), let l : Layout := ⟨i, 0xBB, [o1, o2, o3], 0⟩
    let q := routeDesc (l.v s o1)
    let recs := routeRecs (l.v s o2)
    let ta := l.src s o3
    let claims := (l.th s).claims
    let k := s.core i.core
    Runs s l → OperandsReady k i.thr [] [o3] → LmClean s i.core →
    ((∀ w, (l.th s).wait ≠ some w) → recs = [] → routeFaults 0 (l.v s o1) [] ta = [] →
      tabGet 0 k.lm.data (ta.toNat + 2) = 0 → ∃ t, exec (.route i o1 o2 o3) s = .next t ∧ t.net = s.net ∧
        (t.thread i.core i.thr).tick = (l.th s).tick + 1 ∧ (t.core i.core).lm.data = k.lm.data) ∧
    ((∀ w, (l.th s).wait ≠ some w) → recs ≠ [] → routeFaults 0 (l.v s o1) recs ta = [] → tabGet 0 k.lm.data (ta.toNat + 2) = 0 →
      (∀ e ∈ recs, e.2.1 < leNat (getBytes 0 k.lm.data ta.toNat 2) ∧ ta.toNat + 24 + 8 * e.2.1 ≤ 0x60000 ∧
        isCore (expertCore k ta e.2.1) = true ∧ s.samePlace i.core (expertCore k ta e.2.1) = true ∧
        (s.core (expertCore k ta e.2.1)).altitude.toNat < k.altitude.toNat) →
      ∃ t, exec (.route i o1 o2 o3) s = .next t ∧ t.net.length = s.net.length + recs.length ∧
        (∀ p ∈ t.net.drop s.net.length, ∃ tag ring j, p.body = .claim tag i.thr ring j (1 + q.rowLen)) ∧
        (t.thread i.core i.thr).claims.length = recs.length ∧ (t.thread i.core i.thr).st = .waiting ∧
        ∃ w, (t.thread i.core i.thr).wait = some w ∧ w.kind = 10) ∧
    (∀ w, (l.th s).wait = some w → w.kind = 10 → claims ≠ [] → (∀ x ∈ claims, x.answer = 1 ∨ x.answer = 2) → ∃ t,
      exec (.route i o1 o2 o3) s = .next (finishIssue t (fetched s l) .X [] none) ∧ (t.thread i.core i.thr).claims = [] ∧
      t.net.length = s.net.length + (claims.filter (fun x => x.answer = 1)).length * (1 + q.rowLen) ∧
      (t.core i.core).sync.sent = k.sync.sent + BitVec.ofNat 64 (claims.filter (fun x => x.answer = 1)).length ∧
      (tabGet 0 k.lm.data (ta.toNat + 2) = 0 → bits (t.core i.core).sync.drop 62 0 =
        (bits k.sync.drop 62 0 + (claims.filter (fun x => x.answer = 2)).length) % 2 ^ 63))) ∧
  (∀ (s : State) (pkt : Nat) (p : Packet) (c : CoreId) (tag : ReqTag) (thr : BitVec 2) (ring : BitVec 6) (j slots : Nat),
    let k := s.core c
    let r := k.ring ring.toNat
    ArrivesAt s pkt p c → p.body = .claim tag thr ring j slots → r.en = true → r.mode = true →
    ((∀ n, n < 8 → (k.cap n).en = true → (k.cap n).ring ≠ ring) → r.claims = [] → r.promised + slots + r.used ≤ r.cap →
      ∃ t, exec (.routeClaimArrive pkt) s = .next t ∧ ((t.core c).ring ring.toNat).promised = r.promised + slots ∧
        NetAfter s t p.id [packet s 1 c (.core tag.core) (.claimAns tag thr j true)]) ∧
    (∀ n, n < 8 → (k.cap n).en = true → (k.cap n).ring = ring → (∀ m, m < 8 → m ≠ n → (k.cap m).en = true → (k.cap m).ring ≠ ring) →
      ((k.cap n).used.toNat < (k.cap n).limit.toNat → ∃ t, exec (.routeClaimArrive pkt) s = .next t ∧
        (t.core c).cap n = { k.cap n with used := (k.cap n).used + 1 }) ∧
      ((k.cap n).limit.toNat ≤ (k.cap n).used.toNat → ∃ t, exec (.routeClaimArrive pkt) s = .next t ∧
        (t.core c).cap n = { k.cap n with refused := satInc (k.cap n).refused } ∧ (t.core c).ring ring.toNat = r ∧
        NetAfter s t p.id [packet s 1 (destRouter p.dst) (.core tag.core) (.claimAns tag thr j false)]))) ∧
  (∀ (s : State) (pkt : Nat) (p : Packet) (c : CoreId) (thr : BitVec 2) (ring : BitVec 6) (j n : Nat) (g : RingClaim), let k := s.core c
    ArrivesAt s pkt p c → p.body = .unclaim thr ring j → (k.ring ring.toNat).grants = [g] → (k.ring ring.toNat).claims = [] →
    g.tag.core = p.src → g.thr = thr → g.j = j → g.capN = some n → ∃ t, exec (.routeClaimArrive pkt) s = .next t ∧
      ((t.core c).ring ring.toNat).grants = [] ∧
      (t.core c).cap n = { k.cap n with used := if (k.cap n).used = 0 then 0 else (k.cap n).used - 1 }) ∧
  (∀ (s : State) (pkt : Nat) (p : Packet) (c : CoreId) (tag : ReqTag) (thr : BitVec 2) (j : Nat) (granted : Bool) (r : ReqSlot),
    ArrivesAt s pkt p c → p.body = .claimAns tag thr j granted → matchSlot s tag = some r → tag.core = c →
    ∃ t, exec (.routeClaimAnswer pkt) s = .next t ∧ matchSlot t tag = none ∧
      (t.thread c thr).claims = (s.thread c thr).claims.map (fun x => if x.j = j ∧ x.answer = 0 then { x with answer := if granted then 1 else 2 } else x))

/-- R253, R285 to R293, R345: the arrivals of channel packets. A message is written to its ring at WR with its tag entry, WR advances, the counter it
names rises, and its sender gets an acknowledgement; at a ring that is disabled or full it sets ERR and writes nothing; one whose
end-to-end code fails is counted and discarded. A bind request to a free ring makes its sender the holder and answers with the ring's
free slots as credit, any other is refused with its reason; the answer makes the binding BOUND or REFUSED; an unbind frees the ring;
a credit adds one. -/
def Obligations.ChannelArrivals : Prop :=
  (∀ (s : State) (pkt : Nat) (p : Packet) (c : CoreId) (tag : ReqTag) (ring : BitVec 6) (isTok : Bool) (code : Byte) (len : Nat) (payload : W512)
      (cnt : Option (BitVec 5)), let k := s.core c
    let r := k.ring ring.toNat
    ArrivesAt s pkt p c → p.body = .msg tag ring isTok code len payload cnt none →
    (r.en = true → r.used < r.cap → LmClean s c → ∃ t, exec (.ringMessageArrive pkt true) s = .next t ∧
      (t.core c).ring ring.toNat = { r with wr := r.wr + 1 } ∧
      getBytes 0 (t.core c).lm.data (r.slotAddr r.wr) (lenBytes len) = leBytes (lenBytes len) payload.toNat ∧
      getBytes 0 (t.core c).lm.data (r.tagAddr r.wr) 8 = leBytes 8 (tagEntry len isTok code p.src).toNat ∧
      (∀ n, (t.core c).acnt n = if (cnt.map BitVec.toNat) = some n then acntAdd (k.acnt n) 1 else k.acnt n) ∧
      NetAfter s t p.id [packet s 1 c (.core tag.core) (.ack tag false)]) ∧
    (r.en = false ∨ r.cap ≤ r.used → ∃ t, exec (.ringMessageArrive pkt true) s = .next t ∧
      (t.core c).ring ring.toNat = { r with err := true } ∧ (t.core c).lm = k.lm ∧
      NetAfter s t p.id [packet s 1 c (.core tag.core) (.ack tag false)]) ∧
    (∃ t, exec (.ringMessageArrive pkt false) s = .next t ∧ (t.core c).e2e = k.e2e + 1 ∧ (t.core c).lm = k.lm ∧ NetAfter s t p.id [])) ∧
  (∀ (s : State) (pkt : Nat) (p : Packet) (c : CoreId) (tag : ReqTag) (n ring : BitVec 6) (alt : Byte), let k := s.core c
    let r := k.ring ring.toNat
    ArrivesAt s pkt p c → p.body = .bindReq tag n ring alt →
    (k.altitude.toNat < alt.toNat → r.en = true → r.mode = false → r.holder = none → s.samePlace p.src c = true →
      ∃ t, exec (.bindRequestArrive pkt) s = .next t ∧ (t.core c).ring ring.toNat = { r with holder := some (p.src, n) } ∧
        NetAfter s t p.id [packet s 1 c (.core tag.core) (.bindAns tag n 0 (BitVec.ofNat 11 (r.cap - r.used)))]) ∧
    (∀ rsn, ((alt.toNat ≤ k.altitude.toNat ∧ rsn = 1) ∨ (k.altitude.toNat < alt.toNat ∧ (r.en = false ∨ r.mode = true) ∧ rsn = 2) ∨
        (k.altitude.toNat < alt.toNat ∧ r.en = true ∧ r.mode = false ∧ r.holder ≠ none ∧ rsn = 3) ∨
        (k.altitude.toNat < alt.toNat ∧ r.en = true ∧ r.mode = false ∧ r.holder = none ∧ s.samePlace p.src c = false ∧ rsn = 4)) →
      ∃ t, exec (.bindRequestArrive pkt) s = .next t ∧ t.cores = s.cores ∧
        NetAfter s t p.id [packet s 1 c (.core tag.core) (.bindAns tag n rsn 0)])) ∧
  (∀ (s : State) (pkt : Nat) (p : Packet) (c : CoreId) (tag : ReqTag) (n : BitVec 6) (rsn : BitVec 3) (credit : BitVec 11) (r : ReqSlot),
    ArrivesAt s pkt p c → p.body = .bindAns tag n rsn credit → matchSlot s tag = some r → tag.core = c → ((s.core c).bind n.toNat).state = 1 →
    ∃ t, exec (.bindAnswerArrive pkt) s = .next t ∧ matchSlot t tag = none ∧
      (t.core c).bind n.toNat = { (s.core c).bind n.toNat with state := if rsn = 0 then 2 else 3, rsn := rsn, credit := credit }) ∧
  (∀ (s : State) (pkt : Nat) (p : Packet) (c : CoreId) (n ring : BitVec 6), ArrivesAt s pkt p c → p.body = .unbind n ring →
    ∃ t, exec (.unbindArrive pkt) s = .next t ∧ (t.core c).ring ring.toNat = (if ((s.core c).ring ring.toNat).holder = some (p.src, n) then
      { (s.core c).ring ring.toNat with holder := none } else (s.core c).ring ring.toNat)) ∧
  (∀ (s : State) (pkt : Nat) (p : Packet) (c : CoreId) (n ring : BitVec 6), let b := (s.core c).bind n.toNat
    ArrivesAt s pkt p c → p.body = .credit n ring →
    ∃ t, exec (.creditReturnArrive pkt) s = .next t ∧ NetAfter s t p.id [] ∧ (t.core c).bind n.toNat =
      (if b.state = 2 ∧ b.target = p.src ∧ b.ring = ring then { b with credit := b.credit + 1 } else b))
/-- R10 to R13, R51, R86, R97, R98, R101, R103, R228, R528, R529: registers of a core. IN gives the register two ticks later, one that counts clock cycles some
value; OUT and REGISTER_WRITE write it; an IN from a misaligned address or one from 0xD00 on faults, and so does an OUT of the integrity block without
privilege. Read-only and unassigned registers keep their values. THR_WAITTO clamps to 1 and 1,000,000, the generators replace zero, TILE_AOVF and
CAIRN_SAT clear what is written 1, an arrival counter takes bits [31:0]; a port whose binding CORE_QCFG changes is emptied unless a thread waits on it;
an alarm that is due raises its counter and disarms. Which waits keep a port is the model's reading (log 124). -/
def Obligations.CoreRegisters : Prop :=
  (∀ (s : State) (i : Site) (o1 : Byte) (imm : W32), let l : Layout := ⟨i, 0xC0, [o1], imm⟩
    let a := rawImm i.px imm
    let kd := takeDst (fetched s l).k o1
    Runs s l → OperandsReady (s.core i.core) i.thr [o1] [] →
    (a % 8 ≠ 0 → exec (.inp i o1 imm) s = .next (faultsWith (fetched s l) .X 7 (BitVec.ofNat 64 a))) ∧
    (a % 8 = 0 → 0xD00 ≤ a → exec (.inp i o1 imm) s = .next (faultsWith (fetched s l) .X 0x0D (BitVec.ofNat 64 a))) ∧
    (a % 8 = 0 → a < 0xD00 → cycleReg a = false → exec (.inp i o1 imm) s = .next (finishIssue ((fetched s l).s.setCore i.core kd.1) (fetched s l) .X
      [{ lat := 2, dst := kd.2, val := (ioLook ((fetched s l).s.setCore i.core kd.1) i.core i.thr a).zeroExtend 512 }] none)) ∧
    (a % 8 = 0 → a < 0xD00 → cycleReg a = true → ∃ v : W64, exec (.inp i o1 imm) s = .next (finishIssue
      { (fetched s l).s.setCore i.core kd.1 with freeCtr := s.freeCtr + 1 } (fetched s l) .X [{ lat := 2, dst := kd.2, val := v.zeroExtend 512 }] none))) ∧
  (∀ (s : State) (i : Site) (o1 : Byte) (imm : W32), let l : Layout := ⟨i, 0xC1, [o1], imm⟩
    let a := rawImm i.px imm
    Runs s l → OperandsReady (s.core i.core) i.thr [] [o1] → a % 8 = 0 → a < 0xD00 →
    (0xB00 ≤ a → a < 0xC00 → (l.th s).priv = false → exec (.outp i o1 imm) s = .next (faultsWith (fetched s l) .X 0x0E (BitVec.ofNat 64 a))) ∧
    (a < 0xB00 ∨ 0xC00 ≤ a ∨ (l.th s).priv = true → exec (.outp i o1 imm) s = .next (finishIssue
      (ioWrite ((fetched s l).s.setCore i.core (sourced (fetched s l) [o1])) i.core i.thr a (l.src s o1)) (fetched s l) .X [] none))) ∧
  (∀ (s : State) (c : CoreId) (t : BitVec 2) (a : W16) (v : W64), OnCore s c → a.toNat % 8 = 0 → a.toNat < 0xD00 →
    exec (.registerWrite (.io c t a) v) s = .next (ioWrite s c t a.toNat v)) ∧
  (∀ (s : State) (c : CoreId) (t : BitVec 2) (v : W64), let w := fun a => ioWrite s c t a v
    (∀ a, readOnlyIo a = true → w a = s) ∧ (∀ a, 0xC70 ≤ a → a < 0xD00 → ioLook s c t a = 0) ∧
    (ioLook (w 0x118) c t 0x118).toNat = max 1 (min 1000000 v.toNat) ∧
    (ioLook (w 0x108) c t 0x108 = if v = 0 then 0x9E3779B97F4A7C15 else v) ∧ (ioLook (w 0x110) c t 0x110 = if v = 0 then 0x9E3779B97F4A7C15 else v) ∧
    (∀ a, (a = 0x128 ∨ a = 0x138 ∨ a = 0xBD0 ∨ a = 0xBD8) → ioLook (w a) c t a = v) ∧
    ioLook (w 0x180) c t 0x180 = ioLook s c t 0x180 &&& ~~~v ∧ ioLook (w 0x1E0) c t 0x1E0 = ioLook s c t 0x1E0 &&& ~~~v ∧
    (∀ n, n < 32 → tabRising 0 (s.core c).sync.acnt = true → bits (ioLook (w (0x800 + 8 * n)) c t (0x800 + 8 * n)) 31 0 = bits v 31 0) ∧
    ioLook (w 0x980) c t 0x980 = v &&& 0xFFFFFFFF ∧ ioLook (w 0x988) c t 0x988 = v &&& 0x7FFF8 ∧ ioLook (w 0x3F8) c t 0x3F8 = v &&& 7) ∧
  (∀ (s : State) (c : CoreId) (t : BitVec 2) (v : W64), OnCore s c →
    (∃ r, exec (.thrWaittoWrite c t v) s = .next r ∧ (r.thread c t).waitTo.toNat = max 1 (min 1000000 v.toNat) ∧
      r.thread c t = { s.thread c t with waitTo := (r.thread c t).waitTo }) ∧
    (∃ r, exec (.thrRngWrite c t false v) s = .next r ∧ r.thread c t = { s.thread c t with rngS := if v = 0 then 0x9E3779B97F4A7C15 else v }) ∧
    (∃ r, exec (.thrRngWrite c t true v) s = .next r ∧ (r.thread c t).rngM = (if v = 0 then 0x9E3779B97F4A7C15 else v) ∧
      (r.thread c t).rngS = (s.thread c t).rngS ∧ tabGet 0 (r.thread c t).rngOld (s.thread c t).rngEpoch = (s.thread c t).rngM ∧
      (r.thread c t).rngEpoch = (s.thread c t).rngEpoch + 1) ∧
    (∃ r, exec (.coreQcfgWrite c v) s = .next r ∧ ∀ p, p < 8 → tabRising 0 (s.core c).ports = true →
      let keep := bits v (4 * p + 3) (4 * p) = bits (s.core c).qcfg (4 * p + 3) (4 * p) ∨ (s.core c).portAwaited p = true
      (keep → bits (r.core c).qcfg (4 * p + 3) (4 * p) = bits (s.core c).qcfg (4 * p + 3) (4 * p) ∧ (r.core c).port p = (s.core c).port p) ∧
      (¬ keep → bits (r.core c).qcfg (4 * p + 3) (4 * p) = bits v (4 * p + 3) (4 * p) ∧ (r.core c).port p = [])) ∧
    (∀ now, let al := (s.thread c t).alarm
      let due := al.getLsbD 63 = true ∧ ((bits al 57 0 + 2 ^ 58 - bits (s.atTime now).time 57 0) % 2 ^ 58 = 0 ∨
        2 ^ 57 ≤ (bits al 57 0 + 2 ^ 58 - bits (s.atTime now).time 57 0) % 2 ^ 58)
      (¬ due → exec (.alarmFire c t now) s = .next (s.atTime now)) ∧
      (due → ∃ r, exec (.alarmFire c t now) s = .next r ∧ (r.thread c t).alarm.getLsbD 63 = false ∧
        (r.core c).acnt (bits al 62 58) = acntAdd ((s.core c).acnt (bits al 62 58)) 1)))

/-- R80, R136 to R139, R295, R296: WAIT issues once the counter has reached bits [31:0] of its source, MSYNC once at most n matrix operations of the
thread are incomplete, with the count and the clamp bits, DSYNC with the oldest completion record; otherwise each waits. BAR marks the
thread's arrival at a slot of which it is a member and waits; once released it completes. The arrival of a member core reaches the plane when ARRIVED
covers THRMASK, and an arrival taken back since is withdrawn there unless the slot is complete; when every member's has arrived and some member has
a nonzero THRMASK or a thread that waits, the release advances the phase, clears the arrivals and lets the threads go. THRMASK changes at once, or with the
next phase while a thread of the core waits in BAR on the slot; outside a placement a write changes nothing. -/
def Obligations.WaitsAndBarriers : Prop :=
  (∀ (s : State) (i : Site) (o1 : Byte) (imm : W32), let l : Layout := ⟨i, 0xDC, [o1], imm⟩
    let n := rawImm i.px imm % 32
    let v := bits (l.src s o1) 31 0
    Runs s l → OperandsReady (s.core i.core) i.thr [] [o1] →
    exec (.wait i o1 imm) s = .next (if v ≤ bits ((s.core i.core).acnt n) 31 0 then
      finishIssue ((fetched s l).s.setCore i.core (sourced (fetched s l) [o1])) (fetched s l) .X [] none else waitsOn s l 7 n v)) ∧
  (∀ (s : State) (i : Site) (o1 : Byte) (imm : W32), let l : Layout := ⟨i, 0xDD, [o1], imm⟩
    let n := rawImm i.px imm % 16
    let m := ((s.core i.core).me.queue.filter (fun o => o.thr == i.thr)).length
    let kd := takeDst (fetched s l).k o1
    Runs s l → OperandsReady (s.core i.core) i.thr [o1] [] →
    exec (.msync i o1 imm) s = .next (if n < m then waitsOn s l 3 n 0 else
      finishIssue ((fetched s l).s.setCore i.core (kd.1.setThread i.thr { kd.1.thread i.thr with clamped := false })) (fetched s l) .M
        [{ lat := 1, dst := kd.2, val := BitVec.ofNat 512 (m * 256 + (if (l.th s).clamped = true then 0x11 else 0)) }] none)) ∧
  (∀ (s : State) (i : Site) (o1 : Byte), let l : Layout := ⟨i, 0xDE, [o1], 0⟩
    let kd := takeDst (fetched s l).k o1
    Runs s l → OperandsReady (s.core i.core) i.thr [o1] [] →
    exec (.dsync i o1) s = .next (match (l.th s).records with
      | [] => waitsOn s l 4 0 0
      | r :: rest => finishIssue ((fetched s l).s.setCore i.core (kd.1.setThread i.thr ((kd.1.thread i.thr).setRecords rest))) (fetched s l) .X
          [{ lat := 1, dst := kd.2, val := r.zeroExtend 512 }] none)) ∧
  (∀ (s : State) (i : Site) (imm : W32), let l : Layout := ⟨i, 0xDF, [], imm⟩
    let n := rawImm i.px imm % 16
    let b := (s.core i.core).bar n
    Runs s l →
    ((l.th s).wait = none → ∃ t, exec (.bar i imm) s = .next t ∧ (t.thread i.core i.thr).st = .waiting ∧
      (t.thread i.core i.thr).wait = some { kind := 8, index := n, arg := b.phase.toNat, begun := s.time } ∧
      (t.core i.core).bar n = (if b.member = true ∧ b.mask.getLsbD i.thr.toNat = true then
        { b with arrived := b.arrived ||| ((1 : BitVec 4) <<< i.thr.toNat) } else b)) ∧
    (∀ w, (l.th s).wait = some w → w.done = true → exec (.bar i imm) s = .next (finishIssue (fetched s l).s (fetched s l) .X [] none))) ∧
  (∀ (s : State) (c : CoreId) (n : BitVec 4) (v : W64), let b := (s.core c).bar n.toNat
    OnCore s c →
    (b.member = false → exec (.barrierArrival c n) s = .next s) ∧
    (b.member = true → b.arrived &&& b.mask = b.mask → exec (.barrierArrival c n) s = .next (s.setCore c ((s.core c).setBar n.toNat { b with plane := true }))) ∧
    (b.member = true → b.arrived &&& b.mask ≠ b.mask → exec (.barrierArrival c n) s = .next (if barComplete s (memberCores s c n.toNat) n.toNat = true then s
      else s.setCore c ((s.core c).setBar n.toNat { b with plane := false }))) ∧
    ((s.core c).place ≠ none → ∃ t, exec (.barThrmaskWrite c n v) s = .next t ∧
      ((∃ q, inBar (s.thread c q) n.toNat = true) → (t.core c).bar n.toNat = { b with maskNext := some (BitVec.ofNat 4 (bits v 3 0)) }) ∧
      ((∀ q, inBar (s.thread c q) n.toNat = false) → ((t.core c).bar n.toNat).mask = BitVec.ofNat 4 (bits v 3 0) ∧
        ((t.core c).bar n.toNat).arrived = b.arrived ∧ ((t.core c).bar n.toNat).phase = b.phase)) ∧
    ((s.core c).place = none → exec (.barThrmaskWrite c n v) s = .next s)) ∧
  (∀ (s : State) (place : Nat) (n : BitVec 4), s.clocked = true →
    let cs := (s.placeCores place).filter (fun c => ((s.core c).bar n.toNat).member)
    let complete := cs ≠ [] ∧ (∀ c ∈ cs, ((s.core c).bar n.toNat).plane = true) ∧
      ∃ c ∈ cs, ((s.core c).bar n.toNat).mask ≠ 0 ∨ ∃ t, inBar (s.thread c t) n.toNat = true
    (¬ complete → exec (.barrierRelease place n) s = .next s) ∧
    (complete → cs.Nodup → ∃ t, exec (.barrierRelease place n) s = .next t ∧ ∀ c ∈ cs, let b := (s.core c).bar n.toNat
      (t.core c).bar n.toNat = { b with arrived := 0, plane := false, phase := b.phase + 1, mask := b.maskNext.getD b.mask, maskNext := none } ∧
      ∀ q, inBar (s.thread c q) n.toNat = true → ((t.thread c q).wait.map (·.done)) = some true))

/-- R51, R71, R73, R81, R87, R93, R100, R102, R105 to R110, R139, R198: the control of threads. START makes a stopped or faulted thread with no earlier engine
work outstanding run from START_PC with the values of R71, and is held while such work remains; in any other state it sets START_PC alone. PARK and UNPARK
keep the state and the time that a wait has left, and act in no other state. STOP leaves the thread stopped, without a wait and without results held back,
and keeps its fault record, tick and PC. A wait that has lasted THR_WAITTO raises WAIT_TIMEOUT with its object, here of a core in no placement.
ASYNC_FAULT_DELIVERY makes a thread take the asynchronous fault that reaches it next, recorded with ASYNC, or with MULTI beside an earlier record; a failed
vector check takes back the one result in flight and the generator. Bytes in which no opcode is found raise the lowest of ILLEGAL_ENCODING,
PREFIX_CONFLICT, LENGTH_OVERFLOW and, past 0xFFFF, SPACE_VIOLATION; a reserved opcode raises ILLEGAL_ENCODING. -/
def Obligations.ThreadControl : Prop :=
  (∀ (s : State) (c : CoreId) (t : BitVec 2) (pc : W16), let th := s.thread c t
    OnCore s c →
    ((th.st = .stopped ∨ th.st = .faulted) → (s.core c).busyFor t = false → ∃ r, exec (.thrStart c t pc) s = .next r ∧
      FreshThread (r.thread c t) th pc ∧ (r.core c).sh = (s.core c).sh ∧ (r.core c).lm = (s.core c).lm ∧ ∀ q, q ≠ t → r.thread c q = s.thread c q) ∧
    ((th.st = .stopped ∨ th.st = .faulted) → (s.core c).busyFor t = true → ∃ r, exec (.thrStart c t pc) s = .next r ∧
      r.thread c t = { th with startPc := pc, startHeld := true }) ∧
    (th.st ≠ .stopped → th.st ≠ .faulted → ∃ r, exec (.thrStart c t pc) s = .next r ∧ r.thread c t = { th with startPc := pc }) ∧
    (∃ r, exec (.thrPark c t) s = .next r ∧
      ((th.st = .running ∨ th.st = .waiting) → (r.thread c t).st = .parked ∧ (r.thread c t).parkedFrom = th.st) ∧
      (th.st ≠ .running → th.st ≠ .waiting → r = s) ∧
      (∀ w, th.st = .waiting → th.wait = some w → w.spent.toNat + s.since w.begun < 2 ^ 64 →
        (r.thread c t).wait.map (fun w' => w'.spent.toNat) = some (w.spent.toNat + s.since w.begun))) ∧
    (∃ r, exec (.thrUnpark c t) s = .next r ∧ (th.st = .parked → (r.thread c t).st = th.parkedFrom ∧
        ∀ w, th.wait = some w → (r.thread c t).wait = some { w with begun := s.time }) ∧ (th.st ≠ .parked → r = s)) ∧
    (∃ r, exec (.thrStop c t) s = .next r ∧ (r.thread c t).st = .stopped ∧ (th.st ≠ .stopped → (r.thread c t).wait = none ∧ (r.thread c t).pend = []) ∧
      (r.thread c t).fault = th.fault ∧ (r.thread c t).faddr = th.faddr ∧ (r.thread c t).tick = th.tick ∧ (r.thread c t).pc = th.pc)) ∧
  (∀ (s : State) (c : CoreId) (t : BitVec 2) (now : W64) (w : Wait), let th := s.thread c t
    OnCore s c → th.st = .waiting → th.wait = some w → waitHolds (s.atTime now) c t w = false →
    (w.spent.toNat + (s.atTime now).since w.begun < th.waitTo.toNat * 1000 → exec (.waitTimeout c t now) s = .next (s.atTime now)) ∧
    (th.waitTo.toNat * 1000 ≤ w.spent.toNat + (s.atTime now).since w.begun → (s.core c).place = none → ∃ r, exec (.waitTimeout c t now) s = .next r ∧
      FaultedWith (r.thread c t) th 0x0C (waitObject w) false ∧ (r.thread c t).tick = th.tick)) ∧
  (∀ (s : State) (c : CoreId) (t : BitVec 2) (f : AsyncFault), let th := s.thread c t
    OnCore s c → nextAsync th.async = some f → f.code ≠ 0 → ∃ r, exec (.asyncFaultDelivery c t none) s = .next r ∧ (r.thread c t).async = th.async.erase f ∧
      (r.thread c t).st = .faulted ∧ (bits th.fault 7 0 = 0 → bits (r.thread c t).fault 7 0 = f.code.toNat ∧ (r.thread c t).fault.getLsbD 9 = true ∧
        bits (r.thread c t).fault 47 32 = f.pc.toNat ∧ (r.thread c t).faddr = f.addr) ∧
      (bits th.fault 7 0 ≠ 0 → (r.thread c t).fault = th.fault ||| 0x100 ∧ (r.thread c t).faddr = th.faddr)) ∧
  (∀ (s : State) (c : CoreId) (t : BitVec 2) (n : BitVec 5) (w : Pend), let th := s.thread c t
    OnCore s c → th.st = .running → th.wait = none → th.pend = [w] → w.dst = .v n.toNat → ∃ r, exec (.asyncFaultDelivery c t (some n)) s = .next r ∧
      (r.thread c t).readV n.toNat = th.readV n.toNat ∧ (r.thread c t).rngS = w.rng ∧ FaultedWith (r.thread c t) th 0x0B (BitVec.ofNat 64 n.toNat) true) ∧
  (∀ (s : State) (c : CoreId) (t : BitVec 2) (bytes : List Byte), let th := s.thread c t
    let sc := scanBytes 17 bytes [] 0 false false
    let enter := fun code addr => takeFault (s.setCore c (movePtr (s.core c) .S t)) c t code th.pc addr
    let first := firstBytes (s.core c) th.pc bytes
    OnCore s c → (th.st = .running ∨ th.st = .waiting) → th.asyncDue = false → slotGrants s c t .S = true → (sc.opcode = true → 15 < sc.count) →
    (sc.reserved = true → exec (.undecodable c t bytes) s = .next (enter 1 first)) ∧
    (sc.reserved = false → sc.dup = true → exec (.undecodable c t bytes) s = .next (enter 2 first)) ∧
    (sc.reserved = false → sc.dup = false → 15 < sc.count → exec (.undecodable c t bytes) s = .next (enter 3 first)) ∧
    (sc.reserved = false → sc.dup = false → sc.count ≤ 15 → th.past = true → exec (.undecodable c t bytes) s = .next (enter 0x0D 0x10000))) ∧
  (∀ (s : State) (c : CoreId) (t : BitVec 2) (opc : Byte), let l : Layout := ⟨⟨c, t, []⟩, opc.toNat, [], 0⟩
    opSig opc.toNat = none → CanIssue s l → InStore s l → FetchClean s l → Granted s l →
    exec (.reservedOpcode ⟨c, t, []⟩ opc) s = .next (faultsWith (fetched s l) (opSlot opc.toNat) 1 (firstBytes (fetched s l).k (l.th s).pc [opc])))

/-- R217, R218, R284, R286, R288 to R291: writes of the channel registers. An accepted write of a disabled ring's RING_CTL sets BASE, SIZE, MODE and EN and,
when it enables the ring, WR and RD to zero; a refused one sets ERR alone. CHAN_BIND of an unbound binding with EN sends a bind request
and is PENDING, or is REFUSED outside the placement; while PENDING a write is ignored; clearing EN of a BOUND binding on which no thread waits
unbinds it and tells the ring. ROUTE_CAP takes its fields as written; MM is cleared by writing 1. -/
def Obligations.ChannelRegisterWrites : Prop :=
  (∀ (s : State) (c : CoreId) (n : BitVec 6) (v : W64), let r := (s.core c).ring n.toNat
    isCore c = true →
    (ringRefused r v = true → ∃ t, exec (.ringCtlWrite c n v) s = .next t ∧ (t.core c).ring n.toNat = { r with err := true } ∧ t.net = s.net) ∧
    (ringRefused r v = false → r.en = false → v.getLsbD 0 = true → r.claims = [] → ∃ t, exec (.ringCtlWrite c n v) s = .next t ∧
      let r' := (t.core c).ring n.toNat
      r'.en = true ∧ r'.wr = 0 ∧ r'.rd = 0 ∧ r'.base.toNat = bits v 15 5 ∧ r'.size.toNat = bits v 19 16 ∧ r'.mode = v.getLsbD 20 ∧
      r'.addr + 64 * r'.cap + 8 * r'.cap ≤ 0x60000) ∧
    (ringRefused r v = false → r.en = true → v.getLsbD 0 = true → r.claims = [] → ∃ t, exec (.ringCtlWrite c n v) s = .next t ∧
      let r' := (t.core c).ring n.toNat
      r'.rd.toNat = bits v 47 32 ∧ r'.wr = r.wr ∧ r'.base = r.base ∧ r'.used ≤ r.used ∧
      (r.holder ≠ none → t.net.length = s.net.length + (r.used - r'.used)))) ∧
  (∀ (s : State) (c : CoreId) (n : BitVec 6) (v : W64), let b := (s.core c).bind n.toNat
    let target : CoreId := BitVec.ofNat 14 (bits v 13 0)
    isCore c = true →
    ((b.state = 0 ∨ b.state = 3) → v.getLsbD 63 = true → isCore target = true → s.samePlace c target = true → (s.core c).place ≠ none →
      ∃ t tag, exec (.chanBindWrite c n v) s = .next t ∧ ((t.core c).bind n.toNat).state = 1 ∧ ((t.core c).bind n.toNat).target = target ∧
        ((t.core c).bind n.toNat).ring.toNat = bits v 19 14 ∧ matchSlot t tag ≠ none ∧
        t.net = s.net ++ [packet s 0 c (.core target) (.bindReq tag n (BitVec.ofNat 6 (bits v 19 14)) (s.core c).altitude)]) ∧
    ((b.state = 0 ∨ b.state = 3) → v.getLsbD 63 = true → isCore target = false ∨ s.samePlace c target = false →
      ∃ t, exec (.chanBindWrite c n v) s = .next t ∧ ((t.core c).bind n.toNat).state = 3 ∧ ((t.core c).bind n.toNat).rsn = 4 ∧ t.net = s.net) ∧
    (b.state = 1 → ∃ t, exec (.chanBindWrite c n v) s = .next t ∧ (t.core c).bind n.toNat = { b with ign := true } ∧ t.net = s.net) ∧
    (b.state = 2 → v.getLsbD 63 = false → (s.core c).awaitsCredit n.toNat = false → ∃ t, exec (.chanBindWrite c n v) s = .next t ∧
      ((t.core c).bind n.toNat).state = 0 ∧ t.net = s.net ++ [packet s 2 c (.core b.target) (.unbind n b.ring)])) ∧
  (∀ (s : State) (c : CoreId) (n : BitVec 3) (v : W64), isCore c = true → ∃ t, exec (.routeCapWrite c n v) s = .next t ∧
    let x := (t.core c).cap n.toNat
    x.en = v.getLsbD 63 ∧ x.mm = (((s.core c).cap n.toNat).mm && !v.getLsbD 62) ∧ x.ring.toNat = bits v 53 48 ∧ x.limit.toNat = bits v 47 32 ∧
    x.used.toNat = bits v 31 16 ∧ x.refused.toNat = bits v 15 0)
/-- R237 to R250, R274: the DMA channels. START of an IDLE channel reads the 64 B at DESC and makes the channel ACTIVE for the issuing thread when they keep
the rules, and halts it INVALID when DESC is misaligned or outside local memory; STOP, RESUME and ABORT act in the states of the table and set IGN in any
other. A read packet of a move without gather brings source bytes up to the row's end and the next 64 B boundary into the buffer, or asks for them; a write
packet takes them to local memory or to another core, with the counter that the descriptor names. A failed packet whose retries are spent halts the channel
with its address and a halted record; a descriptor whose bytes are all written posts its full record when asked to and, without NEXT, leaves the channel
IDLE; a stopping channel without packets in flight is STOPPED. -/
def Obligations.DmaChannels : Prop :=
  ∀ (s : State) (c : CoreId) (n : BitVec 3), let k := s.core c
    let x := chanAt s c n
    OnCore s c →
    (∀ thr, x.st ≠ .idle → exec (.dmaStart c thr n) s = .next (s.setChan c n.toNat { x with ign := true })) ∧
    (∀ thr, x.st = .idle → (x.desc.toNat % 64 ≠ 0 ∨ 0x60000 < x.desc.toNat + 64) → NoStartHeld s c → ∃ t, exec (.dmaStart c thr n) s = .next t ∧
      (chanAt t c n).st = .haltedInvalid ∧ (chanAt t c n).errStat = 0x0D ∧ PostsRecord s t c { x with evthr := thr, bytes := 0 } n 3 0x0D) ∧
    (∀ thr, x.st = .idle → x.desc.toNat % 64 = 0 → x.desc.toNat + 64 ≤ 0x60000 → LmClean s c →
      let bs := getBytes 0 k.lm.data x.desc.toNat 64
      descFieldsOk (descOf bs) = true → descRangesOk s c (s.thread c thr).priv (descOf bs) = true → ∃ t, exec (.dmaStart c thr n) s = .next t ∧
        let y := chanAt t c n
        y.st = .active ∧ y.words = bs ∧ y.thr = thr ∧ y.evthr = (descOf bs).evthr ∧ y.pos = 0 ∧ y.bytes = 0 ∧ y.rd = 0 ∧ y.wr = 0 ∧ y.buf = [] ∧
        t.net = s.net ∧ (t.core c).lm.data = k.lm.data) ∧
    (exec (.dmaStop c n) s = .next (s.setChan c n.toNat (if x.st = .active then { x with st := .stopping } else { x with ign := true }))) ∧
    (∃ t, exec (.dmaResume c n) s = .next t ∧
      (x.st ≠ .stopped → x.st ≠ .haltedBus → t = s.setChan c n.toNat { x with ign := true }) ∧
      ((x.st = .stopped ∨ x.st = .haltedBus) → x.words ≠ [] → (chanAt t c n).st = .active ∧ (chanAt t c n).rd = x.seqFrom x.pos.toNat ∧ (chanAt t c n).words = x.words)) ∧
    (∃ t, exec (.dmaAbort c n) s = .next t ∧
      ((x.st = .stopped ∨ x.st = .haltedBus ∨ x.st = .haltedInvalid) → (chanAt t c n).st = .idle ∧ (chanAt t c n).buf = [] ∧ (chanAt t c n).outs = []) ∧
      (x.st ≠ .stopped → x.st ≠ .haltedBus → x.st ≠ .haltedInvalid → t = s.setChan c n.toNat { x with ign := true })) ∧
    (x.st = .active → x.words ≠ [] → routerAccepts s c 0 1 = true → x.d.mode = 0 → x.d.isGather = false → x.moreToRead = true → k.dmaHeld + 64 ≤ 0x8000 →
      let a := x.d.rowSrc (x.rd / x.d.len0) + BitVec.ofNat 64 (x.rd % x.d.len0)
      let m := min (x.d.len0 - x.rd % x.d.len0) (64 - a.toNat % 64)
      (a.toNat < 0x60000 → LmClean s c → ∃ t, exec (.dmaPacket c n true) s = .next t ∧ (chanAt t c n).rd = max x.rd (x.rd + m) ∧
        ∀ j, j < m → tabGet 0 (chanAt t c n).buf (x.rd + j) = tabGet 0 k.lm.data (a.toNat + j)) ∧
      (∀ d, 0x60000 ≤ a.toNat → s.destOf (s.classify a) = some d → ∃ t tag, exec (.dmaPacket c n true) s = .next t ∧ (chanAt t c n).rd = max x.rd (x.rd + m) ∧
        Sent s t c d 0 (.load tag a m) [] true ∧ ((matchSlot t tag).map (·.kind)) = some (.dmaRead n x.gen x.rd))) ∧
    (∀ total a bs, x.st = .active → x.words ≠ [] → routerAccepts s c 0 1 = true → x.dstTotal = some total → x.wr < total → dstPiece x x.wr = some (a, bs) →
      let cnt := if x.d.cntEn = true ∧ (x.d.inc = false ∨ x.wr + bs.length = total) then some x.d.acnt else none
      (a.toNat < 0x60000 → LmClean s c → ∃ t, exec (.dmaPacket c n false) s = .next t ∧ getBytes 0 (t.core c).lm.data a.toNat bs.length = bs ∧
        (∀ q, (t.core c).acnt q = if cnt.map BitVec.toNat = some q then acntAdd (k.acnt q) 1 else k.acnt q)) ∧
      (∀ d off, s.classify a = .window d off → ∃ t tag, exec (.dmaPacket c n false) s = .next t ∧
        Sent s t c (.core d) 0 (.store tag a bs cnt) (if cnt.isSome then earlierWrites s c d 0 false (byChannel n) else []) true)) ∧
    (∀ a off kind rest, x.bad = (a, off, kind) :: rest → (x.st = .active ∨ x.st = .stopping) →
      (tabGet (0, k.dmaRetry.toNat) x.tries (4 * off + kind)).2 ≤ (tabGet (0, k.dmaRetry.toNat) x.tries (4 * off + kind)).1 → NoStartHeld s c → ∃ t, exec (.dmaPacketError c n) s = .next t ∧ (chanAt t c n).st = .haltedBus ∧ (chanAt t c n).errStat = 8 ∧
        (chanAt t c n).errAddr = a ∧ (chanAt t c n).bad = [] ∧ PostsRecord s t c x n 3 8) ∧
    (x.bad = [] → exec (.dmaPacketError c n) s = .next s) ∧
    (x.st = .active → x.words ≠ [] → x.bad = [] → x.dstTotal = some x.dstDone → x.d.next = 0 → x.d.evh = false → NoStartHeld s c →
      let b : W64 := BitVec.ofNat 64 (if x.d.mode = 0 then x.dstDone else x.dstDone - x.d.exps)
      ∃ t, exec (.dmaDescriptorComplete c n) s = .next t ∧ (chanAt t c n).st = .idle ∧ (chanAt t c n).bytes = b ∧
        (x.d.evf = true → PostsRecord s t c { x with bytes := b } n 2 0) ∧ (x.d.evf = false → ∀ q, (t.thread c q).records = (s.thread c q).records)) ∧
    (x.st = .stopping → k.dmaInFlight n.toNat = false → NoStartHeld s c → ∃ t, exec (.dmaStopDrained c n) s = .next t ∧
      (chanAt t c n).st = .stopped ∧ (chanAt t c n).errStat = 4 ∧ PostsRecord s t c x n 3 4)

/-- R251 to R258, R265, R266, R271 to R280, R345: the mesh. Every packet not at its destination's router has a link that brings it one router nearer, the
X distance first; a link that is neither held nor fenced moves the packet that it has to replay, or that arbitration picks, a response first, to the next
router, counts its flits and leaves every other where it is, here of a network without cairn packets. A flit that fails its check is replayed eight times; then the link's traffic is held and the failure reported, until a bridge edge
takes a spare link. A hold that ends frees the packet. The final combine of a cairn packet adds, or takes the greater or lesser of, each value of
its block, saturating or wrapping, raises the counter by the contributors and leaves every other byte; one whose code fails is discarded. -/
def Obligations.MeshAndCairn : Prop :=
  (∀ (r : CoreId) (d : Dest), isCore r = true → isCore (destRouter d) = true →
    (outPort r d = .loc ↔ r = destRouter d) ∧
    (r ≠ destRouter d → ∃ n, neighbour r (outPort r d) = some n ∧ isCore n = true ∧ distance n (destRouter d) + 1 = distance r (destRouter d)) ∧
    (coreX r ≠ coreX (destRouter d) → outPort r d = .east ∨ outPort r d = .west)) ∧
  (∀ (s : State) (r n : CoreId) (o : Port) (ok : Bool), OnCore s r → neighbour r o = some n → tabGet false s.linkHold (linkNo r o) = false →
    s.linkFenced r o = false → (∀ p ∈ s.net, p.cls ≠ 3) → tabRising 0 (s.core r).perf = true →
    (pickPacket s r o n = none → exec (.meshFlitForward r o ok) s = .next s) ∧
    (∀ p, pickPacket s r o n = some p → p ∈ s.net ∧ p.at_ = r ∧ outPort r p.dst = o ∧
      (tabLook (s.core r).replay (portNo o) = none → p.cls ≠ 1 → ∀ q ∈ mergeCandidates s r o n, q.cls ≠ 1) ∧
      ∃ t, exec (.meshFlitForward r o ok) s = .next t ∧ t.net = s.net.filter (fun q => q.id ≠ p.id) ++ [{ p with at_ := n, inp := opposite o, out := false }] ∧
        tabGet 0 (t.core r).perf 0x0C40 = tabGet 0 (s.core r).perf 0x0C40 + BitVec.ofNat 64 (flits p))) ∧
  (∀ (s : State) (r n : CoreId) (o : Port), OnCore s r → neighbour r o = some n → tabGet false s.linkHold (linkNo r o) = false → s.linkFenced r o = false → n ≠ r →
    tabRising 0 s.linkHold = true → (pickPacket s r o n).isSome = true →
    (tabGet 0 (s.core r).crcFails (portNo o) < 8 → ∃ t, exec (.flitCrcFail r o) s = .next t ∧
      tabGet 0 (t.core r).crcFails (portNo o) = tabGet 0 (s.core r).crcFails (portNo o) + 1 ∧ t.net = s.net ∧ t.linkHold = s.linkHold) ∧
    (8 ≤ tabGet 0 (s.core r).crcFails (portNo o) → ∃ t, exec (.flitCrcFail r o) s = .next t ∧ tabGet false t.linkHold (linkNo r o) = true ∧ t.net = s.net ∧
      s.err.reports.length < t.err.reports.length ∧ (∀ ok, ∃ u, exec (.meshFlitForward r o ok) t = .next u ∧ u = t))) ∧
  (∀ (s : State) (r n : CoreId) (o : Port) (e : Nat), isCore r = true → neighbour r o = some n → bridgeEdge r n o = some e →
    tabRising 0 s.linkHold = true → tabGet false s.linkHold (linkNo r o) = true → tabGet 0 s.links e < 2 → ∃ t, exec (.bridgeSpareSwitch r o) s = .next t ∧
      tabGet false t.linkHold (linkNo r o) = false ∧ tabGet 0 t.links e = tabGet 0 s.links e + 1 ∧ t.net = s.net) ∧
  (∀ (s : State) (pkt : Nat), s.clocked = true → ∃ t, exec (.cairnHoldExpiry pkt) s = .next t ∧ t.net.length = s.net.length ∧
    ∀ p ∈ s.net, (if p.id = pkt ∧ afterClear s p = true then { p with free := true } else p) ∈ t.net) ∧
  (∀ (s : State) (pkt : Nat) (p : Packet) (c : CoreId) (a : W64) (id n : W16) (op : BitVec 2) (f16 sat : Bool) (cnt : BitVec 5)
      (vals : List (BitVec 40)) (cl wr : Bool), let k := s.core c
    let off := a.toNat % 0x100000
    let w := if f16 then 16 else 40
    let old := fun j => toSigned w (leNat (getBytes 0 k.lm.data (off + (if f16 then 2 else 8) * j) (if f16 then 2 else 8)))
    let new := fun (t : State) j => toSigned w (leNat (getBytes 0 (t.core c).lm.data (off + (if f16 then 2 else 8) * j) (if f16 then 2 else 8)))
    let v := fun j => toSigned w ((vals.getD j 0).toNat)
    ArrivesAt s pkt p c → p.body = .cairn a id n op f16 sat cnt vals cl wr → vals.length = 16 → n ≠ 0 → LmClean s c →
    (∃ t, exec (.cairnFinalCombine pkt true) s = .next t ∧
      (∀ j, j < 16 → new t j = if op = 1 then max (old j) (v j) else if op = 2 then min (old j) (v j) else (satWrap sat w (old j + v j)).1) ∧
      (∀ j, j < off ∨ off + (if f16 then 32 else 128) ≤ j → tabGet 0 (t.core c).lm.data j = tabGet 0 k.lm.data j) ∧
      (t.core c).acnt cnt.toNat = acntAdd (k.acnt cnt.toNat) n.toNat) ∧
    (∃ t, exec (.cairnFinalCombine pkt false) s = .next t ∧ (t.core c).e2e = k.e2e + 1 ∧ (t.core c).lm = k.lm ∧ (t.core c).acnt cnt.toNat = k.acnt cnt.toNat))

/-- R82, R222, R230, R235, R319 to R324, R334 to R336, R429 to R434: requests at memories and their answers. A remote write stores its bytes, raises the
counter it names and is acknowledged, a far read of local memory is answered with the bytes. At a commons slice a load answers the
bytes, an atomic leaves its result and answers the old value, a write is acknowledged and queued; at HBM a load of an unwritten page answers zeros
and a write is acknowledged and queued, of a unit that reads as written. A reply that matches the open slot of a waiting load or atomic completes it, an
acknowledgement of a store or message raises its counter, and a FENCED answer completes a load or atomic with an error and gives a store's thread an
asynchronous BUS_ERROR; a reply that matches no slot counts in INT_STALE. -/
def Obligations.RequestsAndAnswers : Prop :=
  (∀ (s : State) (pkt : Nat) (p : Packet) (c : CoreId) (tag : ReqTag) (a : W64), let k := s.core c
    let off := a.toNat % 0x100000
    ArrivesAt s pkt p c → LmClean s c →
    (∀ bs cnt, p.body = .store tag a bs cnt → ∃ t, exec (.remoteWriteArrive pkt) s = .next t ∧ getBytes 0 (t.core c).lm.data off bs.length = bs ∧
      (∀ j, j < off ∨ off + bs.length ≤ j → tabGet 0 (t.core c).lm.data j = tabGet 0 k.lm.data j) ∧
      (∀ q, (t.core c).acnt q = if cnt.map BitVec.toNat = some q then acntAdd (k.acnt q) 1 else k.acnt q) ∧
      NetAfter s t p.id [packet s 1 c (.core tag.core) (.ack tag false)]) ∧
    (∀ m, p.body = .load tag a m → ∃ t, exec (.remoteWriteArrive pkt) s = .next t ∧ (t.core c).lm.data = k.lm.data ∧
      NetAfter s t p.id [packet s 1 c (.core tag.core) (.reply tag (BitVec.ofNat 512 (leNat (getBytes 0 k.lm.data off m))) false)])) ∧
  (∀ (s : State) (pkt : Nat) (p : Packet) (die : BitVec 3) (sl : BitVec 5) (tag : ReqTag) (a : W64) (d off : Nat),
    let key := sliceKey d off
    AtMemory s pkt p → p.dst = .slice die sl → s.classify a = .commons d off → SliceClean s key → tabGet [] s.writeQ (destQueue p.dst) = [] →
    (∀ m, p.body = .load tag a m → ∃ t, exec (.commonsRequestArrive pkt) s = .next t ∧ (t.slice key).data = (s.slice key).data ∧
      NetAfter s t p.id [{ packet s 1 (destRouter p.dst) (.core tag.core)
        (.reply tag (BitVec.ofNat 512 (leNat (getBytes 0 (s.slice key).data (sliceOff off) m))) false) with tile := true }]) ∧
    (∀ op v, p.body = .atomic tag op a v → let old : W64 := BitVec.ofNat 64 (leNat (getBytes 0 (s.slice key).data (sliceOff off) 8))
      ∃ t, exec (.commonsRequestArrive pkt) s = .next t ∧
        BitVec.ofNat 64 (leNat (getBytes 0 (t.slice key).data (sliceOff off) 8)) =
          (if op = 0 then old + v else if op = 1 then BitVec.ofInt 64 (min old.toInt v.toInt) else if op = 2 then BitVec.ofInt 64 (max old.toInt v.toInt) else v) ∧
        NetAfter s t p.id [{ packet s 1 (destRouter p.dst) (.core tag.core) (.reply tag (old.zeroExtend 512) false) with tile := true }]) ∧
    (∀ bs cnt, p.body = .store tag a bs cnt → ∃ t, exec (.commonsRequestArrive pkt) s = .next t ∧
      tabGet [] t.writeQ (destQueue p.dst) = [{ src := p.src, addr := a, bytes := bs }] ∧
      NetAfter s t p.id [{ packet s 1 (destRouter p.dst) (.core tag.core) (.ack tag false) with tile := true }])) ∧
  (∀ (s : State) (pkt : Nat) (p : Packet) (die : BitVec 3) (h : BitVec 6) (tag : ReqTag) (a : W64) (d off m : Nat),
    AtMemory s pkt p → p.dst = .hbm die h → s.classify a = .hbm d off → tabGet [] s.writeQ (destQueue p.dst) = [] →
    off % 64 + m ≤ 64 → UnitClean s (s.home d off).1 (s.home d off).2 → (s.home d off).2 % 64 = off % 64 →
    (∀ bs cnt, p.body = .store tag a bs cnt → bs.length = m → ∃ t, exec (.hbmRequestArrive pkt) s = .next t ∧
      tabGet [] t.writeQ (destQueue p.dst) = [{ src := p.src, addr := a, bytes := bs }] ∧ t.hbm = s.hbm ∧
      NetAfter s t p.id [{ packet s 1 (destRouter p.dst) (.core tag.core) (.ack tag false) with tile := true }]) ∧
    (p.body = .load tag a m → ∃ t, exec (.hbmRequestArrive pkt) s = .next t ∧ NetAfter s t p.id [{ packet s 1 (destRouter p.dst) (.core tag.core)
      (.reply tag (BitVec.ofNat 512 (leNat (unitBytes s (s.home d off).1 (s.home d off).2 m))) false) with tile := true }])) ∧
  (∀ (s : State) (pkt : Nat) (p : Packet) (c : CoreId) (tag : ReqTag), ArrivesAt s pkt p c → tag.core = c →
    (∀ val err, p.body = .reply tag val err →
      (∀ r w, matchSlot s tag = some r → r.kind = .load ∨ r.kind = .atomic → (s.thread c r.thr).wait = some w → w.kind = 9 → w.slot = some (tag.slot, r.epoch) →
        ∃ t, exec (.farResponseArrive pkt) s = .next t ∧ matchSlot t tag = none ∧ Answered t c r.thr val err) ∧
      (matchSlot s tag = none → ∃ t, exec (.farResponseArrive pkt) s = .next t ∧ (t.core c).stale = (s.core c).stale + 1 ∧
        (t.core c).threads = (s.core c).threads)) ∧
    (p.body = .ack tag false → ∀ r, matchSlot s tag = some r → r.kind = .store ∨ r.kind = .send → ∃ t, exec (.writeAckArrive pkt) s = .next t ∧
      matchSlot t tag = none ∧ (t.core c).threads = (s.core c).threads ∧
      ∀ q, (t.core c).acnt q = if r.cnt.map BitVec.toNat = some q then acntAdd ((s.core c).acnt q) 1 else (s.core c).acnt q) ∧
    (p.body = .fenced tag → ∀ r, matchSlot s tag = some r →
      (∀ w, r.kind = .load ∨ r.kind = .atomic → (s.thread c r.thr).wait = some w → w.kind = 9 → w.slot = some (tag.slot, r.epoch) →
        ∃ t, exec (.fencedAnswerArrive pkt) s = .next t ∧ matchSlot t tag = none ∧ Answered t c r.thr 0 true) ∧
      (r.kind = .store → ∃ t, exec (.fencedAnswerArrive pkt) s = .next t ∧ matchSlot t tag = none ∧
        (t.thread c r.thr).async = (s.thread c r.thr).async ++ [{ code := 9, pc := r.pc, addr := r.addr, ord := r.ord, at_ := s.time }])))
/-- R342 to R344, R348 to R350: a word and its code. A word written reads back; a word with a detected error reads as poison from then on, counts in UE
and its address stands in INT_UEADDR; a poisoned word counts in PRD alone; a corrected error counts in CE, is logged once and waits
to be written back. A write clears the poison of its word and no other. -/
def Obligations.ErrorCorrection : Prop :=
  ∀ (dflt : Byte) (m : EccMem) (i : Inst) (w : Nat) (d : W64), tabWf dflt m.data = true → tabRising 0 m.chk = true → tabRising 0 i.wb = true → i.remap = [] →
    eccRead dflt (memWrite dflt m i w d).1 w = .ok d ∧ tabLook (memWrite dflt m i w d).2.wb w = none ∧
    tabWf dflt (memWrite dflt m i w d).1.data = true ∧
    (∀ v, v ≠ w → eccRead dflt (memWrite dflt m i w d).1 v = eccRead dflt m v) ∧
    (∀ x, eccRead dflt m w = .ok x → memRead dflt m i w = (.ok x, m, i)) ∧
    (eccRead dflt m w = .bad → (memRead dflt m i w).1 = .bad ∧ eccRead dflt (memRead dflt m i w).2.1 w = .poisoned ∧
      (memRead dflt m i w).2.2.ue = satInc i.ue ∧ (memRead dflt m i w).2.2.ueV = true ∧ (memRead dflt m i w).2.2.ueAddr = BitVec.ofNat 48 (8 * w) ∧
      (memRead dflt m i w).2.2.ce = i.ce ∧ (∀ v, v ≠ w → eccRead dflt (memRead dflt m i w).2.1 v = eccRead dflt m v)) ∧
    (eccRead dflt m w = .poisoned → memRead dflt m i w = (.poisoned, m, { i with prd := satInc i.prd })) ∧
    (∀ x b, eccRead dflt m w = .corr x b → (memRead dflt m i w).1 = .corr x b ∧ (memRead dflt m i w).2.1 = m ∧ (memRead dflt m i w).2.2.ce = satInc i.ce ∧
      (memRead dflt m i w).2.2.log = (if i.log.any (fun e => e.2 = 8 * w) = false ∧ i.log.length < 8 then i.log ++ [(b, 8 * w)] else i.log) ∧
      (memRead dflt m i w).2.2.logovf = (i.logovf || (!i.log.any (fun e => e.2 = 8 * w) && decide (8 ≤ i.log.length))) ∧ tabLook (memRead dflt m i w).2.2.wb w = some x)

/-- R346 to R361, R503: the integrity commands. INT_LOGCLR clears the log, RAW_ACCESS_COMPLETE clears BUSY; WRITE_RAW and READ_RAW do nothing while EN is 0 or a
command is in progress, else they store the test data and check bits unchanged, or fetch them, at INT_TADDR. A remap entry that is set valid
takes the value of its location, and every word of a clean local memory reads as before; its address cannot change while it is valid. A scrub read of a good
word changes no word, one of a bad word poisons and reports it, and the last location ends a pass. A write-back stores the corrected
value while no write has come between. -/
def Obligations.IntegrityCommands : Prop :=
  (∀ (s : State) (r : MemRef) (i : Inst), InstAt s r i →
    (∃ t, exec (.intLogclr r) s = .next t ∧ t.memInst r = some { i with log := [], logovf := false }) ∧
    (∃ t, exec (.rawAccessComplete r) s = .next t ∧ t.memInst r = some { i with busy := 0 }) ∧
    (i.testEn = false ∨ i.busy ≠ 0 → exec (.writeRaw r) s = .next s ∧ exec (.readRaw r) s = .next s) ∧
    (∀ n v, (tabGet {} i.remap (BitVec.toNat (n : BitVec 3))).v = true → BitVec.ofNat 48 (bits v 47 0) ≠ (tabGet {} i.remap n.toNat).addr →
      ∃ t, exec (.intRemapWrite r n v) s = .next t ∧ t.memInst r = some { i with remap := tabPut i.remap n.toNat { tabGet {} i.remap n.toNat with ign := true } })) ∧
  (∀ (s : State) (c : CoreId), let i := (s.core c).inst 0
    let a := testAddr i
    let m := (s.core c).lm
    isCore c = true → i.remap = [] → tabWf 0 m.data = true → tabRising 0 m.chk = true →
    (i.testEn = true → i.busy = 0 → a < 0x60000 →
      (∃ t, exec (.writeRaw (.core c 0)) s = .next t ∧ eccData 0 (t.core c).lm (a / 8) = i.tdata.truncate 64 ∧
        tabLook (t.core c).lm.chk (a / 8) = some (i.tchk.truncate 8) ∧ ((t.core c).inst 0).busy = 1 ∧
        (∀ j, j < a ∨ a + 8 ≤ j → tabGet 0 (t.core c).lm.data j = tabGet 0 m.data j)) ∧
      (∃ t, exec (.readRaw (.core c 0)) s = .next t ∧ ((t.core c).inst 0).tdata = (eccData 0 m (a / 8)).zeroExtend 512 ∧
        ((t.core c).inst 0).tchk = ((tabLook m.chk (a / 8)).getD (Config.secded (eccData 0 m (a / 8)))).zeroExtend 128 ∧
        ((t.core c).inst 0).busy = 2 ∧ (t.core c).lm = m)) ∧
    (∀ n v, m.chk = [] → v.getLsbD 63 = true → ∃ t, exec (.intRemapWrite (.core c 0) n v) s = .next t ∧
      let i' := (t.core c).inst 0
      (tabGet {} i'.remap n.toNat).v = true ∧ (tabGet {} i'.remap n.toNat).addr.toNat = bits v 47 0 ∧
      ∀ w, 8 * w < 0x60000 → (memRead 0 (t.core c).lm i' w).1 = (memRead 0 m i w).1) ∧
    (∀ off, off < 0x60000 → ∃ t, exec (.scrubRead (.core c 0) off) s = .next t ∧
      (∀ x, eccRead 0 m (off / 8) = .ok x → (t.core c).lm = m) ∧
      (eccRead 0 m (off / 8) = .bad → eccRead 0 (t.core c).lm (off / 8) = .poisoned ∧ t.err.reports.length = s.err.reports.length + 1) ∧
      ((t.core c).inst 0).passes = (if off / 8 = 0x60000 / 8 - 1 then i.passes + 1 else i.passes)) ∧
    (∀ off, (tabLook i.wb (off / 8) = none → exec (.eccWriteback (.core c 0) off) s = .next s) ∧
      (∀ d, tabLook i.wb (off / 8) = some d → ∃ t, exec (.eccWriteback (.core c 0) off) s = .next t ∧ eccRead 0 (t.core c).lm (off / 8) = .ok d ∧
        ∀ w, w ≠ off / 8 → eccRead 0 (t.core c).lm w = eccRead 0 m w)))
/-- R485 to R488, R496, R498: completion entries and doorbells. An entry posted to a ring with a free place is written at the tail in the layout of R496 with the
ring's phase, the tail moves on and the phase inverts where it wraps; at COUNT entries the ring's MSI-X message leaves; a full ring
holds the entry. A doorbell within the ring and not past the opposite pointer moves it, any other is counted in DB_ERR; a completion head that
frees a place lets the oldest held notice be written. The coalescing timer sends the message of a ring TIME µs old. -/
def Obligations.RingsAndDoorbells : Prop :=
  (∀ (s : State) (q : QRef) (x : Qp) (c : Completion), s.qp? q = some x →
    (x.cqFull = true → post s q c = s.setQp q { x with held := x.held ++ [c] }) ∧
    (x.cqFull = false → x.held = [] → tabWf 0 s.hostMem = true →
      let t := post s q c
      let a := (x.cqAddr + BitVec.ofNat 64 (32 * x.cqTail)).toNat
      let wraps := decide ((x.cqTail + 1) % x.cqSize = 0)
      hostNat t a 4 = c.handle.toNat ∧ hostNat t (a + 4) 1 = c.status.toNat ∧ hostNat t (a + 5) 1 = c.reason.toNat ∧ hostNat t (a + 6) 1 = c.kind.toNat ∧
      hostNat t (a + 7) 1 = (if x.phase then 1 else 0) ∧ hostNat t (a + 8) 8 = c.hostTag.toNat ∧ hostNat t (a + 16) 2 = x.sqHead % 65536 ∧
      hostNat t (a + 18) 2 = 0 ∧ hostNat t (a + 20) 4 = c.info1.toNat ∧ hostNat t (a + 24) 8 = c.info2.toNat ∧ HostKept s t a 32 ∧
      (∃ y, t.qp? q = some y ∧ y.cqTail = (x.cqTail + 1) % x.cqSize ∧ y.phase = (x.phase != wraps) ∧ y.held = [] ∧ y.cqHead = x.cqHead ∧
        y.sqHead = x.sqHead ∧ y.sqTail = x.sqTail) ∧
      t.out = (if x.vector ≠ 0xFFFF ∧ x.count.toNat ≤ x.unsig + 1 ∧ x.vector.toNat < s.vectors q.fn then .msix q.fn x.vector :: s.out else s.out))) ∧
  (∀ (s : State) (f : FnRef) (q : BitVec 12) (v : W64), s.present f = true → tabRising 0 s.fns = true → s.phase = .ready ∨ (s.phase = .boot ∧ q = 0) →
    (s.qp? ⟨f, q⟩ = none → ∃ t, exec (.sqTailDoorbell f q v) s = .next t ∧ (t.fn f).dbErr = (s.fn f).dbErr + 1 ∧ t.qps = s.qps) ∧
    (s.qp? ⟨f, q⟩ = none → ∃ t, exec (.cqHeadDoorbell f q v) s = .next t ∧ (t.fn f).dbErr = (s.fn f).dbErr + 1 ∧ t.qps = s.qps) ∧
    (∀ x, s.qp? ⟨f, q⟩ = some x → x.sqHead < x.sqSize → x.sqTail < x.sqSize → x.cqHead < x.cqSize → x.cqTail < x.cqSize →
      let n := bits v 15 0
      (n < x.sqSize → (∃ k, k + (x.sqTail + x.sqSize - x.sqHead) % x.sqSize < x.sqSize ∧ n = (x.sqTail + k) % x.sqSize) →
        exec (.sqTailDoorbell f q v) s = .next (settleSnow (s.setQp ⟨f, q⟩ { x with sqTail := n }))) ∧
      (¬ (n < x.sqSize ∧ ∃ k, k + (x.sqTail + x.sqSize - x.sqHead) % x.sqSize < x.sqSize ∧ n = (x.sqTail + k) % x.sqSize) → ∃ t, exec (.sqTailDoorbell f q v) s = .next t ∧ (t.fn f).dbErr = (s.fn f).dbErr + 1 ∧ t.qps = s.qps) ∧
      (n < x.cqSize → (∃ k, k ≤ (x.cqTail + x.cqSize - x.cqHead) % x.cqSize ∧ n = (x.cqHead + k) % x.cqSize) →
        (x.held = [] → exec (.cqHeadDoorbell f q v) s = .next (s.setQp ⟨f, q⟩ { x with cqHead := n })) ∧
        (∀ c, x.held = [c] → (x.cqTail + 1) % x.cqSize ≠ n → ∃ t y, exec (.cqHeadDoorbell f q v) s = .next t ∧ t.qp? ⟨f, q⟩ = some y ∧ y.held = [] ∧
          y.cqHead = n ∧ y.cqTail = (x.cqTail + 1) % x.cqSize)) ∧
      (¬ (n < x.cqSize ∧ ∃ k, k ≤ (x.cqTail + x.cqSize - x.cqHead) % x.cqSize ∧ n = (x.cqHead + k) % x.cqSize) → ∃ t, exec (.cqHeadDoorbell f q v) s = .next t ∧ (t.fn f).dbErr = (s.fn f).dbErr + 1 ∧ t.qps = s.qps))) ∧
  (∀ (s : State) (q : QRef) (x : Qp) (now u : W64), s.qp? q = some x → x.since = some u → u.toNat ≤ s.time.toNat → s.time.toNat ≤ now.toNat →
    1000 * x.timeUs.toNat ≤ now.toNat - u.toNat → ∃ t y, exec (.msixCoalesceTimer q now) s = .next t ∧ t.qp? q = some y ∧ y.since = none ∧ y.unsig = 0 ∧
      t.out = (if x.vector.toNat < s.vectors q.fn then .msix q.fn x.vector :: s.out else s.out))

/-- R375, R480, R489, R490: every submission entry is checked before it acts. An entry of a queue pair that does not exist is no entry; before READY, and on
an admin queue once the controllers have stopped for good, it completes NOT_READY; an entry of the wrong kind of queue, or with a
field that its opcode does not use and that is not zero, completes INVALID_ENTRY; one whose bytes could not be fetched completes 0x08; one that needs a fenced
Plinth block completes FENCED (R425; log 135); an administrative one waits while the controllers restart, a serving one while the scheduler hardware reloads. -/
def Obligations.HostEntriesAreChecked : Prop :=
  ∀ (s : State) (c : Instr) (h : HostCmd) (u : Uses), hostRow c = some (h, u) →
    (s.qp? h.q = none ∨ s.up = false → exec c s = .next s) ∧
    ((s.qp? h.q).isSome = true → s.phase = .boot → exec c s = .next (finish (taken s h) h 0x0E)) ∧
    ((s.qp? h.q).isSome = true → s.phase = .ready →
      (h.q.q = 0 → s.err.ctlStopped = true → exec c s = .next (finish (taken s h) h 0x0E)) ∧
      ((h.q.q = 0 → s.err.ctlStopped = false) →
        (u.admin ≠ (h.q.q == 0) → exec c s = .next (finish (taken s h) h 0x0D)) ∧
        (unusedZero u h.e = false → exec c s = .next (finish (taken s h) h 0x0D)) ∧
        (u.admin = (h.q.q == 0) → unusedZero u h.e = true → u.addr1 = true → h.data = none → exec c s = .next (finish (taken s h) h 0x08)) ∧
        (u.admin = (h.q.q == 0) → unusedZero u h.e = true → (u.addr1 = true → h.data.isSome = true) → entryFenced (taken s h) h u = true →
          exec c s = .next (finish (taken s h) h 0x07)) ∧
        (u.admin = (h.q.q == 0) → unusedZero u h.e = true → (u.addr1 = true → h.data.isSome = true) → entryFenced (taken s h) h u = false →
            u.admin = true → s.err.ctlRestart = true →
          exec c s = .next (holdCtl (taken s h) c)) ∧
        (u.admin = (h.q.q == 0) → unusedZero u h.e = true → (u.addr1 = true → h.data.isSome = true) → entryFenced (taken s h) h u = false →
            u.sched = true → s.err.schReload = true →
          exec c s = .next (holdSch (taken s h) c))))

/-- R482 to R484, R495: a function's queue pairs and its window. HST_AQEN sets the admin queue pair up or abandons it; CREATE_QP gives the lowest free number, or
completes REFUSED at the function's limit or at the package's 4,096; DELETE_QP of a pair that has live requests is refused without its force option and otherwise
removes it, here of a pair without live requests. A window access outside the partition's HBM, or in a step area that holds a sealed request's plaintext
(R30; log 135), returns all ones or is dropped and counts in WIN_ERR; one inside, of a unit that reads as written and is not fenced, reads and
writes HBM at WIN_BASE plus its offset. WIN_BASE keeps a 1 GiB aligned value. -/
def Obligations.QueuePairsAndWindow : Prop :=
  (∀ (s : State) (f : FnRef) (v : W64), s.present f = true → s.up = true → tabRising 0 s.fns = true → tabRising 0 s.qps = true →
    (v.getLsbD 0 = (s.fn f).aqEn → exec (.hstAqenWrite f v) s = .next (settleSnow s)) ∧
    (v.getLsbD 0 = true → (s.fn f).aqEn = false → ∃ t y, exec (.hstAqenWrite f v) s = .next t ∧ (t.fn f).aqEn = true ∧ t.qp? ⟨f, 0⟩ = some y ∧
      y.sqAddr = (s.fn f).aqSq ∧ y.cqAddr = (s.fn f).aqCq ∧ y.sqSize = (s.fn f).aqSqs.toNat + 1 ∧ y.cqSize = (s.fn f).aqCqs.toNat + 1 ∧ y.phase = true ∧
      y.sqHead = 0 ∧ y.sqTail = 0 ∧ y.cqHead = 0 ∧ y.cqTail = 0 ∧ y.held = []) ∧
    (v.getLsbD 0 = false → (s.fn f).aqEn = true → ∃ t, exec (.hstAqenWrite f v) s = .next t ∧ (t.fn f).aqEn = false ∧ t.qp? ⟨f, 0⟩ = none ∧
      ∀ k, k ≠ qpKey ⟨f, 0⟩ → tabLook t.qps k = tabLook s.qps k)) ∧
  (∀ (s : State) (h : HostCmd), let f := h.q.fn
    let r := taken s h
    let sq := bits h.e.len1 15 0 + 1
    let cq := bits h.e.len1 31 16 + 1
    let lim := match partNo f with | none => 16 | some p => (tabGet ({} : PartCfg) s.set.parts p).qps.toNat
    Acts (.createQp h) h s →
    (sq < 2 ∨ cq < 2 → exec (.createQp h) s = .next (finish r h 0x0D)) ∧
    (2 ≤ sq → 2 ≤ cq → lim ≤ r.qpCount (fnsOf (partNo f)) ∨ 4096 ≤ r.qpTotal → exec (.createQp h) s = .next (finish r h 0x03)) ∧
    (∀ n, 1 ≤ n → n < 4096 → 2 ≤ sq → 2 ≤ cq → r.qpCount (fnsOf (partNo f)) < lim → r.qpTotal < 4096 → tabLook s.qps (qpKey ⟨f, BitVec.ofNat 12 n⟩) = none →
      (∀ m, 1 ≤ m → m < n → (tabLook s.qps (qpKey ⟨f, BitVec.ofNat 12 m⟩)).isSome = true) →
      exec (.createQp h) s = .next (finish (r.setQp ⟨f, BitVec.ofNat 12 n⟩
        { sqAddr := h.e.addr1, cqAddr := h.e.outAddr, sqSize := sq, cqSize := cq, vector := BitVec.ofNat 16 (bits h.e.arg 15 0)
          count := BitVec.ofNat 8 (bits h.e.arg 23 16), timeUs := BitVec.ofNat 8 (bits h.e.arg 31 24) }) h 0 (BitVec.ofNat 32 n)))) ∧
  (∀ (s : State) (h : HostCmd), let q : QRef := ⟨h.q.fn, h.e.index.truncate 12⟩
    let r := taken s h
    let live := r.ctxs.filter (fun e => e.2.live && e.2.q == q)
    Acts (.deleteQp h) h s →
    (h.e.index = 0 ∨ 4096 ≤ h.e.index.toNat ∨ r.qp? q = none → exec (.deleteQp h) s = .next (finish r h 0x0D)) ∧
    (h.e.index ≠ 0 → h.e.index.toNat < 4096 → (r.qp? q).isSome = true →
      (live ≠ [] → h.e.flags.getLsbD 3 = false → exec (.deleteQp h) s = .next (finish r h 0x03)) ∧
      (live = [] → exec (.deleteQp h) s = .next (settleSnow (finish { r with qps := tabDel r.qps (qpKey q) } h 0))))) ∧
  (∀ (s : State) (f : FnRef) (p : Nat) (off : BitVec 36), let a : W64 := (s.fn f).winBase + off.zeroExtend 64
    s.present f = true → s.phase = .ready → tabRising 0 s.fns = true →
    (∀ (len : BitVec 7) (bs : List Byte), bs ≠ [] →
      partNo f = none ∨ (∀ d o, s.classify a ≠ .hbm d o) ∨ (partNo f = some p ∧ ∃ d o, s.classify a = .hbm d o ∧
        ((tabGet ({} : PartCfg) s.set.parts p).dies.getLsbD d = false ∨ (s.hbmReserved < o + len.toNat ∧ s.hbmReserved < o + bs.length) ∨
          (s.sealedRange p a.toNat len.toNat = true ∧ s.sealedRange p a.toNat bs.length = true))) →
      (∃ t, exec (.bar4Read f off len) s = .next t ∧ t.out = .readData f (List.replicate len.toNat 0xFF) :: s.out ∧
        (t.fn f).winErr = (s.fn f).winErr + 1 ∧ t.hbm = s.hbm) ∧
      (∃ t, exec (.bar4Write f off bs) s = .next t ∧ t.out = s.out ∧ (t.fn f).winErr = (s.fn f).winErr + 1 ∧ t.hbm = s.hbm)) ∧
    (∀ (d o : Nat) (n : BitVec 7) (bs : List Byte), bs ≠ [] → bs.length = n.toNat → partNo f = some p → s.classify a = .hbm d o →
      (tabGet ({} : PartCfg) s.set.parts p).dies.getLsbD d = true → o + n.toNat ≤ s.hbmReserved → o % 64 + n.toNat ≤ 64 → s.writeQ = [] →
      (s.home d o).2 % 64 = o % 64 → UnitClean s (s.home d o).1 (s.home d o).2 → s.sealedRange p a.toNat n.toNat = false →
      s.offFenced d o = false → s.rangeFenced d o n.toNat = false →
      (∃ t, exec (.bar4Read f off n) s = .next t ∧ t.hbm = s.hbm ∧ t.fns = s.fns ∧
        t.out = .readData f (unitBytes s (s.home d o).1 (s.home d o).2 n.toNat) :: s.out) ∧
      (∃ t, exec (.bar4Write f off bs) s = .next t ∧ t.out = s.out ∧ t.fns = s.fns ∧ unitBytes t (s.home d o).1 (s.home d o).2 n.toNat = bs))) ∧
  (∀ (s : State) (f : FnRef) (v : W64), s.present f = true → s.phase = .ready → tabRising 0 s.fns = true →
    ∃ t, exec (.registerWrite (.bar0 f 0x08) v) s = .next t ∧ (t.fn f).winBase = v &&& 0xFFFFFFFFC0000000 ∧ (t.fn f).winErr = (s.fn f).winErr ∧ t.hbm = s.hbm)

/-- R303, R337, R338, R374, R490, R493, R499 to R502: the administrative commands. A contract block is recorded field by field with its clamps, and reads back so; a
bad header, version, length or object records nothing. A load segment extends the weights, the last one records them and LOAD_SEQ; a
READY slot refuses it, and one out of order has no effect. An unload with live requests needs the force option. ZERO_RANGE leaves its pages
zero, here of a die without an interleaved region over them, and completes when every controller has. A placement without load images is created over cores
that stand at their reset values, each entry with its core's width (R182, R502), and its end frees them. -/
def Obligations.AdministrativeCommands : Prop :=
  (∀ (s : State) (h : HostCmd) (p : Nat) (bs : List Byte), let r := taken s h
    let k := ctrKey p h.e.arg.toNat
    let b := bs.take h.e.len1.toNat
    partNo h.q.fn = some p → h.data = some bs → Acts (.cfgWrite h) h s →
    (b.length < 16 ∨ field b 0 2 ≠ h.e.index.toNat ∨ field b 2 2 ≠ 1 ∨ field b 4 4 < 16 ∨ h.e.index = 0 ∨ h.e.index = 1 ∨ 4 < h.e.index.toNat ∨
        256 ≤ h.e.arg.toNat ∨ (h.e.index = 3 ∧ 16 ≤ h.e.arg.toNat) →
      exec (.cfgWrite h) s = .next (finish r h 0x0D)) ∧
    (h.e.index = 2 → h.e.arg.toNat < 256 → 58 ≤ b.length → field b 0 2 = 2 → field b 2 2 = 1 → 58 ≤ field b 4 4 →
      let cfg := contractOf b (unreserved r k (field b 18 2))
      ∃ status map, exec (.cfgWrite h) s = .next (finish { r with set := { r.set with contracts := tabPut r.set.contracts k cfg } } h status 0 map) ∧
        (status = 0 ↔ map = 0) ∧ (status = 0 ∨ status = 1) ∧
        (field b 16 1 ≤ 2 → cfg.rate.toNat = field b 20 4 → cfg.burst.toNat = field b 24 4 → cfg.conc.toNat = field b 28 4 → cfg.kvReserve.toNat = field b 32 4 →
          cfg.ttftP50.toNat = field b 36 4 → cfg.ttftP99.toNat = field b 40 4 → cfg.itlP99.toNat = field b 44 4 → cfg.itlP999.toNat = field b 48 4 →
          cfg.maxDefer.toNat = field b 52 4 → status = 0) ∧
        (2 < field b 16 1 → map.getLsbD 0 = true) ∧ (cfg.conc.toNat ≠ field b 28 4 → map.getLsbD 4 = true))) ∧
  (∀ (s : State) (h : HostCmd) (p : Nat), let r := taken s h
    let c := tabGet ({} : ContractCfg) s.set.contracts (ctrKey p h.e.arg.toNat)
    partNo h.q.fn = some p → Acts (.cfgRead h) h s →
    (h.e.index = 1 ∨ 4 < h.e.index.toNat ∨ 256 ≤ h.e.arg.toNat → exec (.cfgRead h) s = .next (finish r h 0x0D)) ∧
    (h.e.index = 2 → h.e.arg.toNat < 256 → ∃ b, exec (.cfgRead h) s = .next (finish (hostWrite r h.e.addr1 (b.take h.e.len1.toNat)) h 0) ∧ b.length = 58 ∧
      field b 0 2 = 2 ∧ field b 2 2 = 1 ∧ field b 4 4 = 58 ∧ field b 8 8 = 0 ∧ field b 16 1 = c.cls.toNat ∧ field b 18 2 = c.slots.toNat ∧
      field b 20 4 = c.rate.toNat ∧ field b 24 4 = c.burst.toNat ∧ field b 28 4 = c.conc.toNat ∧ field b 32 4 = c.kvReserve.toNat ∧
      field b 36 4 = c.ttftP50.toNat ∧ field b 40 4 = c.ttftP99.toNat ∧ field b 44 4 = c.itlP99.toNat ∧ field b 48 4 = c.itlP999.toNat ∧
      field b 52 4 = c.maxDefer.toNat ∧ field b 56 2 = c.deferDepth.toNat)) ∧
  (∀ (s : State) (h : HostCmd) (p : Nat) (bs : List Byte), let r := taken s h
    let k := slotKey p h.e.index.toNat
    let m := s.mslot k
    let c := s.slotCfg k
    let off := h.e.arg.toNat * 65536
    let n := h.e.len1.toNat
    partNo h.q.fn = some p → h.data = some bs → bs.length = n → Acts (.slotLoad h) h s →
    (16 ≤ h.e.index.toNat → exec (.slotLoad h) s = .next (finish r h 0x0D)) ∧
    (h.e.index.toNat < 16 →
      (m.ready = true → exec (.slotLoad h) s = .next (finish r h 0x03)) ∧
      (m.ready = false → (off ≠ 0 ∧ off ≠ m.loaded) ∨ c.weightLen.toNat < off + n ∨ (off + n < c.weightLen.toNat ∧ n % 65536 ≠ 0) →
        exec (.slotLoad h) s = .next (finish r h 0x0D)) ∧
      (m.ready = false → (off = 0 ∨ (off = m.loaded ∧ m.weights = none ∧ m.wbytes.length = m.loaded)) → off + n ≤ c.weightLen.toNat →
        (off + n < c.weightLen.toNat → n % 65536 = 0) → (n = 0 ∨ inPartHbm r p (c.weightBase + BitVec.ofNat 64 off) n = true) →
        let all := (if off = 0 then [] else m.wbytes) ++ bs
        ∃ t, exec (.slotLoad h) s = .next t ∧ (t.mslot k).loaded = off + n ∧
          (off + n < c.weightLen.toNat → (t.mslot k).weights = none ∧ (t.mslot k).wbytes = all ∧ (t.mslot k).loadSeq = m.loadSeq ∧ (t.mslot k).ready = false) ∧
          (off + n = c.weightLen.toNat → (t.mslot k).weights = some (Config.sha384 all) ∧ (t.mslot k).loadSeq = m.loadSeq + 1)))) ∧
  (∀ (s : State) (h : HostCmd) (p : Nat), let r := taken s h
    let k := slotKey p h.e.index.toNat
    let live := s.ctxs.filter (fun e => e.2.live && e.2.slotKey == k)
    partNo h.q.fn = some p → Acts (.slotUnload h) h s → h.e.index.toNat < 16 →
    (live ≠ [] → h.e.flags.getLsbD 3 = false → exec (.slotUnload h) s = .next (finish r h 0x03)) ∧
    (live = [] ∨ h.e.flags.getLsbD 3 = true → ∃ t, exec (.slotUnload h) s = .next t ∧ (t.mslot k).ready = false ∧ (t.mslot k).weights = none ∧
      (t.mslot k).place = none ∧ (t.mslot k).step = none ∧ (t.mslot k).loaded = 0)) ∧
  (∀ (s : State) (h : HostCmd) (p d o : Nat), let n := h.e.len1.toNat * 4096
    partNo h.q.fn = some p → Acts (.zeroRange h) h s → s.classify h.e.addr1 = .hbm d o →
    (h.e.addr1.toNat % 4096 ≠ 0 ∨ (tabGet ({} : PartCfg) s.set.parts p).dies.getLsbD d = false ∨ s.hbmReserved < o + n →
      exec (.zeroRange h) s = .next (finish (taken s h) h 0x0D)) ∧
    (h.e.addr1.toNat % 4096 = 0 → o % 4096 = 0 → (tabGet ({} : PartCfg) s.set.parts p).dies.getLsbD d = true → o + n ≤ s.hbmReserved →
      (∀ x, s.home d x = (d, x) ∧ s.unhome d x = (d, x)) → ∃ t, exec (.zeroRange h) s = .next t ∧
        t.zeroJobs = s.zeroJobs ++ [{ id := s.jobCtr, q := h.q, hostTag := h.e.hostTag }] ∧
        (∀ x, o ≤ x → x < o + n → tabGet false t.hbm.pages (pageOf d x) = false) ∧ t.cores = s.cores)) ∧
  (∀ (s : State) (id : Nat),
    (s.zeroJobs.find? (fun j => j.id == id) = none → exec (.zeroRangeComplete id) s = .next s) ∧
    (∀ j, s.zeroJobs.find? (fun j => j.id == id) = some j → exec (.zeroRangeComplete id) s =
      .next (post { s with zeroJobs := s.zeroJobs.filter (fun x => x.id != id) } j.q (cmdDone j.status j.hostTag 0 j.info2)))) ∧
  (∀ (s : State) (h : HostCmd) (p : Nat) (bs : List Byte), let r := taken s h
    let k := placeKey p h.e.index.toNat
    let raws := rawEntries bs (tabGet ({} : PlaceCfg) s.set.places k).cores.toNat
    let es := raws.map (fun b => (coreEntry b).2)
    partNo h.q.fn = some p → h.data = some bs → Acts (.placeCreate h) h s →
    (256 ≤ h.e.index.toNat ∨ (s.place? k).isSome = true ∨ raws = [] ∨ (∃ b ∈ raws, coreEntryOk r p b = false) ∨ ¬ (es.map (·.core)).Nodup →
      exec (.placeCreate h) s = .next (finish r h 0x0D)) ∧
    (h.e.index.toNat < 256 → s.place? k = none → raws ≠ [] → (∀ b ∈ raws, coreEntryOk r p b = true) → (es.map (·.core)).Nodup →
      (∀ e ∈ es, e.istoreLen = 0 ∧ e.preloadLen = 0) → (∀ e ∈ s.slots, e.2.lostAt = none) →
      ∃ t x, exec (.placeCreate h) s = .next t ∧ t.place? k = some x ∧ x.cores = es.map (fun e => { e with w := widthW (widthOf r e.core) }) ∧ x.cfg = tabGet {} s.set.places k ∧ x.running = none ∧
        ∀ e ∈ es, (t.core e.core).place = some k ∧ (t.core e.core).altitude = e.altitude ∧ (t.core e.core).lm = {} ∧ (t.core e.core).istore = {} ∧
          (t.core e.core).chans = [] ∧ (t.core e.core).me.queue = [] ∧ (∀ th, t.thread e.core th = {}) ∧ (∀ n, n < 16 → ((t.core e.core).bar n).member = true))) ∧
  (∀ (s : State) (h : HostCmd) (p : Nat), let k := placeKey p h.e.index.toNat
    partNo h.q.fn = some p → Acts (.placeDestroy h) h s →
    (256 ≤ h.e.index.toNat ∨ s.place? k = none → exec (.placeDestroy h) s = .next (finish (taken s h) h 0x0D)) ∧
    (∀ x, h.e.index.toNat < 256 → s.place? k = some x → tabRising 0 s.places = true → ∃ t, exec (.placeDestroy h) s = .next t ∧ t.place? k = none ∧
      ∀ e ∈ x.cores, (t.core e.core).place = none))

/-- R363 to R367, R375, R376, R384 to R387, R490, R491: requests. An unsealed submission whose region is not aligned, too small, or that its partition does not
accept completes INVALID_ENTRY; one short of nothing is admitted on a free context, one short of a resource is deferred at the tail of its
contract's queue or, where nothing can be deferred, refused with the resource's reason. CANCEL ends a request at once, or marks one that is in
a step; HOLD pauses it, RELEASE lets it go on, READ_CTX writes its context; a handle of another GEN names nothing. -/
def Obligations.RequestCommands : Prop :=
  (∀ (s : State) (h : HostCmd) (p : Nat) (bs : List Byte), let e := h.e
    let r := taken s h
    let k := ctrKey p e.contract.toNat
    let sl := slotKey p e.slot.toNat
    let need := (e.promptLen.toNat + 1 + (s.slotCfg sl).tpp.toNat - 1) / (s.slotCfg sl).tpp.toNat
    partNo h.q.fn = some p → p < 8 → h.data = some bs → Acts (.submit h) h s → e.flags.getLsbD 0 = false →
    (e.outAddr.toNat % 64 ≠ 0 ∨ (tabGet ({} : PartCfg) s.set.parts p).plain = false ∨ e.outLen.toNat < 64 * (e.maxNew.toNat + 2) ∨
        e.len1.toNat < 64 + 4 * e.promptLen.toNat → exec (.submit h) s = .next (finish r h 0x0D)) ∧
    (e.outAddr.toNat % 64 = 0 → (tabGet ({} : PartCfg) s.set.parts p).plain = true → 64 * (e.maxNew.toNat + 2) ≤ e.outLen.toNat →
      64 + 4 * e.promptLen.toNat ≤ e.len1.toNat → s.suspended p = false →
      (16 ≤ e.slot.toNat ∨ (s.mslot sl).ready = false ∨ (s.ctrCfg k).slots.getLsbD e.slot.toNat = false →
        exec (.submit h) s = .next (settleSnow (refuse r h k 5))) ∧
      (e.slot.toNat < 16 → (s.mslot sl).ready = true → (s.ctrCfg k).slots.getLsbD e.slot.toNat = true → (∀ n, (freeCtx r n).isSome = true) →
        (e.prefixKey = 0 → shortage r sl k need = 0 → ∃ t i, exec (.submit h) s = .next t ∧ (s.ctx i).st = .free ∧ (t.ctx i).st = .admitted ∧
          (t.ctx i).gen = (s.ctx i).gen ∧ (t.ctx i).hostTag = e.hostTag ∧ (t.ctx i).contract = e.contract ∧ (t.ctx i).slot = e.slot ∧ (t.ctx i).part.toNat = p ∧
          (t.ctx i).q = h.q ∧ (t.ctx i).promptLen = e.promptLen ∧ (t.ctx i).maxNew = e.maxNew ∧ (t.ctx i).emitted = 0 ∧ (t.ctx i).tArrive = r.time ∧
          (t.ctx i).outAddr = e.outAddr ∧ (∀ j, j ≠ i → t.ctx j = s.ctx j)) ∧
        (∀ short, shortage r sl k need = short → short ≠ 0 → (short = 4 → r.inRate k = false) →
          ((s.ctrCfg k).deferDepth = 0 → ∃ u, exec (.submit h) s = .next (settleSnow (refuse u h k (BitVec.ofNat 8 short))) ∧ u.ctxs = s.ctxs) ∧
          ((s.ctrCfg k).deferDepth ≠ 0 → (s.ctrCfg k).deferDepth.toNat ≤ (s.contract k).defers.length →
            ∃ u, exec (.submit h) s = .next (settleSnow (refuse u h k 6)) ∧ u.ctxs = s.ctxs) ∧
          ((s.contract k).defers.length < (s.ctrCfg k).deferDepth.toNat →
            (estStart r sl k short (s.contract k).defers.length).toNat ≤ r.time.toNat + (s.ctrCfg k).maxDefer.toNat * 1000 →
            ∃ t i, exec (.submit h) s = .next t ∧ (s.ctx i).st = .free ∧ (t.ctx i).st = .paused ∧ (t.ctx i).cause = 1 ∧ (t.ctx i).status = 0x02 ∧
              (t.ctx i).deferPos = BitVec.ofNat 32 (s.contract k).defers.length ∧ (t.contract k).defers = (s.contract k).defers ++ [i]))))) ∧
  (∀ (s : State) (h : HostCmd), let r := taken s h
    ((∀ i, ¬ Names s h i) → (Acts (.cancel h) h s → exec (.cancel h) s = .next (finish r h 0x0D)) ∧
      (Acts (.hold h) h s → exec (.hold h) s = .next (finish r h 0x0D)) ∧ (Acts (.release h) h s → exec (.release h) s = .next (finish r h 0x0D)) ∧
      (Acts (.readCtx h) h s → exec (.readCtx h) s = .next (finish r h 0x0D))) ∧
    (∀ i, Names s h i → let x := s.ctx i
      (Acts (.cancel h) h s →
        (x.st = .done ∨ x.st = .cancelled ∨ x.st = .failed → exec (.cancel h) s = .next (finish r h 0x0D)) ∧
        (x.st = .paused ∨ x.st = .draining → ∃ t, exec (.cancel h) s = .next t ∧ Ended t i .cancelled 0x04 0) ∧
        (x.st = .admitted ∨ x.st = .prefill ∨ x.st = .decode ∨ x.st = .spec → x.inStep = true → ∃ t, exec (.cancel h) s = .next t ∧
          t.ctx i = { x with cancelRx := true }) ∧
        (x.st = .admitted ∨ x.st = .prefill ∨ x.st = .decode ∨ x.st = .spec → x.inStep = false → ∃ t, exec (.cancel h) s = .next t ∧
          Ended t i .cancelled 0x05 0)) ∧
      (Acts (.hold h) h s →
        (x.st = .admitted ∨ x.st = .prefill ∨ x.st = .decode → exec (.hold h) s =
          .next ((finish r h 0).setCtx i { x with st := .paused, cause := 3, resume := x.st })) ∧
        (x.st = .spec → exec (.hold h) s = .next ((finish r h 0).setCtx i { x with st := .paused, cause := 3, resume := .decode }))) ∧
      (Acts (.release h) h s → x.st = .paused → x.cause = 3 → x.prior = none → exec (.release h) s =
        .next ((finish r h 0).setCtx i { x with st := x.resume, cause := 0 })) ∧
      (Acts (.readCtx h) h s →
        (h.e.len1.toNat < 256 → exec (.readCtx h) s = .next (finish r h 0x0D)) ∧
        (256 ≤ h.e.len1.toNat → ∃ b, exec (.readCtx h) s = .next (finish (hostWrite r h.e.addr1 b) h 0) ∧ b.length = 256 ∧ field b 0 4 = h.e.handle.toNat ∧
          field b 4 1 = x.st.code ∧ field b 5 1 = x.status.toNat ∧ field b 6 1 = x.reason.toNat ∧ field b 7 1 = (if x.st = .paused then x.cause.toNat else 0) ∧
          field b 8 1 = x.contract.toNat ∧ field b 9 1 = x.slot.toNat ∧ field b 16 4 = (if x.sealedRq then 0 else x.promptLen.toNat) ∧
          field b 20 4 = (if x.sealedRq then 0 else x.maxNew.toNat) ∧ field b 24 4 = x.emitted.toNat ∧ field b 28 4 = x.deferPos.toNat ∧
          field b 32 8 = x.tArrive.toNat ∧ field b 80 8 = x.hostTag.toNat))))

/-- R363, R366, R370, R376, R378, R389 to R392, R415 to R422, R463, R475: what time and the crypto engine do to requests, snowlines and histograms. A deferral that has lasted MAX_DEFER ends FAILED with reason
7; a refill raises the bucket by one and never above BURST; in entry order, a request whose tokens cannot be sealed ends FAILED with AUTH_FAILED, one of a
suspended partition holds its output, any other writes the chunk of one commit, and a DRAINING one goes to DONE with its last; a final request whose notice
has been written frees its context with the next GEN. A snowline write with EN arms it unless it crosses at once, a write of CROSSED clears and arms it, a
snapshot copies the histogram and its percentiles. -/
def Obligations.RequestEvents : Prop :=
  (∀ (s : State) (ctx : BitVec 21) (now : W64), let i := ctx.toNat
    let r := s.atTime now
    let x := s.ctx i
    (x.st = .paused → x.cause = 1 → x.tArrive.toNat + (s.ctrCfg x.ctr).maxDefer.toNat * 1000 < r.time.toNat →
      ∃ t, exec (.deferExpiry ctx now) s = .next t ∧ Ended t i .failed 0x03 0x07 ∧ i ∉ (t.contract x.ctr).defers) ∧
    (x.st ≠ .paused ∨ x.cause ≠ 1 ∨ r.time.toNat ≤ x.tArrive.toNat + (s.ctrCfg x.ctr).maxDefer.toNat * 1000 → exec (.deferExpiry ctx now) s = .next r) ∧
    (sealTurn s i = false → exec (.tokenSeal ctx true now) s = .next r ∧ exec (.tokenSeal ctx false now) s = .next r) ∧
    (sealTurn s i = true →
      (∃ t, exec (.tokenSeal ctx false now) s = .next t ∧ Ended t i .failed 0x0F 0) ∧
      (s.suspended x.part.toNat = true → ∃ t, exec (.tokenSeal ctx true now) s = .next t ∧ t.ctxs = s.ctxs ∧
        t.hostMem = s.hostMem ∧ i ∈ (tabGet ({} : Part) t.parts x.part.toNat).heldOut) ∧
      (s.suspended x.part.toNat = false →
        (x.st = .draining → x.unsealed.length ≤ 1 → ∃ t, exec (.tokenSeal ctx true now) s = .next t ∧ Ended t i .done 0x00 0) ∧
        (x.st ≠ .draining ∨ 2 ≤ x.unsealed.length → ∃ t, exec (.tokenSeal ctx true now) s = .next t ∧ (t.ctx i).st = x.st ∧ (t.ctx i).status = 0 ∧
          (t.ctx i).unsealed = x.unsealed.tail ∧ (t.ctx i).chunks = x.chunks + 1))) ∧
    (x.st = .done ∨ x.st = .cancelled ∨ x.st = .failed → noticeHeld r i = false → (∀ y ∈ s.contracts, i ∉ y.2.defers) →
      ∃ t, exec (.contextFree ctx now) s = .next t ∧ (t.ctx i).st = .free ∧ (t.ctx i).gen = x.gen + 1) ∧
    (x.st ≠ .done → x.st ≠ .cancelled → x.st ≠ .failed → exec (.contextFree ctx now) s = .next r)) ∧
  (∀ (s : State) (p : BitVec 3) (c : Byte), let k := ctrKey p.toNat c.toNat
    let burst : Int := ((s.ctrCfg k).burst.toNat : Nat)
    ((s.ctrCfg k).rate ≠ 0 → s.bucket k < burst → ∃ t, exec (.bucketRefill p c) s = .next t ∧ t.bucket k = s.bucket k + 1 ∧ (t.contract k).defers = (s.contract k).defers) ∧
    ((s.ctrCfg k).rate = 0 ∨ burst ≤ s.bucket k → exec (.bucketRefill p c) s = .next s)) ∧
  (∀ (s : State) (p : BitVec 3) (n : BitVec 5) (v : W64) (x : Part), s.phase = .ready → tabLook s.parts p.toNat = some x → tabRising 0 x.snows = true →
    let old := tabGet ({} : Snow) x.snows n.toNat
    let new := fun (t : State) => tabGet ({} : Snow) (tabGet ({} : Part) t.parts p.toNat).snows n.toNat
    (∃ t, exec (.schSnowCfgWrite p n v) s = .next t ∧ bits (new t).cfg 24 0 = bits v 24 0 ∧ bits (new t).cfg 47 32 = bits v 47 32 ∧ bits (new t).cfg 63 60 = bits v 63 60 ∧
      (bits (new t).cfg 59 48 = bits v 59 48 ∨ (bits (new t).cfg 59 48 = bits old.cfg 59 48 ∧ (bits v 61 60 = 0 ∨ bits v 61 60 = 3))) ∧
      (v.getLsbD 63 = true → (new t).armed = true ∨ (new t).live = true) ∧ ((new t).crossed = true → (new t).live = true ∨ old.crossed = true)) ∧
    (v.getLsbD 0 = false → exec (.schSnowStatWrite p n v) s = .next s) ∧
    (v.getLsbD 0 = true → snowSide old.cfg (snowLevel s p.toNat old.cfg) = old.live → ∃ t, exec (.schSnowStatWrite p n v) s = .next t ∧
      (new t).crossed = false ∧ (new t).count = 0 ∧ (new t).armed = true ∧ (new t).cfg = old.cfg)) ∧
  (∀ (s : State) (p : BitVec 3) (v : W64) (x : Part), s.phase = .ready → tabLook s.parts p.toNat = some x → v.getLsbD 24 = true → x.meas.busy = false →
    tabRising 0 s.hists = true →
    let k := histKey (ctrKey p.toNat (bits v 7 0)) (bits v 9 8)
    let h := tabGet ({} : Hist) s.hists k
    ∃ t u, exec (.schMeasGo p v) s = .next t ∧ (tabGet ({} : Part) t.parts p.toNat).meas.busy = true ∧ tabGet ({} : Hist) t.hists k = (if v.getLsbD 25 then {} else h) ∧
      exec (.schMeasSnapshotDone p) t = .next u ∧
      let m := (tabGet ({} : Part) u.parts p.toNat).meas
      m.busy = false ∧ m.snap = h ∧ m.cnt = BitVec.ofNat 64 h.total ∧ m.p50 = percentile h 500 ∧ m.p90 = percentile h 900 ∧ m.p99 = percentile h 990 ∧
        m.p999 = percentile h 999)

/-- R366, R384, R395 to R407, R423, R436, R437, R444: serving steps. A step is formed for a READY slot with none in flight: a DECODE request gets a KIND 2 entry of one token at
its position. A completed attempt with readable records is committed: its token counts, goes out and enters the history, and SCH_STEPSEQ
rises; a failed one is dispatched again as the next ATTEMPT with the same entries; after REPLAY_MAX failures its placement has failed; an
attempt that runs for STEP_LIMIT is cancelled with TIMEOUT and recorded. Of two statuses the first in the order of R437 stands. -/
def Obligations.ServingSteps : Prop :=
  (∀ (s : State) (p : BitVec 3) (n : BitVec 4) (now : W64), let k := slotKey p.toNat n.toNat
    let r := s.atTime now
    let m := s.mslot k
    let cfg := s.slotCfg k
    (m.ready = false ∨ m.step ≠ none ∨ s.suspended p.toNat = true ∨ s.sec.entropyBad ≠ none ∨ s.err.schReload = true ∨ s.fenced (unitPlinth 1) = true →
      exec (.stepFormation p n now) s = .next (settleSnow r)) ∧
    (∀ key pl i, m.ready = true → m.step = none → s.suspended p.toNat = false → s.sec.entropyBad = none → s.err.schReload = false →
      s.fenced (unitPlinth 1) = false → m.place = some key →
      s.place? key = some pl → Serving s pl → candidatesOf s k = [i] → (s.ctx i).st = .decode → (s.ctx i).specOk = false → (s.ctx i).slotKey = k →
      1 ≤ cfg.maxBatch.toNat → 1 ≤ cfg.maxTokens.toNat → tooManyHeld r (s.ctx i) = false →
      ((s.ctx i).pos.toNat + 1 + cfg.tpp.toNat - 1) / cfg.tpp.toNat ≤ (s.ctx i).pages.length →
      256 + ((4 * (s.ctx i).pages.length + 63) / 64 * 64) ≤ cfg.stepSize.toNat →
      ∃ t st e, exec (.stepFormation p n now) s = .next t ∧ (t.mslot k).step = some st ∧ st.entries = [e] ∧ st.attempt = 0 ∧ e.ctx = i ∧
        e.handle = handleOf i (s.ctx i) ∧ e.kind = 2 ∧ e.depth = 0 ∧ e.nIn = 1 ∧ e.pos = (s.ctx i).pos.toNat ∧ (t.ctx i).inStep = true ∧ (t.ctx i).st = .decode)) ∧
  (∀ (s : State) (p : BitVec 3) (n : BitVec 4) (now : W64), let k := slotKey p.toNat n.toNat
    let m := s.mslot k
    (s.err.schReload = true ∨ m.step = none ∨ (∃ st, m.step = some st ∧ st.result = none) → exec (.stepCommandComplete p n now) s = .next s) ∧
    (∀ st, m.step = some st → s.err.schReload = false →
      (∀ e bs u, (st.result = some 0 ∨ st.result = some 0x11) → st.entries = [e] → e.kind = 2 → plinthRead (s.atTime now) ((s.slotCfg k).stepBase + BitVec.ofNat 64 st.outOff) 64 = (bs, true, u) →
        let x := s.ctx e.ctx
        handleOf e.ctx x = e.handle → x.st = .decode → x.cancelRx = false → field bs 1 1 % 2 = 0 → x.emitted.toNat < x.maxNew.toNat → x.slotKey = k →
        ∃ t, exec (.stepCommandComplete p n now) s = .next t ∧ (t.ctx e.ctx).emitted = x.emitted + 1 ∧ (t.ctx e.ctx).tLast = (s.atTime now).time ∧
          (t.ctx e.ctx).history = x.history ++ [BitVec.ofNat 32 (field bs 8 4)] ∧ (t.ctx e.ctx).unsealed = x.unsealed ++ [[BitVec.ofNat 32 (field bs 8 4)]] ∧
          (t.mslot k).stepSeq = m.stepSeq + 1) ∧
      (∀ res, st.result = some res → res ≠ 0 → res ≠ 0x11 →
        (st.fails + 1 < bits s.set.policy 2 0 → ∃ t st', exec (.stepCommandComplete p n now) s = .next t ∧ (t.mslot k).step = some st' ∧ st'.attempt = st.attempt + 1 ∧
          st'.fails = st.fails + 1 ∧ st'.entries = st.entries ∧ (t.mslot k).replay = m.replay + 1 ∧ (t.mslot k).stepSeq = m.stepSeq) ∧
        (∀ key, bits s.set.policy 2 0 ≤ st.fails + 1 → m.place = some key → (s.place? key).isSome = true → (k, m) ∈ s.slots → ∃ t, exec (.stepCommandComplete p n now) s = .next t ∧
          (t.mslot k).step = none ∧ (t.place key).failed = true ∧ t.err.flogWr = s.err.flogWr + 1)))) ∧
  (∀ (s : State) (p : BitVec 3) (n : BitVec 4) (now : W64) (key : Nat) (c : Command) (st : Step), let k := slotKey p.toNat n.toNat
    let r := s.atTime now
    (s.mslot k).step = some st → (s.mslot k).place = some key → (s.place key).running = some c → c.step = some k → c.status = none →
    (r.since c.began < st.limit.toNat * 1000 → exec (.stepLimitExpiry p n now) s = .next r) ∧
    (st.limit.toNat * 1000 ≤ r.since c.began → c.touched = [] → (s.place key).waiting = [] → ∃ t, exec (.stepLimitExpiry p n now) s = .next t ∧
      Cancelled t key 0x0B ∧ Quiet t (s.place key) ∧ t.err.flogWr = s.err.flogWr + 1)) ∧
  (∀ (s : State) (key : Nat) (status a : Byte) (now : W64) (c : Command), (s.place key).running = some c → (s.place key).waiting = [] → status ∈ statusOrder →
    (c.touched = [] → ∃ t, exec (.stepCancel key status now) s = .next t ∧ Cancelled t key status ∧ Quiet t (s.place key)) ∧
    (c.touched = [a] → a ∈ statusOrder → ∃ t, exec (.stepCancel key status now) s = .next t ∧
      Cancelled t key (if statusOrder.findIdx (· == a) ≤ statusOrder.findIdx (· == status) then a else status))) ∧
  (∀ (s : State) (key : Nat) (status : Byte) (now : W64), (s.place key).running = none ∨ status ∉ statusOrder → exec (.stepCancel key status now) s = .next (s.atTime now))

/-- R281, R298 to R308, R492, R494, R497: the commands of a placement. RUN launches on a free placement: sh0 is ARG, the threads with a START_PC start; behind another command it waits its turn. CAST parks the
threads and takes a cast, a second one in a command is counted; CAST_COMPLETE ends it. A command ends OK once nothing of it is under way,
or at realignment: aligned cores are reset, a difference is recorded, casts and makes the command DRIFT. CMD_LIMIT ends it TIMEOUT. DRAIN parks
the placement and suspends its requests, its image is sealed under the save key, and RESTORE opens it only under that key and while its sealed bytes
stand in the save area as they were written; else it reports AUTH_FAILED. -/
def Obligations.PlacementCommands : Prop :=
  (∀ (s : State) (h : HostCmd) (p : Nat) (x : Place), let r := taken s h
    let k := placeKey p h.e.index.toNat
    partNo h.q.fn = some p → h.e.index.toNat < 256 → s.place? k = some x →
    (Acts (.run h) h s →
      (x.running = none → x.waiting = [] → Serving s x → (x.cores.map (·.core)).Nodup → ∃ t c, exec (.run h) s = .next t ∧ (t.place k).running = some c ∧
        c.q = some h.q ∧ c.hostTag = h.e.hostTag ∧ c.began = r.time ∧ c.status = none ∧ (t.place k).waiting = [] ∧
        ∀ e ∈ x.cores, tabRising 0 (s.core e.core).sh = true → tabGet 0 (t.core e.core).sh 0 = h.e.arg.zeroExtend 64 ∧
          ∀ th, e.startPc.getD th.toNat 0xFFFF ≠ 0xFFFF → (s.thread e.core th).st = .stopped → (s.core e.core).busyFor th = false →
            FreshThread (t.thread e.core th) (s.thread e.core th) (e.startPc.getD th.toNat 0xFFFF)) ∧
      (∀ c, x.running = some c → ∃ t d, exec (.run h) s = .next t ∧ (t.place k).running = some c ∧ (t.place k).waiting = x.waiting ++ [d] ∧ d.hostTag = h.e.hostTag ∧
        d.q = some h.q ∧ d.arg = h.e.arg)) ∧
    (Acts (.castCmd h) h s →
      (x.cast = none → x.running = none → ∃ t y, exec (.castCmd h) s = .next t ∧ (t.place k).cast = some y ∧ y.cause = 3 ∧ y.q = some (h.q, h.e.hostTag) ∧ y.started = r.time ∧
        (t.place k).seq = x.seq + 1 ∧ (t.place k).later = 0 ∧ Quiet t x) ∧
      (∀ y, x.cast = some y → ∃ u, exec (.castCmd h) s = .next (finish u h 0) ∧ (u.place k).later = x.later + 1 ∧ (u.place k).cast = some y ∧ u.cores = s.cores)) ∧
    (Acts (.readCast h) h s → let n := 256 + 1536 * x.cores.length
      (h.e.len1.toNat < n → exec (.readCast h) s = .next (finish r h 0x0D)) ∧
      (n ≤ h.e.len1.toNat → ∀ bs u, (plinthRead r x.area n = (bs, true, u) → exec (.readCast h) s = .next (finish (hostWrite u h.e.addr1 bs) h 0)) ∧
        (plinthRead r x.area n = (bs, false, u) → exec (.readCast h) s = .next (finish u h 0x09))))) ∧
  (∀ (s : State) (key : Nat) (now : W64) (x : Place), let r := s.atTime now
    s.place? key = some x →
    (x.cast = none → exec (.castComplete key now) s = .next r) ∧
    (∀ y q tag, x.cast = some y → y.cause = 3 → y.q = some (q, tag) → y.parked = [] → x.running = none → x.waiting = [] → ∃ u : State, u.cores = s.cores ∧ u.qps = s.qps ∧
      exec (.castComplete key now) s = .next (post (u.setPlace key { x with cast := none }) q (cmdDone 0 tag 0 0))) ∧
    (∀ c q, x.running = some c → c.status = none → c.step = none → c.q = some q → x.waiting = [] → s.writeQ = [] → (∀ e ∈ x.cores, (s.core e.core).sync.clampCmd = false) →
      (allStopped r key = false ∨ drainedOut r key = false → exec (.commandEnd key now) s = .next r ∧ exec (.realignment key now) s = .next r) ∧
      (allStopped r key = true → drainedOut r key = true →
        (x.sinceAlign.toNat + 1 < x.cfg.realignN.toNat → exec (.realignment key now) s = .next r ∧ exec (.commandEnd key now) s = .next (post
          (r.setPlace key { x with running := none, sinceAlign := x.sinceAlign + 1 }) q (cmdDone (if c.retried then 0x0C else 0) c.hostTag 0 0))) ∧
        (x.cfg.realignN.toNat ≤ x.sinceAlign.toNat + 1 → exec (.commandEnd key now) s = .next r ∧
          ((∀ e ∈ x.cores, Aligned s e.core) → ∃ t, exec (.realignment key now) s = .next t ∧ (t.place key).running = none ∧ (t.place key).sinceAlign = 0 ∧
            t.err.flogWr = s.err.flogWr ∧ ∀ e ∈ x.cores, (t.core e.core).sync.alignStat = 0 ∧ (t.core e.core).sync.acnt = [] ∧ (t.core e.core).ports = [] ∧
              ∀ n, ((t.core e.core).ring n).wr = 0 ∧ ((t.core e.core).ring n).rd = 0) ∧
          (∀ e n, e ∈ x.cores → n < 64 → ((s.core e.core).ring n).en = true → ((s.core e.core).ring n).wr ≠ ((s.core e.core).ring n).rd → x.cast = none → c.cast = false →
            ∃ t d y, exec (.realignment key now) s = .next t ∧ (t.place key).running = some d ∧ d.status = some 0x0A ∧ (t.place key).cast = some y ∧ y.cause = 2 ∧
              t.err.flogWr = s.err.flogWr + 1 ∧ (t.core e.core).sync.alignStat.getLsbD 63 = true)))) ∧
    (∀ c, x.running = some c → c.status = none → c.step = none →
      (r.since c.began < x.cfg.cmdLimit.toNat * 1000000 → exec (.cmdLimitExpiry key now) s = .next r) ∧
      (x.cfg.cmdLimit.toNat * 1000000 ≤ r.since c.began → allStopped r key = false → x.cast = none → c.cast = false → c.touched = [] →
        ∃ t d y, exec (.cmdLimitExpiry key now) s = .next t ∧ (t.place key).running = some d ∧ d.status = some 0x0B ∧ (t.place key).cast = some y ∧ y.cause = 4 ∧
          Quiet t x ∧ t.err.flogWr = s.err.flogWr + 1))) ∧
  (∀ (s : State) (key : Nat) (x : Place), s.place? key = some x →
    (x.draining = false → x.drained = false → ∃ t, exec (.drain key) s = .next t ∧ (t.place key).draining = true ∧ Quiet t x ∧
      ∀ i, (s.ctx i).live = true → (∃ m, (((s.ctx i).slotKey, m) : Nat × Slot) ∈ s.slots ∧ m.place = some key) → (t.ctx i).st = .paused ∧ (t.ctx i).cause = 4) ∧
    (x.draining = true → (drainedOut s key = true → ∃ t img, exec (.drainComplete key) s = .next t ∧ (t.place key).drained = true ∧ (t.place key).draining = false ∧
        (t.place key).image = some img ∧ img.key = (tabGet ({} : Part) s.parts (key / 256)).saveKey) ∧
      (drainedOut s key = false → (∀ e ∈ s.err.units, e.2.setTo = none) → exec (.drainComplete key) s = .next s)) ∧
    (∀ img bs ok u, x.image = some img → x.drained = true → (∀ e ∈ x.cores, s.coreFenced e.core = false) → plinthRead s img.at_ img.bytes.length = (bs, ok, u) →
      let k := (tabGet ({} : Part) s.parts (key / 256)).saveKey
      (ok = false ∨ bs ≠ img.bytes ∨ img.key ≠ k → exec (.restore key) s = .next (u.emit (.event 2 0x0F))) ∧
      (ok = true → bs = img.bytes → img.key = k → ∃ t, exec (.restore key) s = .next t ∧ (t.place key).drained = false ∧ (t.place key).image = none)))

/-- R182, R266 to R270, R424 to R437, R441, R444 to R447: detection, fences and recovery. A report becomes one record; one of classes 1, 3, 5 (engine), 6 or 9 on a core or router fences the unit, begins its self-test and
cancels the commands that use it. A self-test that passes brings a transient fault's core back, DEGRADED where its W is below 8, under a new UEPOCH; a failed
one waits for the segment's spare or, with the spare used, loses the unit. A fence notice and the lost-answer watchdog complete open requests as FENCED under
the slot's next epoch. A silent die is LOST, with the requests whose contexts lay in it. -/
def Obligations.FaultsAndRecovery : Prop :=
  (∀ (s : State) (rep : FaultRep) (now : W64), let r := s.atTime now
    let u := rep.unit
    (unitExists u = false → ∃ t, exec (.faultReport rep now) s = .next t ∧ t.err.log = s.err.log ∧ t.err.units = s.err.units ∧ t.err.reports = dropReport rep s.err.reports) ∧
    (unitExists u = true → (s.unit u).dpath ≠ 6 →
      (rep.cls = 10 → rep.place = none → ∃ t x, exec (.faultReport rep now) s = .next t ∧ Recorded s t x ∧ x.time = r.time ∧ x.cls = 10 ∧ x.code = rep.code ∧ x.unit = u ∧
        x.action = 0 ∧ x.detail = rep.detail ∧ (t.unit u).dpath = (s.unit u).dpath ∧ (t.unit u).fcount = satInc (s.unit u).fcount) ∧
      ((rep.cls = 1 ∨ rep.cls = 3 ∨ rep.cls = 6 ∨ (rep.cls = 5 ∧ rep.code = 0)) → unitKind u = 0 ∨ unitKind u = 1 → (s.unit u).dpath = 0 →
        tabLook s.spares (segKey (BitVec.ofNat 14 u.toNat)) = none → ∃ t, exec (.faultReport rep now) s = .next t ∧ (t.unit u).dpath = 2 ∧ t.fenced u = true ∧
          (t.unit u).testing = true ∧ (t.unit u).recovering = true ∧ (unitKind u = 1 → (t.unit u).hard = true) ∧ t.err.flogWr = s.err.flogWr + 1 ∧
          ∀ k c, (s.place k).running = some c → c.touched = [] → (s.place k).waiting = [] → rep.place = some k ∨ k ∈ placesUsing s u → Cancelled t k 0x07) ∧
      (rep.cls = 3 → unitKind u = 3 → rep.place = none → (s.unit u).dpath = 0 → let e := bits u 27 0 / 8 % 8 * 2 + bits u 27 0 / 4 % 2
        (tabGet 0 s.links e < 2 → ∃ t x, exec (.faultReport rep now) s = .next t ∧ Recorded s t x ∧ x.action = 3 ∧ (t.unit u).dpath = 1) ∧
        (2 ≤ tabGet 0 s.links e → ∃ t, exec (.faultReport rep now) s = .next t ∧ (t.unit u).dpath = 6)))) ∧
  (∀ (s : State) (c : CoreId) (pass : Bool) (now : W64), let u := unitCore c
    let r := s.atTime now
    let x := s.unit u
    (x.testing = false → exec (.selfTestComplete u pass now) s = .next r) ∧
    (x.testing = true →
      (pass = true → x.hard = false → ∃ t, exec (.selfTestComplete u pass now) s = .next t ∧ (t.unit u).dpath = restState s u ∧ (t.unit u).uepoch = x.uepoch + 1 ∧
        (t.unit u).testing = false ∧ (t.unit u).recovering = false ∧ (x.mgmt.toNat < 2 → t.fenced u = false)) ∧
      (pass = false ∨ x.hard = true → tabLook s.spares (segKey c) = none → ∃ t, exec (.selfTestComplete u pass now) s = .next t ∧ (t.unit u).hard = true ∧
        (t.unit u).testing = false ∧ (t.unit u).dpath = x.dpath) ∧
      (pass = false ∨ x.hard = true → (tabLook s.spares (segKey c)).isSome = true → ∃ t, exec (.selfTestComplete u pass now) s = .next t ∧ (t.unit u).dpath = 6))) ∧
  (∀ (s : State) (c : CoreId) (now : W64), OnCore s c → (s.core c).place = none → (s.unit (unitCore c)).recovering = true → (s.unit (unitCore c)).hard = true →
    (s.unit (unitCore c)).testing = false → (s.unit (unitId 1 c.toNat)).recovering = false →
    (tabLook s.spares (segKey c) = none → ∃ t, exec (.spareSubstitution c now) s = .next t ∧ tabLook t.spares (segKey c) = some c.toNat ∧ (t.core c).lm = {} ∧
      (t.core c).istore = {} ∧ (∀ th, t.thread c th = {}) ∧ (t.core c).me.queue = [] ∧ (t.core c).chans = []) ∧
    ((tabLook s.spares (segKey c)).isSome = true → exec (.spareSubstitution c now) s = .next (s.atTime now)) ∧
    (tabLook s.spares (segKey c) = some c.toNat → ∃ t, exec (.spareSubstitutionComplete c now) s = .next t ∧ (t.unit (unitCore c)).dpath = restState s (unitCore c) ∧
      (t.unit (unitCore c)).recovering = false ∧ (t.unit (unitCore c)).uepoch = (s.unit (unitCore c)).uepoch + 1)) ∧
  (∀ (s : State) (c : CoreId) (n : Nat) (u : W32) (now : W64) (q : ReqSlot), let r := s.atTime now
    tabLook (s.core c).slots n = some q → q.isOpen = true →
    (isCore c = true → s.fenced u = true → q.unit = u → tabRising 0 (s.core c).slots = true → ∃ t q', exec (.fenceNotice u c) s = .next t ∧ tabLook (t.core c).slots n = some q' ∧
      q'.isOpen = false ∧ q'.epoch = q.epoch + 1) ∧
    (isCore c = true → s.fenced u = false → exec (.fenceNotice u c) s = .next s) ∧
    (isCore c = true → r.since q.sent < 500000 → exec (.lostAnswerTimeout c n now) s = .next r) ∧
    (isCore c = true → 500000 ≤ r.since q.sent → ∃ t q' x, exec (.lostAnswerTimeout c n now) s = .next t ∧ tabLook (t.core c).slots n = some q' ∧ q'.isOpen = false ∧
      q'.epoch = q.epoch + 1 ∧ t.err.reports.getLast? = some x ∧ x.cls = 6 ∧ x.unit = q.unit ∧ x.detail = q.addr ∧
      (q.kind = .store → (t.thread c q.thr).async = (s.thread c q.thr).async ++ [{ code := 9, pc := q.pc, addr := q.addr, ord := q.ord, at_ := r.time }]))) ∧
  (∀ (s : State) (c : CoreId) (now : W64) (ok : Bool), let r := s.atTime now
    (OnCore s c → exec (.routerSilentTimeout c now) s = .next (r.report { unit := unitId 1 c.toNat, cls := 3, code := 0, place := (s.core c).place, detail := 0 }) ∧
      ((s.core c).me.queue ≠ [] → exec (.engineWatchdog c now) s = .next (r.report { unit := unitCore c, cls := 5, code := 0, place := (s.core c).place, detail := 0 })) ∧
      ((s.core c).me.queue = [] → (s.core c).fcq = [] → (s.core c).chans = [] → exec (.engineWatchdog c now) s = .next r) ∧
      (∃ t, exec (.latentCheckerTest c true now) s = .next t ∧ tabGet 0 t.err.latest (0x10000 + c.toNat) = r.time ∧ t.err.reports = s.err.reports) ∧
      exec (.latentCheckerTest c false now) s = .next (r.report { unit := unitCore c, cls := 9, code := 0, place := (s.core c).place,
                                                                  detail := tabGet 0 s.err.latest (0x10000 + c.toNat) })) ∧
    (isCore c = false → exec (.routerSilentTimeout c now) s = .fault .noSuchCore ∧ exec (.engineWatchdog c now) s = .fault .noSuchCore ∧
      exec (.latentCheckerTest c ok now) s = .fault .noSuchCore ∧ exec (.spareSubstitution c now) s = .fault .noSuchCore)) ∧
  (∀ (s : State) (d : Nat) (u : W32) (now : W64), let r := s.atTime now
    (d < 8 → ∃ t, exec (.heartbeatTimeout (unitId 7 d) now) s = .next t ∧ (t.unit (unitId 7 d)).dpath = 6 ∧ tabGet false t.err.deadIdx d = true ∧
      ∀ i, (s.ctx i).live = true → i / 262144 = d → LostRequest t i) ∧
    (unitKind u ≠ 7 → unitKind u ≠ 8 → unitKind u ≠ 9 → exec (.heartbeatTimeout u now) s = .next r) ∧
    (unitExists u = false → exec (.capacityLoss u now) s = .next r) ∧
    (unitExists u = true → unitKind u ≠ 9 → unitKind u ≠ 10 → ∃ t, exec (.capacityLoss u now) s = .next t ∧ (t.unit u).dpath = 6) ∧
    (∀ k, unitExists u = true → unitKind u = 10 → (s.places.map (·.1)).find? (fun k => unitPlace k == u) = some k → ∃ t, exec (.capacityLoss u now) s = .next t ∧
      (t.place k).failed = true)) ∧
  (∀ (s : State) (p : BitVec 3) (n : BitVec 4) (now : W64), let k := slotKey p.toNat n.toNat
    let r := s.atTime now
    ((s.mslot k).lostAt = none → exec (.altPlacementTimeout p n now) s = .next r) ∧
    (∀ t0, (s.mslot k).lostAt = some t0 → (r.since t0 < 5000000000 → exec (.altPlacementTimeout p n now) s = .next r) ∧
      (5000000000 ≤ r.since t0 → (s.mslot k).ready = false → (∀ a ∈ (s.slotCfg k).alts, altOk r k (placeKey p.toNat a.toNat) = false) →
        ∃ t, exec (.altPlacementTimeout p n now) s = .next t ∧ (t.mslot k).lostAt = none ∧ ∀ i, (s.ctx i).live = true → (s.ctx i).slotKey = k → LostRequest t i)))

/-- R439 to R441, R448 to R450, R481, R505, R529: the Plinth's own faults and management's unit commands. A first mismatch of the twin controllers, or their watchdog, restarts them
with a record of ACTION 6; a second within 1 s stops them. What was held runs when they are back. Each of the two comparators that misses its test puts
the part in DEGRADED_SAFETY with a record of its own unit. SET raises a unit at once or, where placements use it, drains them first, and lowers MGMT to 0 over a self-test
that passes; it never lowers DPATH. RECONCILE makes the two states agree and clears DISPUTED. ERR_POLICY loads 1 for a zero count. -/
def Obligations.PlinthFaultsAndUnitCommands : Prop :=
  (∀ (s : State) (c : Instr) (cls : Byte) (now : W64), let r := s.atTime now
    ((c = .lockstepMismatch now ∧ cls = 8) ∨ (c = .controllerWatchdog now ∧ cls = 5)) → s.up = true →
    (s.err.ctlStopped = false → s.err.lastMismatch = none ∨ (∃ t0, s.err.lastMismatch = some t0 ∧ 1000000000 < r.since t0) → ∃ t x, exec c s = .next t ∧
      t.err.ctlRestart = true ∧ t.err.ctlStopped = false ∧ t.err.lastMismatch = some r.time ∧ t.err.heldCmds = s.err.heldCmds ∧ Recorded s t x ∧ x.cls = cls ∧ x.action = 6 ∧
      x.unit = unitId 9 0 ∧ t.ctxs = s.ctxs ∧ t.slots = s.slots) ∧
    (∀ t0, s.err.ctlStopped = false → s.err.lastMismatch = some t0 → r.since t0 ≤ 1000000000 → ∃ t, exec c s = .next t ∧ t.err.ctlStopped = true ∧
      t.err.ctlRestart = false ∧ t.err.heldCmds = [])) ∧
  (∀ s : State,
    (s.err.ctlRestart = false → exec .controllerRestartDone s = .next s) ∧
    (s.err.ctlRestart = true → (s.err.heldCmds = [] → exec .controllerRestartDone s = .next { s with err := { s.err with ctlRestart := false } }) ∧
      (∀ by_ v, s.err.heldCmds = [.errPolicyWrite by_ v] → exec .controllerRestartDone s =
        .next (policyOp { s with err := { s.err with ctlRestart := false, heldCmds := [] } } v)) ∧
      (∀ h, s.err.heldCmds = [.cfgWrite h] → exec .controllerRestartDone s =
        .next (cfgWriteAct (.cfgWrite h) h { s with err := { s.err with ctlRestart := false, heldCmds := [] } }))) ∧
    (s.err.schReload = false → exec .schedulerReloadComplete s = .next s) ∧
    (s.err.schReload = true → (s.err.heldSch = [] → exec .schedulerReloadComplete s = .next { s with err := { s.err with schReload := false } }) ∧
      (∀ h, s.err.heldSch = [.cancel h] → exec .schedulerReloadComplete s =
        .next (cancelAct h { s with err := { s.err with schReload := false, heldSch := [] } })))) ∧
  (∀ (s : State) (now : W64), let r := s.atTime now
    (∃ t x, exec (.schedulerMismatch now) s = .next t ∧ t.err.schReload = true ∧ Recorded s t x ∧ x.cls = 8 ∧ x.unit = unitId 9 1 ∧ t.slots = s.slots ∧ t.ctxs = s.ctxs) ∧
    (∃ t, exec (.lockstepCheckerTest 3 now) s = .next t ∧ tabGet 0 t.err.latest 0 = r.time ∧ tabGet 0 t.err.latest 1 = r.time ∧ t.err.degraded = s.err.degraded ∧
      t.err.log = s.err.log) ∧
    (∀ (n : Nat) (d : BitVec 2), (n = 0 ∧ d = 2) ∨ (n = 1 ∧ d = 1) → ∃ t x, exec (.lockstepCheckerTest d now) s = .next t ∧ t.err.degraded = true ∧ Recorded s t x ∧
      x.cls = 9 ∧ x.action = 5 ∧ x.unit = unitId 9 n ∧ x.detail = tabGet 0 s.err.latest n ∧ tabGet 0 t.err.latest (1 - n) = r.time ∧
      t.err.lcf.toNat = min 255 (s.err.lcf.toNat + 1))) ∧
  (∀ (s : State) (by_ : Requester) (u : W32) (st arg : BitVec 4) (pass : Bool) (v now : W64), let x := s.unit u
    (s.phase ≠ .ready ∨ ¬ ControlsPackage by_ → exec (.errUnitSet by_ u st pass now) s = .next s ∧ exec (.errUnitReconcile by_ u arg pass now) s = .next s ∧
      exec (.errPolicyWrite by_ v) s = .next s) ∧
    (s.phase = .ready → ControlsPackage by_ → s.err.ctlStopped = false → s.err.ctlRestart = true →
      exec (.errUnitSet by_ u st pass now) s = .next (holdCtl s (.errUnitSet by_ u st pass now)) ∧ exec (.errPolicyWrite by_ v) s = .next (holdCtl s (.errPolicyWrite by_ v))) ∧
    (s.phase = .ready → ControlsPackage by_ → s.err.ctlStopped = true → exec (.errPolicyWrite by_ v) s = .next (s.emit (.reply by_ [0x0E]))) ∧
    (s.phase = .ready → ControlsPackage by_ → s.err.ctlStopped = false → s.err.ctlRestart = false →
      (∃ t, exec (.errPolicyWrite by_ v) s = .next t ∧ bits t.set.policy 35 20 = bits v 35 20 ∧ bits t.set.policy 11 8 = (if bits v 11 8 = 0 then 1 else bits v 11 8) ∧
        bits t.set.policy 2 0 = (if bits v 2 0 = 0 then 1 else bits v 2 0) ∧ bits t.set.policy 63 36 = 0 ∧ bits t.set.policy 19 12 = 0 ∧ bits t.set.policy 7 3 = 0) ∧
      (unitExists u = true → x.setTo = none →
        (st = 2 ∨ st = 3 ∨ st = 4 ∨ st = 5 → s.effective u < st.toNat → placesUsing s u = [] → ∃ t, exec (.errUnitSet by_ u st pass now) s = .next t ∧ (t.unit u).mgmt = st ∧
          (t.unit u).dpath = x.dpath ∧ t.fenced u = true ∧ (t.unit u).uepoch = (if st = 3 ∨ st = 4 then x.uepoch + 1 else x.uepoch)) ∧
        (st = 2 ∨ st = 3 ∨ st = 4 ∨ st = 5 → s.effective u < st.toNat → placesUsing s u ≠ [] → ∃ t, exec (.errUnitSet by_ u st pass now) s = .next t ∧ (t.unit u).setTo = some st ∧
          (t.unit u).mgmt = x.mgmt ∧ ∀ k ∈ placesUsing s u, (t.place k).draining = true ∨ (t.place k).drained = true) ∧
        (st = 0 → x.mgmt ≠ 0 → x.dpath = 0 → pass = true → ∃ t, exec (.errUnitSet by_ u st pass now) s = .next t ∧ (t.unit u).mgmt = 0 ∧
          (t.unit u).dpath = restState s u ∧ (t.unit u).uepoch = x.uepoch + 1) ∧
        (st = 0 → x.mgmt ≠ 0 → x.dpath = 0 → pass = false → ∃ t, exec (.errUnitSet by_ u st pass now) s = .next t ∧ (t.unit u).mgmt = x.mgmt) ∧
        (arg = 0 → ∃ t y, exec (.errUnitReconcile by_ u arg pass now) s = .next t ∧ (t.unit u).mgmt = x.dpath ∧ (t.unit u).dpath = x.dpath ∧ (t.unit u).disputed = false ∧
          Recorded s t y ∧ y.action = 0) ∧
        (arg = 1 → pass = true → ∃ t, exec (.errUnitReconcile by_ u arg pass now) s = .next t ∧ (t.unit u).dpath = x.mgmt ∧ (t.unit u).mgmt = x.mgmt ∧ (t.unit u).disputed = false) ∧
        (arg = 1 → pass = false → ∃ t, exec (.errUnitReconcile by_ u arg pass now) s = .next t ∧ (t.unit u).mgmt = x.dpath ∧ (t.unit u).dpath = x.dpath ∧
          (t.unit u).disputed = false))))

/-- R461 to R463, R468: the entropy source, seal keys and device interfaces. While the health test fails every draw waits, and 10 ms of it are a fault; a pass lets
the draws proceed. A rotation gives the next KEY_ID, 1 after 255, over a fresh key, and the old current key is the previous one. A TDI goes
from CONFIG_UNLOCKED over CONFIG_LOCKED to RUN; one that leaves RUN suspends its partition and, with no step in flight, pauses its requests. A TDI in RUN accepts a TLP on its bound
stream with the T bit and a good tag only, and stream keys come over an established secure session of the port only. -/
def Obligations.KeysAndInterfaces : Prop :=
  (∀ (s : State) (now : W64), let r := s.atTime now
    (s.sec.entropyBad = none → exec (.entropyHealthTestFail now) s = .next { r with sec := { r.sec with entropyBad := some r.time } } ∧ exec (.entropyFailTimeout now) s = .next r) ∧
    (∀ t0, s.sec.entropyBad = some t0 → exec (.entropyHealthTestFail now) s = .next r ∧ (r.since t0 < 10000000 → exec (.entropyFailTimeout now) s = .next r) ∧
      (10000000 ≤ r.since t0 → ∃ t x, exec (.entropyFailTimeout now) s = .next t ∧ Recorded s t x ∧ x.unit = unitId 9 2 ∧ x.time = r.time)) ∧
    (s.sec.heldDraw = [] → exec (.entropyHealthTestPass now) s = .next { r with sec := { r.sec with entropyBad := none } }) ∧
    (∀ p v n x, s.sec.heldDraw = [.secHpkeRotate p v n] → v.getLsbD 16 = true → tabLook s.parts p.toNat = some x → ∃ t y, exec (.entropyHealthTestPass now) s = .next t ∧
      t.sec.entropyBad = none ∧ t.sec.heldDraw = [] ∧ tabLook t.parts p.toNat = some y ∧ y.prevId = x.curId)) ∧
  (∀ (s : State) (p : BitVec 3) (v now : W64) (x : Part), let r := s.atTime now
    let rot := fun (t : State) => ∃ y, tabLook t.parts p.toNat = some y ∧ y.curId = (if x.curId = 0xFF then 1 else x.curId + 1) ∧ y.prevId = x.curId ∧ y.prevKey = x.curKey ∧
      y.curKey = s.sec.nextKey ∧ y.rotated = r.time ∧ y.memKey = x.memKey ∧ t.sec.nextKey = s.sec.nextKey + 1
    s.phase = .ready → tabLook s.parts p.toNat = some x →
    (v.getLsbD 16 = true → s.sec.entropyBad = none → ∃ t, exec (.secHpkeRotate p v now) s = .next t ∧ rot t ∧ (t.rotateS p.toNat).toNat = bits v 63 32) ∧
    (v.getLsbD 16 = false → ∃ t, exec (.secHpkeRotate p v now) s = .next t ∧ t.parts = s.parts ∧ (t.rotateS p.toNat).toNat = bits v 63 32) ∧
    (v.getLsbD 16 = true → s.sec.entropyBad ≠ none → ∃ t, exec (.secHpkeRotate p v now) s = .next t ∧ t.parts = s.parts ∧
      t.sec.heldDraw = s.sec.heldDraw ++ [.secHpkeRotate p v now]) ∧
    (s.rotateS p.toNat = 0 ∨ r.since x.rotated < (s.rotateS p.toNat).toNat * 1000000000 → exec (.hpkeAutoRotate p now) s = .next r) ∧
    (s.rotateS p.toNat ≠ 0 → (s.rotateS p.toNat).toNat * 1000000000 ≤ r.since x.rotated → s.sec.entropyBad = none → ∃ t, exec (.hpkeAutoRotate p now) s = .next t ∧ rot t)) ∧
  (∀ (s : State) (p : BitVec 3) (now : W64) (x : Part), let tdi := fun (t : State) => (tabGet ({} : Part) t.parts p.toNat).tdi
    let leaves := fun (t : State) => t.suspended p.toNat = true ∧ ((∀ n, n < 16 → (s.mslot (slotKey p.toNat n)).step = none) →
      ∀ i, (s.ctx i).live = true → (s.ctx i).part = p → (t.ctx i).st = .paused ∧ (t.ctx i).cause = 4)
    tabLook s.parts p.toNat = some x →
    (x.tdi = .run → (∃ t, exec (.tdiLeaveRun p now) s = .next t ∧ tdi t = .configUnlocked ∧ leaves t) ∧
      (∃ t, exec (.tdiConfigLock p .stop) s = .next t ∧ tdi t = .configUnlocked ∧ leaves t) ∧ (∃ t, exec (.tdiConfigLock p .err) s = .next t ∧ tdi t = .error ∧ leaves t)) ∧
    (x.tdi ≠ .run → exec (.tdiLeaveRun p now) s = .next (s.atTime now)) ∧
    (x.tdi = .configUnlocked → ∃ t, exec (.tdiConfigLock p .lock) s = .next t ∧ tdi t = .configLocked) ∧
    (x.tdi = .configLocked → (∃ t, exec (.tdiEnterRun p now) s = .next t ∧ tdi t = .run ∧ t.suspended p.toNat = false) ∧
      (∃ t, exec (.tdiConfigLock p .start) s = .next t ∧ tdi t = .run)) ∧
    (x.tdi ≠ .configLocked → ∃ t, exec (.tdiEnterRun p now) s = .next t ∧ tdi t = x.tdi)) ∧
  (∀ (s : State) (f : FnRef) (p : Nat) (x : Part) (stream : Byte) (tbit tagOk : Bool), let y := s.fn f
    partNo f = some p → p < 8 → tabLook s.parts p = some x → s.up = true → tabRising 0 s.fns = true →
    (x.tdi = .run → y.stream = some stream → tbit = true → tagOk = true → ∃ t, exec (.ideTlpReceive f stream tbit tagOk) s = .next t ∧ (t.fn f).tlpOk = y.tlpOk + 1 ∧ (t.fn f).tlpErr = y.tlpErr) ∧
    (x.tdi = .run → y.stream ≠ some stream ∨ tbit = false ∨ tagOk = false → ∃ t, exec (.ideTlpReceive f stream tbit tagOk) s = .next t ∧ (t.fn f).tlpErr = y.tlpErr + 1 ∧ (t.fn f).tlpOk = y.tlpOk) ∧
    (x.tdi ≠ .run → ∃ t, exec (.ideTlpReceive f stream tbit tagOk) s = .next t ∧ (t.fn f).tlpOk = y.tlpOk + 1) ∧
    (s.hasSession f.port = true → ∃ t, exec (.ideKmKeyProgramming f stream true) s = .next t ∧ (t.fn f).stream = some stream) ∧
    (s.hasSession f.port = false → exec (.ideKmKeyProgramming f stream true) s = .next s) ∧ exec (.ideKmKeyProgramming f stream false) s = .next s)

/-- R439, R453 to R457, R461, R464, R465, R504 to R506: attestation, lifecycle, firmware and the management bus. SPDM answers every request from boot stage 2 on, NOT_READY once the twin controllers have stopped, and later while they restart; draws wait while the
entropy source fails, KEY_EXCHANGE and FINISH establish a session that END_SESSION ends, and a function sees measurements of its own partition only.
Debug from DEPLOYED on needs an unused token and zeroises; the lifecycle moves one state at a time. A firmware image is staged, an activation makes it
copy A, and its commit option raises the fused SVN. The part answers on the management bus with its endpoint ID. -/
def Obligations.AttestationAndLifecycle : Prop :=
  (∀ (s : State) (by_ : Requester) (c : Instr), spdmPlainRow by_ c = true ∨ spdmDrawRow by_ c = true →
    (¬ SpdmUp s by_ → exec c s = .next s) ∧
    (SpdmUp s by_ → s.err.ctlStopped = true → exec c s = .next (s.emit (.reply by_ [0x0E]))) ∧
    (SpdmUp s by_ → s.err.ctlStopped = false → s.err.ctlRestart = true → exec c s = .next (holdCtl s c)) ∧
    (SpdmUp s by_ → ControllersRun s →
      (spdmPlainRow by_ c = true ∨ s.sec.entropyBad = none → ∃ t, exec c s = .next t ∧ Replied s t by_ ∧ t.ctxs = s.ctxs ∧ t.parts = s.parts) ∧
      (spdmDrawRow by_ c = true → s.sec.entropyBad ≠ none → exec c s = .next (holdDraw s c)))) ∧
  (∀ (s : State) (by_ : Requester) (d nonce : List Byte) (i : Byte), SpdmUp s by_ → ControllersRun s → s.sec.entropyBad = none →
    (∃ t, exec (.keyExchange by_ d) s = .next t ∧ by_ ∈ t.sec.opening) ∧
    (by_ ∈ s.sec.opening → ∃ t, exec (.finish by_ d) s = .next t ∧ by_ ∈ t.sec.sessions ∧ by_ ∉ t.sec.opening) ∧
    (by_ ∉ s.sec.opening → ∃ t, exec (.finish by_ d) s = .next t ∧ t.sec.sessions = s.sec.sessions) ∧
    (∃ t, exec (.endSession by_) s = .next t ∧ by_ ∉ t.sec.sessions ∧ by_ ∉ t.sec.opening) ∧
    (∃ t n, exec (.getMeasurements by_ i nonce) s = .next t ∧ n.length = 32 ∧
      t.sec.meas.find? (fun e => e.1 == by_) = some (by_, measBlocks s by_ i.toNat ++ nonce ++ n))) ∧
  (∀ (s : State) (f : FnRef) (p n : Nat), p < 8 → n < 16 → partNo f ≠ some p →
    measurement s (.host f) (0x10 + 16 * p + n) = none ∧ measurement s (.host f) (0xE0 + p) = none ∧ measurement s (.host f) (0xE8 + p) = none) ∧
  (∀ (s : State) (token : List Byte) (target : BitVec 2) (now : W64), SpdmUp s .mgmt → ControllersRun s →
    (2 ≤ s.sec.lifecycle.toNat → Config.debugTokenOk s.sec.nonce token = false ∨ token ∈ s.sec.used → exec (.debugUnlock token now) s = .next (settleSnow (s.atTime now))) ∧
    (s.sec.lifecycle.toNat < 2 ∨ (Config.debugTokenOk s.sec.nonce token = true ∧ token ∉ s.sec.used) → ∃ t, exec (.debugUnlock token now) s = .next t ∧ Zeroised t ∧
      t.sec.debug = true ∧ token ∈ t.sec.used ∧ t.sec.lifecycle = s.sec.lifecycle) ∧
    (target.toNat ≠ s.sec.lifecycle.toNat + 1 ∨ Config.lifecycleOk target.toNat token = false → exec (.lifecycleTransition target token now) s = .next (settleSnow (s.atTime now))) ∧
    (target.toNat = s.sec.lifecycle.toNat + 1 → Config.lifecycleOk target.toNat token = true → ∃ t, exec (.lifecycleTransition target token now) s = .next t ∧
      t.sec.lifecycle = target ∧ (target = 3 → Zeroised t))) ∧
  (∀ (s : State) (image : FwImage) (commit : Bool), s.up = true →
    (s.err.ctlStopped = true → exec (.pldmFirmwareUpdate image) s = .next (s.emit (.reply .mgmt [0x0E])) ∧ exec (.pldmActivate commit) s = .next (s.emit (.reply .mgmt [0x0E]))) ∧
    (s.err.ctlStopped = false → s.err.ctlRestart = true →
      exec (.pldmFirmwareUpdate image) s = .next (holdCtl s (.pldmFirmwareUpdate image)) ∧ exec (.pldmActivate commit) s = .next (holdCtl s (.pldmActivate commit))) ∧
    (s.err.ctlStopped = false → s.err.ctlRestart = false →
      (s.sec.recovery = false → exec (.pldmFirmwareUpdate image) s = .next { s with sec := { s.sec with staged := some image } }) ∧
      (s.sec.recovery = true → ∃ t, exec (.pldmFirmwareUpdate image) s = .next t ∧ t.sec.flash.head? = some image ∧ t.sec.running = s.sec.running) ∧
      (s.sec.staged = some image → ∃ t, exec (.pldmActivate commit) s = .next t ∧ t.sec.flash = image :: s.sec.flash.take 1 ∧ t.sec.staged = none ∧ t.sec.activated = true ∧
        t.sec.running = s.sec.running ∧ t.sec.svn.toNat = (if commit then max s.sec.svn.toNat (min s.sec.runSvn.toNat 64) else s.sec.svn.toNat)))) ∧
  (∀ (s : State) (e : Byte) (a : BitVec 7) (now : W64), s.up = true →
    (ControllersRun s → exec (.mctpControl (some e)) s = .next ({ s with eid := e }.emit (.mctp [e])) ∧ exec (.mctpControl none) s = .next (s.emit (.mctp [s.eid]))) ∧
    (s.i3cAddr = none → exec (.i3cAddressTimeout now) s = .next { s.atTime now with smbus := true }) ∧
    (s.i3cAddr ≠ none → exec (.i3cAddressTimeout now) s = .next (s.atTime now)) ∧
    (s.smbus = true → exec (.dynamicAddressAssignment a) s = .next s) ∧ (s.smbus = false → exec (.dynamicAddressAssignment a) s = .next { s with i3cAddr := some a }))

/-- R481, R507, R520 to R524, R526, R530 to R533, R544: MRAM, power, clocks and cooling. NV_STORE snapshots the settings, the seventeenth in 3,600 s is refused, and its completion puts the snapshot in the copy not
last committed with the next SEQ. CAP_W and FMAX take clamped values from management and the physical functions only. Each evaluation steps
every die as the pseudocode of R530 says, and the PLL then switches. A current event stretches the clocks; coolant out of range for 1 s
caps power at 1,500 W until it has been in range for 10 s. A telemetry refresh takes every sample. -/
def Obligations.StorageAndPower : Prop :=
  (∀ (s : State) (by_ : Requester) (die : BitVec 3) (v now : W64), let r := s.atTime now
    let recent := s.nv.stores.filter (fun t => decide (r.since t < 3600000000000))
    (s.phase ≠ .ready ∨ ¬ ControlsPackage by_ → exec (.nvStore by_ now) s = .next s ∧ exec (.pwrCapWrite by_ v) s = .next s ∧ exec (.pwrDieCtlWrite by_ die v) s = .next s) ∧
    (s.phase = .ready → ControlsPackage by_ → s.err.ctlStopped = false → s.err.ctlRestart = false →
      (s.nv.busy = true → exec (.nvStore by_ now) s = .next r) ∧
      (s.nv.busy = false → recent.length < 16 → ∃ t, exec (.nvStore by_ now) s = .next t ∧ t.nv.busy = true ∧ t.nv.snap = some s.set ∧ t.nv.stores = r.time :: recent ∧
        t.nv.copyA = s.nv.copyA ∧ t.nv.copyB = s.nv.copyB) ∧
      (s.nv.busy = false → 16 ≤ recent.length → ∃ t, exec (.nvStore by_ now) s = .next t ∧ t.nv.busy = false ∧ t.nv.limit = true ∧ t.nv.snap = s.nv.snap) ∧
      (∃ t, exec (.pwrCapWrite by_ v) s = .next t ∧ t.set.cap.toNat = max 1500 (min (bits v 15 0) s.pwr.plim.toNat) ∧ t.pwr = s.pwr) ∧
      (∃ t, exec (.pwrDieCtlWrite by_ die v) s = .next t ∧ (tabGet (2000 : W16) t.set.fmax die.toNat).toNat = max 800 (min (bits v 11 0) 2200) / 50 * 50 ∧ t.pwr = s.pwr)) ∧
    (∃ t, exec (.nvStoreWindowExpiry now) s = .next t ∧ t.nv.stores = recent ∧ t.nv.seq = s.nv.seq)) ∧
  (∀ (s : State), s.up = true →
    (s.nv.busy = false → exec (.nvStoreComplete true) s = .next s ∧ exec (.nvStoreComplete false) s = .next s) ∧
    (∀ x, s.nv.busy = true → s.nv.snap = some x → (∃ t, exec (.nvStoreComplete true) s = .next t ∧ t.nv.busy = false ∧ t.nv.seq = s.nv.seq + 1 ∧
        (s.nv.lastB = true → t.nv.copyA = some (x, s.nv.seq + 1) ∧ t.nv.copyB = s.nv.copyB) ∧ (s.nv.lastB = false → t.nv.copyB = some (x, s.nv.seq + 1) ∧ t.nv.copyA = s.nv.copyA)) ∧
      (∃ t, exec (.nvStoreComplete false) s = .next t ∧ t.nv.fail = true ∧ t.nv.busy = false ∧ t.nv.copyA = s.nv.copyA ∧ t.nv.copyB = s.nv.copyB ∧ t.nv.seq = s.nv.seq))) ∧
  (∀ (s : State) (power : W32) (tj : List W16) (now : W64) (d : BitVec 3), s.clocked = true →
    let cap := if s.pwr.coolant then min s.set.cap.toNat 1500 else s.set.cap.toNat
    let down := s.pwr.stretched = true ∨ cap < power.toNat
    let high := if down then s.pwr.overN + 1 else 0
    let f := (tabGet (tabGet (2000 : W16) s.pwr.freq d.toNat) s.pwr.target d.toNat).toNat
    let t := (tj.getD d.toNat 0).toNat
    let g := if 10 ≤ high then 800 else if down ∨ 840 ≤ t then f - 100 else if power.toNat + 50 < cap ∧ t < 800 then f + 50 else f
    ∃ u w, exec (.powerEvaluation power tj now) s = .next u ∧ u.pwr.overN = high ∧ u.pwr.stretched = false ∧ (u.pwr.stretch = true ↔ 10 ≤ high) ∧
      (tabGet (0 : W16) u.pwr.target d.toNat).toNat = max 800 (min g (tabGet (2000 : W16) s.set.fmax d.toNat).toNat) ∧
      exec (.frequencySwitch d) u = .next w ∧ (tabRising 0 s.pwr.freq = true → tabGet (2000 : W16) w.pwr.freq d.toNat = tabGet (0 : W16) u.pwr.target d.toNat)) ∧
  (∀ (s : State) (now : W64) (smp : Telemetry), let r := s.atTime now
    (s.clocked = true → ∃ t, exec .currentStretch s = .next t ∧ t.pwr.stretched = true ∧ t.pwr.stretch = true ∧ t.pwr.curlim = true) ∧
    (s.up = true → ∃ t, exec (.telemetryRefresh smp now) s = .next t ∧ t.pwr.tel = smp ∧
      (s.pwr.tInletMax.toNat < smp.coolant.toNat ∨ smp.flow.toNat < s.pwr.flowMin.toNat → t.pwr.outSince = some (s.pwr.outSince.getD r.time) ∧ t.pwr.inSince = none) ∧
      (smp.coolant.toNat ≤ s.pwr.tInletMax.toNat → s.pwr.flowMin.toNat ≤ smp.flow.toNat → t.pwr.outSince = none ∧ t.pwr.inSince = some (s.pwr.inSince.getD r.time))) ∧
    (∃ t, exec (.coolantOutOfRange now) s = .next t ∧ (t.pwr.coolant = true ↔ s.pwr.coolant = true ∨ ∃ t0, s.pwr.outSince = some t0 ∧ 1000000000 ≤ r.since t0)) ∧
    (∃ t, exec (.coolantRecovered now) s = .next t ∧ (t.pwr.coolant = true ↔ s.pwr.coolant = true ∧ ¬ ∃ t0, s.pwr.inSince = some t0 ∧ 10000000000 ≤ r.since t0)) ∧
    (s.aon = true → exec (.packageTimeResync now) s = .next r))

/-- R451, R455, R480, R509, R511 to R515, R517, R518, R521, R526, R532: resets and boot. A cold reset, warm reset, emergency stop or thermal trip leaves every register at its reset value and no old handle live,
keeps package time, MRAM, flash and every UEPOCH, a warm reset also the remap entries, and cold and warm resets raise UEPOCH; a port reset and an FLR delete their queue pairs. Boot goes stage by stage: an image that verifies, the settings copy with the higher
SEQ or defaults, PLIM from 1,500 to 3,800 W, LOST dies and stacks, and at READY the partitions of the settings exist again. Package time starts at 0 with VDD_AON. -/
def Obligations.ResetsAndBoot : Prop :=
  (∀ (s : State) (now : W64), let r := s.atTime now
    (s.aon = true → ∃ t, exec (.coldReset now) s = .next t ∧ AllReset s t ∧ NoRemaps t ∧ EpochsKept s t 1 ∧ t.phase = .boot ∧ t.warm = false ∧ t.time = r.time ∧
      t.pwr.thermtrip = s.pwr.thermtrip) ∧
    (s.aon = false → exec (.coldReset now) s = .next s ∧ ∃ t, exec .vddAonApplied s = .next t ∧ t.aon = true ∧ t.time = 0 ∧ t.phase = .held) ∧
    (s.aon = true → exec .vddAonApplied s = .next s) ∧
    (∃ t, exec .vddAonRemoved s = .next t ∧ AllReset s t ∧ NoRemaps t ∧ t.err = {} ∧ t.aon = false ∧ t.phase = .noPower ∧ t.pwr.thermtrip = false) ∧
    (s.up = true → (∃ t, exec (.warmReset now) s = .next t ∧ AllReset s t ∧ EpochsKept s t 1 ∧ t.phase = .boot ∧ t.warm = true ∧ t.time = r.time ∧ t.nv.training = s.nv.training ∧
        (∀ ch n, tabRising 0 s.hbmInst = true → tabRising 0 (s.hbmI ch).remap = true → (tabGet ({} : Remap) (s.hbmI ch).remap n).v = true →
          tabGet ({} : Remap) (t.hbmI ch).remap n = tabGet {} (s.hbmI ch).remap n)) ∧
      (∃ t, exec .emergencyStop s = .next t ∧ AllReset s t ∧ NoRemaps t ∧ EpochsKept s t 0 ∧ t.phase = .stopped ∧ t.time = s.time ∧ t.clocked = false) ∧
      (∃ t, exec .thermtrip s = .next t ∧ AllReset s t ∧ NoRemaps t ∧ EpochsKept s t 0 ∧ t.phase = .stopped ∧ t.pwr.thermtrip = true ∧ t.time = s.time)) ∧
    (s.up = false → exec (.warmReset now) s = .next s ∧ exec .emergencyStop s = .next s ∧ exec .thermtrip s = .next s)) ∧
  (∀ (s : State) (f : FnRef) (port : BitVec 1), s.up = true → tabRising 0 s.qps = true → tabRising 0 s.fns = true →
    (s.present f = true → ∃ t, exec (.flr f) s = .next t ∧ (∀ q, t.qp? ⟨f, q⟩ = none) ∧ (t.fn f).aqEn = false ∧ (t.fn f).winBase = (s.fn f).winBase) ∧
    (s.present f = false → exec (.flr f) s = .next s) ∧
    (∃ t, exec (.portReset port) s = .next t ∧ ∀ g : FnRef, g.port = port → t.fn g = {} ∧ ∀ q, t.qp? ⟨g, q⟩ = none)) ∧
  (∀ (s : State) (port : BitVec 1), ∃ t, exec (.perstDeassertion port) s = .next t ∧ t.perst.getLsbD port.toNat = true ∧ t.phase = s.phase) ∧
  (∀ (s : State) (b : BootInput) (now : W64), let r := s.atTime now
    let go := fun (t : State) => exec (.bootStageComplete b now) s = .next t
    (s.phase ≠ .boot → go r) ∧
    (s.phase = .boot →
      (s.stage = 0 → go { r with stage := 1 }) ∧
      (s.stage = 1 → (s.sec.flash.find? (imageOk s) = none → ∃ t, go t ∧ t.stage = 1 ∧ t.sec.recovery = true ∧ t.sec.udsLock = true) ∧
        (∀ i, s.sec.flash.find? (imageOk s) = some i → ∃ t, go t ∧ t.stage = 2 ∧ t.sec.recovery = false ∧ t.sec.running = Config.sha384 i.bytes ∧ t.sec.runSvn = i.svn ∧ t.sec.udsLock = true)) ∧
      (s.stage = 2 → ∃ t, go t ∧ t.stage = 3 ∧ 1500 ≤ t.pwr.plim.toNat ∧ t.pwr.plim.toNat ≤ 3800 ∧ (b.ident = [] → t.pwr.plim = 1500 ∧ t.pwr.absent = true) ∧
        (s.nv.copyA = none → s.nv.copyB = none → t.nv.bootdef = true ∧ t.set = { cap := t.pwr.plim }) ∧
        (∀ x y a c, s.nv.copyA = some (x, a) → s.nv.copyB = some (y, c) → ∃ cap, t.set = { (if a.toNat < c.toNat then y else x) with cap := cap } ∧ cap.toNat ≤ t.pwr.plim.toNat ∧
          1500 ≤ cap.toNat)) ∧
      (s.stage = 3 → ∃ t, go t ∧ t.stage = 4 ∧ ∀ d, d < 8 → b.lostDies.getLsbD d = true → (t.unit (unitId 7 d)).dpath = 6) ∧
      (s.stage = 4 → ∃ t, go t ∧ t.stage = 5 ∧ ∀ d, d < 16 → b.lostStacks.getLsbD d = true → (t.unit (unitId 5 d)).dpath = 6) ∧
      (s.stage = 5 → s.sec.entropyBad = none → ∃ t, go t ∧ t.stage = 6 ∧ t.phase = .ready ∧ t.pwr.bootEnd = some r.time ∧ t.places = s.places ∧ t.slots = s.slots ∧
        ∀ p c, (p, c) ∈ s.set.parts → c.dies ≠ 0 → ∃ x, tabLook t.parts p = some x ∧ x.curId = 1 ∧ x.prevId = 0 ∧ x.suspended = false) ∧
      (s.stage = 5 → s.sec.entropyBad ≠ none → go r)))


/-- The commands wait in a queue, and a step runs the one at its front on the state with the queue's rest; with none waiting one clock of the engines
passes, which changes nothing while the dies are not clocked. The queue, its order and the step without a command are the model's own (log 2, log 3). -/
def Obligations.StepRunsTheFrontCommand : Prop :=
  ∀ (s : State), (∀ c rest, s.pending = c :: rest → step s = exec c { s with pending := rest }) ∧ (s.pending = [] → step s = .next (tick s)) ∧ (s.clocked = false → tick s = s)

/-- Every command that can be sent runs: from any state whose waiting commands can all be sent, a step answers a next state, which has taken
the front command and no other, and whose waiting commands can all be sent. No command of the table is refused. The queue is the model's
own (log 2); what can be sent follows R19, R73, R123, R479, R483, R502 and R507. -/
def Obligations.EveryStepAnswers : Prop :=
  ∀ (s : State), QueueSendable s → ∃ t, step s = .next t ∧ t.pending = s.pending.tail ∧ QueueSendable t

/-- R526, R527: package time runs without interruption until VDD_AON is removed, through every reset: no step takes it back but the one that
applies VDD_AON again, at which it starts from 0. -/
def Obligations.PackageTimeNeverRunsBack : Prop :=
  ∀ (s t : State), step s = .next t →
    (s.time.toNat ≤ t.time.toNat) ∨ (s.aon = false ∧ t.aon = true ∧ t.time = 0 ∧ s.pending.head? = some .vddAonApplied)

/-- R56, R100 to R105, R145, R184, R240, R241, R242, R261, R388, R448, R460, R526, R533: the reset state. Threads are STOPPED with clear fault records, the queue ports go
from thread 0 to thread 1, every tile has its configuration of R145, the DMA channels are idle, the power limit is 1,500 W and the dies run at
2,000 MHz; no request, partition, placement, queue pair or slot exists, memory lists nothing and no command waits. The values the spec leaves
open are the model's (log 7) and stand in no clause. -/
def Obligations.ResetState : Prop :=
  let s := State.reset
  (∀ (c : CoreId) (t : BitVec 2), let r := ioLook s c t
    r 0x008 = 0 ∧ r 0x010 = 0x11111111 ∧ r 0x100 = 8 ∧ r 0x118 = 2000 ∧ r 0x180 = 0 ∧ r 0x1D0 = 0 ∧ r 0x1D8 = 0x800 ∧ r 0x3F8 = 3 ∧
    (∀ n, n < 4 → r (0x20 + 8 * n) = 0 ∧ r (0x190 + 8 * n) = 0 ∧ r (0x1B0 + 8 * n) = 0) ∧
    (∀ n, n < 16 → r (0x40 + 8 * n) = 0x37CF8000) ∧ (∀ n, 16 ≤ n → n < 24 → r (0x40 + 8 * n) = 0x07CF8000) ∧
    (∀ n, n < 8 → r (0x208 + 0x40 * n) = 0 ∧ r (0x210 + 0x40 * n) = 0 ∧ r (0x218 + 0x40 * n) = 0 ∧ r (0x220 + 0x40 * n) = 0 ∧ r (0x228 + 0x40 * n) = 0) ∧
    (s.core c).lm = {} ∧ (s.core c).istore = {}) ∧
  powerRead s 0x400208 = 1500 ∧ powerRead s 0x400210 = 0 ∧ (∀ n, n < 8 → powerRead s (0x400220 + 8 * n) = 0x7D007D0) ∧ s.set.policy = 0x3C00203 ∧
  (∀ u, s.unit u = {}) ∧ s.ctxs = [] ∧ s.parts = [] ∧ s.places = [] ∧ s.slots = [] ∧ (∀ q, s.qp? q = none) ∧ s.err.log = [] ∧ s.err.degraded = false ∧
  s.hbm = {} ∧ s.commons = [] ∧ s.net = [] ∧ s.pending = [] ∧ QueueSendable s

/-- R73 to R77, R87, R102 to R108, R126, R130, R133 to R135, R138, R139: the forms of a core's instructions and threads that complete, each with its own effect
under conditions on the state and operands alone. END stops its thread; each vector form is done with the registers it writes; loads and stores
of own local memory, far loads and atomics, posted stores, RST, CST, channel instructions, ROUTE, engine operations, register accesses and waits go on past
themselves; a form whose own effect is a fault leaves the thread FAULTED; thread, register, engine, DMA, mesh, arrival, channel-register, barrier and integrity
commands, host entries, doorbells, window accesses, steps, request and placement events, faults, unit commands, security, storage, power and reset commands
each answer a next state in which what they do is done. What else each does stands in the statements above. -/
def Obligations.EveryFormCompletes : Prop :=
  -- END, undecodable bytes, a reserved opcode
  (∀ (s : State) (i : Site), Runs s ⟨i, 0xD5, [], 0⟩ → Completes (.endT i) s (fun t => (t.thread i.core i.thr).st = .stopped)) ∧
  (∀ (s : State) (c : CoreId) (t : BitVec 2) (bytes : List Byte), let th := s.thread c t;
    let sc := scanBytes 17 bytes [] 0 false false;
    OnCore s c → (th.st = .running ∨ th.st = .waiting) → th.asyncDue = false → slotGrants s c t .S = true → (sc.opcode = true → 15 < sc.count) →
    sc.reserved = true ∨ sc.dup = true ∨ 15 < sc.count ∨ th.past = true ∨ (sc.ended = true ∧ 0x10000 ≤ th.pc.toNat + bytes.length) →
    Completes (.undecodable c t bytes) s (fun u => (u.thread c t).st = .faulted)) ∧
  (∀ (s : State) (i : Site) (opc : Byte), let l : Layout := ⟨i, opc.toNat, [], 0⟩;
    opSig opc.toNat = none → CanIssue s l → InStore s l → FetchClean s l → Granted s l → (i.px.map prefixLen).sum ≤ 15 →
    Completes (.reservedOpcode i opc) s (fun t => (t.thread i.core i.thr).st = .faulted)) ∧
  -- vector moves and selections
  (∀ (s : State) (i : Site) (ty o1 o2 o3 imm8 : Byte),
    (Runs s ⟨i, 0x58, [ty, o1, o2, imm8], 0⟩ → ∃ rs : List (W512 × Bool), DoneIn s ⟨i, 0x58, [ty, o1, o2, imm8], 0⟩ (.vcvt i ty o1 o2 imm8) .V
      (rs.zipIdx.map (fun e => { lat := 4, dst := .v (indexOf o1 + e.2), val := e.1.1, vovf := e.1.2 }))) ∧
    (Runs s ⟨i, 0x59, [ty, o1, o2], 0⟩ → OperandsReady (s.core i.core) i.thr [] [o2] → ∃ r, DoneIn s ⟨i, 0x59, [ty, o1, o2], 0⟩ (.vbcast i ty o1 o2) .V
      [{ lat := 2, dst := .v (indexOf o1), val := r }]) ∧
    (Runs s ⟨i, 0x5A, [ty, o1, o2, imm8], 0⟩ → OperandsReady (s.core i.core) i.thr [o1] [] → ∃ r : W64, DoneIn s ⟨i, 0x5A, [ty, o1, o2, imm8], 0⟩
      (.vextr i ty o1 o2 imm8) .V [{ lat := 2, dst := (takeDst (fetched s ⟨i, 0x5A, [ty, o1, o2, imm8], 0⟩).k o1).2, val := r.zeroExtend 512 }]) ∧
    (Runs s ⟨i, 0x5B, [ty, o1, o2, o3], 0⟩ → ∃ r, DoneIn s ⟨i, 0x5B, [ty, o1, o2, o3], 0⟩ (.vperm i ty o1 o2 o3) .V
      [{ lat := 2, dst := .v (indexOf o1), val := r }]) ∧
    (Runs s ⟨i, 0x60, [ty, o1, o2, imm8], 0⟩ → ∃ vals idx, DoneIn s ⟨i, 0x60, [ty, o1, o2, imm8], 0⟩ (.vtopk i ty o1 o2 imm8) .V
      [{ lat := 8, dst := .v (indexOf o1), val := vals }, { lat := 8, dst := .v (indexOf o1 + 1), val := idx }]) ∧
    (Runs s ⟨i, 0x61, [ty, o1, o2, o3], 0⟩ → ∃ r, DoneIn s ⟨i, 0x61, [ty, o1, o2, o3], 0⟩ (.vsample i ty o1 o2 o3) .V
      [{ lat := 8, dst := .v (indexOf o1), val := r }]) ∧
    (Runs s ⟨i, 0x62, [ty, o1, o2, imm8], 0⟩ → ∃ r, DoneIn s ⟨i, 0x62, [ty, o1, o2, imm8], 0⟩ (.gate i ty o1 o2 imm8) .V
      [{ lat := 8, dst := .v (indexOf o1), val := r }])) ∧
  -- loads, stores and atomics
  (∀ e ∈ loads, ∀ (s : State) (i : Site) (o1 o2 : Byte) (imm : W32), let l : Layout := ⟨i, e.2.1, [o1, o2], imm⟩;
    let a := l.addr s o2;
    Runs s l → OperandsReady (s.core i.core) i.thr [o1] [] → a.toNat < 0x60000 → a.toNat % e.2.2.1 = 0 → LmClean s i.core →
    ∃ r, DoneIn s l (e.1 i o1 o2 imm) .X [{ lat := 6, dst := (takeDst (fetched s l).k o1).2, val := r }]) ∧
  (∀ e ∈ stores, ∀ (s : State) (i : Site) (o1 o2 : Byte) (imm : W32), let l : Layout := ⟨i, e.2.1, [o1, o2], imm⟩;
    let a := l.addr s o2;
    Runs s l → OperandsReady (s.core i.core) i.thr [] [o1] → a.toNat < 0x60000 → a.toNat % e.2.2 = 0 → DoneIn s l (e.1 i o1 o2 imm) .X []) ∧
  (∀ (s : State) (i : Site) (o1 o2 : Byte) (imm : W32), let l : Layout := ⟨i, 0xAC, [o1, o2], imm⟩;
    let a := l.addr s o2;
    Runs s l → a.toNat < 0x60000 → a.toNat % 64 = 0 → DoneIn s l (.stv i o1 o2 imm) .X []) ∧
  (∀ e ∈ atomics, ∀ (s : State) (i : Site) (o1 o2 o3 : Byte) (die off : Nat) (d : Dest) (w : Wait), let l : Layout := ⟨i, e.2.1, [o1, o2, o3], 0⟩;
    let a := (l.th s).readG (indexOf o2);
    Runs s l → OperandsReady (s.core i.core) i.thr [o1] [o3] → a.toNat % 8 = 0 → s.classify a = .commons die off → FarOk s l a d →
    AwaitsFar s l w → w.done = true → w.err = false → ∃ r, DoneIn s l (e.1 i o1 o2 o3) .X [{ lat := 1, dst := (takeDst (sourced (fetched s l) [o3]) o1).2, val := r }]) ∧
  (∀ (s : State) (i : Site) (o1 o2 o3 : Byte) (imm : W32) (target : CoreId) (off : Nat),
    (let l : Layout := ⟨i, 0xB0, [o1, o2], imm⟩;
      let a := (l.th s).readG (indexOf o2);
      Runs s l → OperandsReady (s.core i.core) i.thr [] (if fileOf o1 = 1 then [] else [o1]) → a.toNat % (if fileOf o1 = 1 then 64 else 8) = 0 →
      s.classify a = .window target off → s.rangeFaults i.core (l.th s).priv a = [] → routerAccepts s i.core 0 1 = true → DoneIn s l (.rst i o1 o2 imm) .X []) ∧
    (let l : Layout := ⟨i, 0xB1, [o1, o2, o3], 0⟩;
      let a := (l.th s).readG (indexOf o2);
      let w := l.src s o3;
      Runs s l → OperandsReady (s.core i.core) i.thr [] [o3] → cairnIllegal w o1 = false → a.toNat % (if w.getLsbD 29 then 32 else 128) = 0 →
      s.classify a = .window target off → s.rangeFaults i.core (l.th s).priv a = [] → routerAccepts s i.core 3 (if w.getLsbD 29 then 1 else 2) = true →
      DoneIn s l (.cst i o1 o2 o3) .X [])) ∧
  -- channels, ROUTE, FILL and COPY, registers, waits
  (∀ (s : State) (i : Site) (o1 o2 : Byte) (imm : W32), let n := rawImm i.px imm % 64;
    (let l : Layout := ⟨i, 0xB8, [o1], imm⟩;
      Runs s l → OperandsReady (s.core i.core) i.thr [] (if fileOf o1 = 1 then [] else [o1]) → MaySend s i.core n → DoneIn s l (.rsend i o1 imm) .X []) ∧
    (let l : Layout := ⟨i, 0xB9, [], imm⟩;
      Runs s l → MaySend s i.core n → DoneIn s l (.rsendt i imm) .X []) ∧
    (let l : Layout := ⟨i, 0xBA, [o1, o2], imm⟩;
      Runs s l → OperandsReady (s.core i.core) i.thr [o1, o2] [] → ((s.core i.core).ring n).en = true → ((s.core i.core).ring n).wr ≠ ((s.core i.core).ring n).rd →
      LmClean s i.core → ∃ ws, DoneIn s l (.rrd i o1 o2 imm) .X ws ∧ ws.length = 2)) ∧
  (∀ (s : State) (i : Site) (o1 o2 o3 : Byte), let l : Layout := ⟨i, 0xBB, [o1, o2, o3], 0⟩;
    Runs s l → OperandsReady (s.core i.core) i.thr [] [o3] → LmClean s i.core → (∀ w, (l.th s).wait ≠ some w) → routeRecs (l.v s o2) = [] →
    routeFaults 0 (l.v s o1) [] (l.src s o3) = [] → tabGet 0 (s.core i.core).lm.data ((l.src s o3).toNat + 2) = 0 →
    Completes (.route i o1 o2 o3) s (fun t => (t.thread i.core i.thr).tick = (l.th s).tick + 1 ∧ t.net = s.net)) ∧
  (∀ (s : State) (i : Site) (o1 o2 o3 : Byte), let a := (s.thread i.core i.thr).readG (indexOf o1);
    let b := (s.thread i.core i.thr).readG (indexOf o2);
    let n := (s.thread i.core i.thr).readG (indexOf o3);
    (Runs s ⟨i, 0xBC, [o1, o2, o3], 0⟩ → OperandsReady (s.core i.core) i.thr [] [o3] → a.toNat % 8 = 0 → b.toNat % 8 = 0 → a.toNat + b.toNat ≤ 0x60000 →
      DoneIn s ⟨i, 0xBC, [o1, o2, o3], 0⟩ (.fill i o1 o2 o3) .X []) ∧
    (Runs s ⟨i, 0xBD, [o1, o2, o3], 0⟩ → a.toNat % 8 = 0 → b.toNat % 8 = 0 → n.toNat % 8 = 0 → b.toNat + n.toNat ≤ 0x60000 → a.toNat + n.toNat ≤ 0x60000 →
      DoneIn s ⟨i, 0xBD, [o1, o2, o3], 0⟩ (.copy i o1 o2 o3) .X []) ∧
    (Runs s ⟨i, 0xD8, [o1, o2, o3], 0⟩ → a.toNat % 16 = 0 → b.toNat % 64 = 0 → n.toNat % 16 = 0 → n ≠ 0 → b.toNat + n.toNat ≤ 0x60000 → a.toNat + n.toNat ≤ 0x10000 →
      DoneIn s ⟨i, 0xD8, [o1, o2, o3], 0⟩ (.iload i o1 o2 o3) .X []) ∧
    (Runs s ⟨i, 0xD9, [o1, o2], 0⟩ → a.toNat % 16 = 0 → b.toNat % 16 = 0 → b ≠ 0 → a.toNat + b.toNat ≤ 0x10000 →
      DoneIn s ⟨i, 0xD9, [o1, o2], 0⟩ (.iverify i o1 o2) .X [])) ∧
  (∀ (s : State) (i : Site) (o1 : Byte) (imm : W32), let a := rawImm i.px imm;
    (Runs s ⟨i, 0xC0, [o1], imm⟩ → OperandsReady (s.core i.core) i.thr [o1] [] → a % 8 = 0 → a < 0xD00 → ∃ v : W64,
      DoneIn s ⟨i, 0xC0, [o1], imm⟩ (.inp i o1 imm) .X [{ lat := 2, dst := (takeDst (fetched s ⟨i, 0xC0, [o1], imm⟩).k o1).2, val := v.zeroExtend 512 }]) ∧
    (Runs s ⟨i, 0xC1, [o1], imm⟩ → OperandsReady (s.core i.core) i.thr [] [o1] → a % 8 = 0 → a < 0xD00 → a < 0xB00 ∨ 0xC00 ≤ a ∨ (s.thread i.core i.thr).priv = true →
      DoneIn s ⟨i, 0xC1, [o1], imm⟩ (.outp i o1 imm) .X []) ∧
    (Runs s ⟨i, 0xDC, [o1], imm⟩ → OperandsReady (s.core i.core) i.thr [] [o1] →
      bits ((⟨i, 0xDC, [o1], imm⟩ : Layout).src s o1) 31 0 ≤ bits ((s.core i.core).acnt (a % 32)) 31 0 → DoneIn s ⟨i, 0xDC, [o1], imm⟩ (.wait i o1 imm) .X []) ∧
    (Runs s ⟨i, 0xDD, [o1], imm⟩ → OperandsReady (s.core i.core) i.thr [o1] [] → ((s.core i.core).me.queue.filter (fun o => o.thr == i.thr)).length ≤ a % 16 → ∃ r,
      DoneIn s ⟨i, 0xDD, [o1], imm⟩ (.msync i o1 imm) .M [{ lat := 1, dst := (takeDst (fetched s ⟨i, 0xDD, [o1], imm⟩).k o1).2, val := r }]) ∧
    (Runs s ⟨i, 0xDE, [o1], 0⟩ → OperandsReady (s.core i.core) i.thr [o1] [] → ∀ r rest, (s.thread i.core i.thr).records = r :: rest →
      DoneIn s ⟨i, 0xDE, [o1], 0⟩ (.dsync i o1) .X [{ lat := 1, dst := (takeDst (fetched s ⟨i, 0xDE, [o1], 0⟩).k o1).2, val := r.zeroExtend 512 }]) ∧
    (Runs s ⟨i, 0xDF, [], imm⟩ → ∀ w, (s.thread i.core i.thr).wait = some w → w.done = true → DoneIn s ⟨i, 0xDF, [], imm⟩ (.bar i imm) .X [])) ∧
  -- threads and registers of a core
  (∀ (s : State) (c : CoreId) (t : BitVec 2) (pc : W16) (v now : W64), let th := s.thread c t;
    OnCore s c →
    ((th.st = .stopped ∨ th.st = .faulted) → (s.core c).busyFor t = false → Completes (.thrStart c t pc) s (fun r => (r.thread c t).st = .running ∧ (r.thread c t).pc = pc)) ∧
    ((th.st = .running ∨ th.st = .waiting) → Completes (.thrPark c t) s (fun r => (r.thread c t).st = .parked)) ∧
    (th.st = .parked → Completes (.thrUnpark c t) s (fun r => (r.thread c t).st = th.parkedFrom)) ∧
    Completes (.thrStop c t) s (fun r => (r.thread c t).st = .stopped) ∧
    (∀ w, th.st = .waiting → th.wait = some w → waitHolds (s.atTime now) c t w = false → th.waitTo.toNat * 1000 ≤ w.spent.toNat + (s.atTime now).since w.begun →
      (s.core c).place = none → Completes (.waitTimeout c t now) s (fun r => (r.thread c t).st = .faulted)) ∧
    (∀ f, nextAsync th.async = some f → f.code ≠ 0 → Completes (.asyncFaultDelivery c t none) s (fun r => (r.thread c t).st = .faulted ∧ (r.thread c t).async = th.async.erase f)) ∧
    Completes (.thrWaittoWrite c t v) s (fun r => (r.thread c t).waitTo.toNat = max 1 (min 1000000 v.toNat)) ∧
    (∀ m, Completes (.thrRngWrite c t m v) s (fun r => (if m = true then (r.thread c t).rngM else (r.thread c t).rngS) = (if v = 0 then 0x9E3779B97F4A7C15 else v))) ∧
    Completes (.coreQcfgWrite c v) s (fun r => ∀ p, p < 8 → (s.core c).portAwaited p = false → bits (r.core c).qcfg (4 * p + 3) (4 * p) = bits v (4 * p + 3) (4 * p)) ∧
    Completes (.registerWrite (.io c t 0x118) v) s (fun r => (r.thread c t).waitTo.toNat = max 1 (min 1000000 v.toNat)) ∧
    (th.alarm.getLsbD 63 = true → bits th.alarm 57 0 = bits (s.atTime now).time 57 0 → Completes (.alarmFire c t now) s (fun r => (r.thread c t).alarm.getLsbD 63 = false))) ∧
  -- engines and checkers
  (∀ (s : State) (c : CoreId) (now : W64), OnCore s c →
    (∀ o, (s.core c).me.queue.find? (fun o => o.started && !isMma o) = some o → (meetsFence (s.core c).me o = true → Completes (.lsOpComplete c) s
        (fun t => t = releaseHeld (finishOp s c o) c)) ∧
      (meetsFence (s.core c).me o = false → Completes (.lsOpComplete c) s (fun t => t = releaseHeld (finishOp (runLs s c o).1 c (runLs s c o).2) c))) ∧
    (∀ o r, (s.core c).fcq = o :: r → o.moved = 0 → o.bad = false → (∀ p, r.head? = some p → p.kind.empty = false) → NoStartHeld s c →
      LmClean s c → CodeClean (s.core c).istore ((s.core c).inst 1) → tabWf 0xFF (s.core c).istore.data = true → Completes (.fcOpComplete c) s (fun t => (t.core c).fcq = r)) ∧
    Completes (.latentCheckerTest c true now) s (fun t => tabGet 0 t.err.latest (0x10000 + c.toNat) = (s.atTime now).time) ∧
    Completes (.routerSilentTimeout c now) s (fun t => t.err.reports.length = s.err.reports.length + 1) ∧
    ((s.core c).me.queue ≠ [] → Completes (.engineWatchdog c now) s (fun t => t.err.reports.length = s.err.reports.length + 1))) ∧
  -- DMA channels
  (∀ (s : State) (c : CoreId) (n : BitVec 3), let x := chanAt s c n;
    let k := s.core c;
    OnCore s c →
    (∀ thr, x.st = .idle → x.desc.toNat % 64 = 0 → x.desc.toNat + 64 ≤ 0x60000 → LmClean s c → descFieldsOk (descOf (getBytes 0 k.lm.data x.desc.toNat 64)) = true →
      descRangesOk s c (s.thread c thr).priv (descOf (getBytes 0 k.lm.data x.desc.toNat 64)) = true → Completes (.dmaStart c thr n) s (fun t => (chanAt t c n).st = .active)) ∧
    (x.st = .active → Completes (.dmaStop c n) s (fun t => (chanAt t c n).st = .stopping)) ∧
    ((x.st = .stopped ∨ x.st = .haltedBus) → x.words ≠ [] → Completes (.dmaResume c n) s (fun t => (chanAt t c n).st = .active)) ∧
    ((x.st = .stopped ∨ x.st = .haltedBus ∨ x.st = .haltedInvalid) → Completes (.dmaAbort c n) s (fun t => (chanAt t c n).st = .idle)) ∧
    (∀ total a bs, x.st = .active → x.words ≠ [] → routerAccepts s c 0 1 = true → x.dstTotal = some total → x.wr < total → dstPiece x x.wr = some (a, bs) → a.toNat < 0x60000 →
      LmClean s c → Completes (.dmaPacket c n false) s (fun t => getBytes 0 (t.core c).lm.data a.toNat bs.length = bs)) ∧
    (∀ a off kind rest, x.bad = (a, off, kind) :: rest → (x.st = .active ∨ x.st = .stopping) →
      (tabGet (0, k.dmaRetry.toNat) x.tries (4 * off + kind)).2 ≤ (tabGet (0, k.dmaRetry.toNat) x.tries (4 * off + kind)).1 → NoStartHeld s c →
      Completes (.dmaPacketError c n) s (fun t => (chanAt t c n).st = .haltedBus ∧ (chanAt t c n).errAddr = a)) ∧
    (x.st = .active → x.words ≠ [] → x.bad = [] → x.dstTotal = some x.dstDone → x.d.next = 0 → x.d.evh = false → NoStartHeld s c →
      Completes (.dmaDescriptorComplete c n) s (fun t => (chanAt t c n).st = .idle)) ∧
    (x.st = .stopping → k.dmaInFlight n.toNat = false → NoStartHeld s c → Completes (.dmaStopDrained c n) s (fun t => (chanAt t c n).st = .stopped))) ∧
  -- arrivals at cores and memories
  (∀ (s : State) (pkt : Nat) (p : Packet) (c : CoreId) (tag : ReqTag), let k := s.core c;
    ArrivesAt s pkt p c →
    (∀ ring isTok code len payload cnt, p.body = .msg tag ring isTok code len payload cnt none → (k.ring ring.toNat).en = true →
      (k.ring ring.toNat).used < (k.ring ring.toNat).cap → LmClean s c → Completes (.ringMessageArrive pkt true) s
        (fun t => (t.core c).ring ring.toNat = { k.ring ring.toNat with wr := (k.ring ring.toNat).wr + 1 })) ∧
    (∀ n ring alt, p.body = .bindReq tag n ring alt → k.altitude.toNat < alt.toNat → (k.ring ring.toNat).en = true → (k.ring ring.toNat).mode = false →
      (k.ring ring.toNat).holder = none → s.samePlace p.src c = true → Completes (.bindRequestArrive pkt) s
        (fun t => ((t.core c).ring ring.toNat).holder = some (p.src, n))) ∧
    (∀ n rsn credit r, p.body = .bindAns tag n rsn credit → matchSlot s tag = some r → tag.core = c → (k.bind n.toNat).state = 1 →
      Completes (.bindAnswerArrive pkt) s (fun t => ((t.core c).bind n.toNat).state = if rsn = 0 then 2 else 3)) ∧
    (∀ n ring, p.body = .unbind n ring → (k.ring ring.toNat).holder = some (p.src, n) →
      Completes (.unbindArrive pkt) s (fun t => ((t.core c).ring ring.toNat).holder = none)) ∧
    (∀ n ring, p.body = .credit n ring → (k.bind n.toNat).state = 2 → (k.bind n.toNat).target = p.src → (k.bind n.toNat).ring = ring →
      Completes (.creditReturnArrive pkt) s (fun t => ((t.core c).bind n.toNat).credit = (k.bind n.toNat).credit + 1)) ∧
    (∀ thr ring j slots, p.body = .claim tag thr ring j slots → (k.ring ring.toNat).en = true → (k.ring ring.toNat).mode = true →
      (∀ n, n < 8 → (k.cap n).en = true → (k.cap n).ring ≠ ring) → (k.ring ring.toNat).claims = [] →
      (k.ring ring.toNat).promised + slots + (k.ring ring.toNat).used ≤ (k.ring ring.toNat).cap →
      Completes (.routeClaimArrive pkt) s (fun t => ((t.core c).ring ring.toNat).promised = (k.ring ring.toNat).promised + slots)) ∧
    (∀ thr j granted r, p.body = .claimAns tag thr j granted → matchSlot s tag = some r → tag.core = c → Completes (.routeClaimAnswer pkt) s (fun t =>
      (t.thread c thr).claims = (s.thread c thr).claims.map (fun x => if x.j = j ∧ x.answer = 0 then { x with answer := if granted then 1 else 2 } else x))) ∧
    (∀ a bs cnt, p.body = .store tag a bs cnt → LmClean s c → Completes (.remoteWriteArrive pkt) s
      (fun t => getBytes 0 (t.core c).lm.data (a.toNat % 0x100000) bs.length = bs)) ∧
    (∀ a m, p.body = .load tag a m → LmClean s c → Completes (.remoteWriteArrive pkt) s (fun t => NetAfter s t p.id [packet s 1 c (.core tag.core)
      (.reply tag (BitVec.ofNat 512 (leNat (getBytes 0 k.lm.data (a.toNat % 0x100000) m))) false)])) ∧
    (∀ val err r w, p.body = .reply tag val err → tag.core = c → matchSlot s tag = some r → r.kind = .load ∨ r.kind = .atomic → (s.thread c r.thr).wait = some w →
      w.kind = 9 → w.slot = some (tag.slot, r.epoch) → Completes (.farResponseArrive pkt) s (fun t => Answered t c r.thr val err)) ∧
    (∀ r, p.body = .ack tag false → tag.core = c → matchSlot s tag = some r → r.kind = .store ∨ r.kind = .send →
      Completes (.writeAckArrive pkt) s (fun t => matchSlot t tag = none)) ∧
    (∀ r, p.body = .fenced tag → tag.core = c → matchSlot s tag = some r → r.kind = .store →
      Completes (.fencedAnswerArrive pkt) s (fun t => matchSlot t tag = none ∧ (t.thread c r.thr).async.length = (s.thread c r.thr).async.length + 1)) ∧
    (∀ a id n op f16 sat cnt vals cl wr, p.body = .cairn a id n op f16 sat cnt vals cl wr → vals.length = 16 → n ≠ 0 → LmClean s c →
      Completes (.cairnFinalCombine pkt true) s (fun t => (t.core c).acnt cnt.toNat = acntAdd (k.acnt cnt.toNat) n.toNat))) ∧
  (∀ (s : State) (pkt : Nat) (p : Packet) (tag : ReqTag) (a : W64) (d off : Nat), AtMemory s pkt p → tabGet [] s.writeQ (destQueue p.dst) = [] →
    (∀ die sl m, p.dst = .slice die sl → s.classify a = .commons d off → SliceClean s (sliceKey d off) → p.body = .load tag a m → Completes (.commonsRequestArrive pkt) s
      (fun t => NetAfter s t p.id [{ packet s 1 (destRouter p.dst) (.core tag.core)
        (.reply tag (BitVec.ofNat 512 (leNat (getBytes 0 (s.slice (sliceKey d off)).data (sliceOff off) m))) false) with tile := true }])) ∧
    (∀ die h bs cnt, p.dst = .hbm die h → s.classify a = .hbm d off → off % 64 + bs.length ≤ 64 → UnitClean s (s.home d off).1 (s.home d off).2 →
      (s.home d off).2 % 64 = off % 64 → p.body = .store tag a bs cnt → Completes (.hbmRequestArrive pkt) s
        (fun t => tabGet [] t.writeQ (destQueue p.dst) = [{ src := p.src, addr := a, bytes := bs }]))) ∧
  -- the mesh
  (∀ (s : State) (r n : CoreId) (o : Port), OnCore s r → neighbour r o = some n →
    (∀ ok p, tabGet false s.linkHold (linkNo r o) = false → s.linkFenced r o = false → (∀ p ∈ s.net, p.cls ≠ 3) → tabRising 0 (s.core r).perf = true →
      pickPacket s r o n = some p → Completes (.meshFlitForward r o ok) s (fun t => t.net = s.net.filter (fun q => q.id ≠ p.id) ++
        [{ p with at_ := n, inp := opposite o, out := false }])) ∧
    (tabGet false s.linkHold (linkNo r o) = false → s.linkFenced r o = false → n ≠ r → (pickPacket s r o n).isSome = true → tabRising 0 s.linkHold = true →
      tabGet 0 (s.core r).crcFails (portNo o) < 8 → Completes (.flitCrcFail r o) s
        (fun t => tabGet 0 (t.core r).crcFails (portNo o) = tabGet 0 (s.core r).crcFails (portNo o) + 1)) ∧
    (∀ e, bridgeEdge r n o = some e → tabRising 0 s.linkHold = true → tabGet false s.linkHold (linkNo r o) = true → tabGet 0 s.links e < 2 →
      Completes (.bridgeSpareSwitch r o) s (fun t => tabGet false t.linkHold (linkNo r o) = false)) ∧
    (∀ pkt p, p ∈ s.net → p.id = pkt → afterClear s p = true → Completes (.cairnHoldExpiry pkt) s (fun t => { p with free := true } ∈ t.net))) ∧
  -- channel registers and barriers
  (∀ (s : State) (c : CoreId) (n : BitVec 6) (m : BitVec 3) (v : W64), OnCore s c →
    (ringRefused ((s.core c).ring n.toNat) v = false → ((s.core c).ring n.toNat).en = false → v.getLsbD 0 = true → ((s.core c).ring n.toNat).claims = [] →
      Completes (.ringCtlWrite c n v) s (fun t => ((t.core c).ring n.toNat).en = true)) ∧
    (((s.core c).bind n.toNat).state = 0 ∨ ((s.core c).bind n.toNat).state = 3 → v.getLsbD 63 = true → isCore (BitVec.ofNat 14 (bits v 13 0)) = true →
      s.samePlace c (BitVec.ofNat 14 (bits v 13 0)) = true → (s.core c).place ≠ none → Completes (.chanBindWrite c n v) s (fun t => ((t.core c).bind n.toNat).state = 1)) ∧
    Completes (.routeCapWrite c m v) s (fun t => ((t.core c).cap m.toNat).limit.toNat = bits v 47 32 ∧ ((t.core c).cap m.toNat).en = v.getLsbD 63)) ∧
  (∀ (s : State) (c : CoreId) (n : BitVec 4) (v : W64), OnCore s c →
    (((s.core c).bar n.toNat).member = true → ((s.core c).bar n.toNat).arrived &&& ((s.core c).bar n.toNat).mask = ((s.core c).bar n.toNat).mask →
      Completes (.barrierArrival c n) s (fun t => ((t.core c).bar n.toNat).plane = true)) ∧
    ((s.core c).place ≠ none → (∀ q, inBar (s.thread c q) n.toNat = false) → Completes (.barThrmaskWrite c n v) s
      (fun t => ((t.core c).bar n.toNat).mask = BitVec.ofNat 4 (bits v 3 0)))) ∧
  (∀ (s : State) (place : Nat) (n : BitVec 4), let cs := (s.placeCores place).filter (fun c => ((s.core c).bar n.toNat).member);
    s.clocked = true → cs ≠ [] → cs.Nodup → (∀ c ∈ cs, ((s.core c).bar n.toNat).plane = true ∧ ((s.core c).bar n.toNat).mask ≠ 0) →
    Completes (.barrierRelease place n) s (fun t => ∀ c ∈ cs, ((t.core c).bar n.toNat).phase = ((s.core c).bar n.toNat).phase + 1)) ∧
  -- integrity
  (∀ (s : State) (r : MemRef) (i : Inst), InstAt s r i → Completes (.intLogclr r) s (fun t => t.memInst r = some { i with log := [], logovf := false }) ∧
    Completes (.rawAccessComplete r) s (fun t => t.memInst r = some { i with busy := 0 })) ∧
  (∀ (s : State) (c : CoreId) (n : BitVec 3) (v : W64), let i := (s.core c).inst 0;
    let m := (s.core c).lm;
    isCore c = true → i.remap = [] → tabWf 0 m.data = true → tabRising 0 m.chk = true →
    (i.testEn = true → i.busy = 0 → testAddr i < 0x60000 → Completes (.writeRaw (.core c 0)) s (fun t => eccData 0 (t.core c).lm (testAddr i / 8) = i.tdata.truncate 64) ∧
      Completes (.readRaw (.core c 0)) s (fun t => ((t.core c).inst 0).tdata = (eccData 0 m (testAddr i / 8)).zeroExtend 512)) ∧
    (m.chk = [] → v.getLsbD 63 = true → Completes (.intRemapWrite (.core c 0) n v) s (fun t => (tabGet {} ((t.core c).inst 0).remap n.toNat).v = true)) ∧
    Completes (.scrubRead (.core c 0) 0x5FFF8) s (fun t => ((t.core c).inst 0).passes = i.passes + 1) ∧
    (∀ off d, tabLook i.wb (off / 8) = some d → Completes (.eccWriteback (.core c 0) off) s (fun t => eccRead 0 (t.core c).lm (off / 8) = .ok d))) ∧
  -- host queues, entries and windows
  (∀ (s : State) (f : FnRef) (q : BitVec 12) (x : Qp) (v : W64), s.present f = true → s.phase = .ready → s.qp? ⟨f, q⟩ = some x →
    x.sqHead < x.sqSize → x.sqTail < x.sqSize → x.cqHead < x.cqSize → x.cqTail < x.cqSize → x.held = [] → let n := bits v 15 0;
    (n < x.sqSize → (∃ k, k + (x.sqTail + x.sqSize - x.sqHead) % x.sqSize < x.sqSize ∧ n = (x.sqTail + k) % x.sqSize) →
      Completes (.sqTailDoorbell f q v) s (fun t => t = settleSnow (s.setQp ⟨f, q⟩ { x with sqTail := n }))) ∧
    (n < x.cqSize → (∃ k, k ≤ (x.cqTail + x.cqSize - x.cqHead) % x.cqSize ∧ n = (x.cqHead + k) % x.cqSize) →
      Completes (.cqHeadDoorbell f q v) s (fun t => t = s.setQp ⟨f, q⟩ { x with cqHead := n }))) ∧
  (∀ (s : State) (q : QRef) (x : Qp) (now u : W64), s.qp? q = some x → x.since = some u → u.toNat ≤ s.time.toNat → s.time.toNat ≤ now.toNat →
    1000 * x.timeUs.toNat ≤ now.toNat - u.toNat → x.vector.toNat < s.vectors q.fn → Completes (.msixCoalesceTimer q now) s (fun t => t.out = .msix q.fn x.vector :: s.out)) ∧
  (∀ (s : State) (f : FnRef) (v : W64), s.present f = true → s.up = true → tabRising 0 s.fns = true → tabRising 0 s.qps = true → v.getLsbD 0 = true → (s.fn f).aqEn = false →
    Completes (.hstAqenWrite f v) s (fun t => (t.fn f).aqEn = true ∧ (t.qp? ⟨f, 0⟩).isSome = true)) ∧
  (∀ (s : State) (f : FnRef) (p d o : Nat) (off : BitVec 36) (n : BitVec 7) (bs : List Byte), let a : W64 := (s.fn f).winBase + off.zeroExtend 64;
    s.present f = true → s.phase = .ready → tabRising 0 s.fns = true → bs ≠ [] → bs.length = n.toNat → partNo f = some p → s.classify a = .hbm d o →
    (tabGet ({} : PartCfg) s.set.parts p).dies.getLsbD d = true → o + n.toNat ≤ s.hbmReserved → o % 64 + n.toNat ≤ 64 → s.writeQ = [] →
    (s.home d o).2 % 64 = o % 64 → UnitClean s (s.home d o).1 (s.home d o).2 → s.sealedRange p a.toNat n.toNat = false → s.offFenced d o = false →
    s.rangeFenced d o n.toNat = false →
    Completes (.bar4Read f off n) s (fun t => t.out = .readData f (unitBytes s (s.home d o).1 (s.home d o).2 n.toNat) :: s.out) ∧
    Completes (.bar4Write f off bs) s (fun t => unitBytes t (s.home d o).1 (s.home d o).2 n.toNat = bs)) ∧
  -- entries of serving requests
  (∀ (s : State) (h : HostCmd) (p : Nat) (bs : List Byte), let e := h.e;
    let r := taken s h;
    let k := ctrKey p e.contract.toNat;
    let sl := slotKey p e.slot.toNat;
    partNo h.q.fn = some p → p < 8 → h.data = some bs → Acts (.submit h) h s → e.flags.getLsbD 0 = false → e.outAddr.toNat % 64 = 0 →
    (tabGet ({} : PartCfg) s.set.parts p).plain = true → 64 * (e.maxNew.toNat + 2) ≤ e.outLen.toNat → 64 + 4 * e.promptLen.toNat ≤ e.len1.toNat → s.suspended p = false →
    e.slot.toNat < 16 → (s.mslot sl).ready = true → (s.ctrCfg k).slots.getLsbD e.slot.toNat = true → (∀ n, (freeCtx r n).isSome = true) → e.prefixKey = 0 →
    shortage r sl k ((e.promptLen.toNat + 1 + (s.slotCfg sl).tpp.toNat - 1) / (s.slotCfg sl).tpp.toNat) = 0 →
    Completes (.submit h) s (fun t => ∃ i, (s.ctx i).st = .free ∧ (t.ctx i).st = .admitted ∧ (t.ctx i).hostTag = e.hostTag)) ∧
  (∀ (s : State) (h : HostCmd) (i : Nat), let x := s.ctx i;
    Names s h i →
    (Acts (.cancel h) h s → x.st = .paused ∨ x.st = .draining → Completes (.cancel h) s (fun t => Ended t i .cancelled 0x04 0)) ∧
    (Acts (.hold h) h s → x.st = .admitted ∨ x.st = .prefill ∨ x.st = .decode → Completes (.hold h) s (fun t => (t.ctx i).st = .paused ∧ (t.ctx i).cause = 3)) ∧
    (Acts (.release h) h s → x.st = .paused → x.cause = 3 → x.prior = none → Completes (.release h) s (fun t => (t.ctx i).st = x.resume ∧ (t.ctx i).cause = 0)) ∧
    (Acts (.readCtx h) h s → 256 ≤ h.e.len1.toNat → Completes (.readCtx h) s (fun t => ∃ b, t = finish (hostWrite (taken s h) h.e.addr1 b) h 0 ∧ b.length = 256))) ∧
  (∀ (s : State) (h : HostCmd) (p : Nat) (x : Place), let k := placeKey p h.e.index.toNat;
    partNo h.q.fn = some p → h.e.index.toNat < 256 → s.place? k = some x →
    (Acts (.run h) h s → x.running = none → x.waiting = [] → Serving s x → (x.cores.map (·.core)).Nodup → Completes (.run h) s
      (fun t => ∃ c, (t.place k).running = some c ∧ c.q = some h.q ∧ c.hostTag = h.e.hostTag)) ∧
    (Acts (.castCmd h) h s → x.cast = none → x.running = none → Completes (.castCmd h) s (fun t => ∃ y, (t.place k).cast = some y ∧ y.cause = 3)) ∧
    (Acts (.readCast h) h s → 256 + 1536 * x.cores.length ≤ h.e.len1.toNat → ∀ bs u, plinthRead (taken s h) x.area (256 + 1536 * x.cores.length) = (bs, true, u) →
      Completes (.readCast h) s (fun t => t = finish (hostWrite u h.e.addr1 bs) h 0)) ∧
    (Acts (.placeDestroy h) h s → tabRising 0 s.places = true → Completes (.placeDestroy h) s (fun t => t.place? k = none))) ∧
  -- administrative entries
  (∀ (s : State) (h : HostCmd) (p : Nat), let r := taken s h;
    partNo h.q.fn = some p →
    (∀ n, 1 ≤ n → n < 4096 → Acts (.createQp h) h s → 1 ≤ bits h.e.len1 15 0 → 1 ≤ bits h.e.len1 31 16 →
      r.qpCount (fnsOf (some p)) < (tabGet ({} : PartCfg) s.set.parts p).qps.toNat → r.qpTotal < 4096 → tabLook s.qps (qpKey ⟨h.q.fn, BitVec.ofNat 12 n⟩) = none →
      (∀ m, 1 ≤ m → m < n → (tabLook s.qps (qpKey ⟨h.q.fn, BitVec.ofNat 12 m⟩)).isSome = true) →
      Completes (.createQp h) s (fun t => ∃ x, t = finish (r.setQp ⟨h.q.fn, BitVec.ofNat 12 n⟩ x) h 0 (BitVec.ofNat 32 n) ∧ x.sqAddr = h.e.addr1 ∧ x.cqAddr = h.e.outAddr)) ∧
    (Acts (.deleteQp h) h s → h.e.index ≠ 0 → h.e.index.toNat < 4096 → (r.qp? ⟨h.q.fn, h.e.index.truncate 12⟩).isSome = true →
      r.ctxs.filter (fun e => e.2.live && e.2.q == ⟨h.q.fn, h.e.index.truncate 12⟩) = [] →
      Completes (.deleteQp h) s (fun t => t = settleSnow (finish { r with qps := tabDel r.qps (qpKey ⟨h.q.fn, h.e.index.truncate 12⟩) } h 0))) ∧
    (∀ bs, h.data = some bs → Acts (.cfgWrite h) h s → h.e.index = 2 → h.e.arg.toNat < 256 → 58 ≤ (bs.take h.e.len1.toNat).length →
      field (bs.take h.e.len1.toNat) 0 2 = 2 → field (bs.take h.e.len1.toNat) 2 2 = 1 → 58 ≤ field (bs.take h.e.len1.toNat) 4 4 → Completes (.cfgWrite h) s (fun t =>
        ∃ status map, t = finish { r with set := { r.set with contracts := tabPut r.set.contracts (ctrKey p h.e.arg.toNat) (contractOf (bs.take h.e.len1.toNat) (unreserved r (ctrKey p h.e.arg.toNat) (field (bs.take h.e.len1.toNat) 18 2))) } } h status 0 map)) ∧
    (Acts (.cfgRead h) h s → h.e.index = 2 → h.e.arg.toNat < 256 → Completes (.cfgRead h) s (fun t => ∃ b,
      t = finish (hostWrite r h.e.addr1 (b.take h.e.len1.toNat)) h 0 ∧ b.length = 58 ∧ field b 0 2 = 2)) ∧
    (∀ bs, h.data = some bs → bs.length = h.e.len1.toNat → Acts (.slotLoad h) h s → h.e.index.toNat < 16 → (s.mslot (slotKey p h.e.index.toNat)).ready = false → h.e.arg = 0 →
      bs.length ≤ (s.slotCfg (slotKey p h.e.index.toNat)).weightLen.toNat → (bs.length < (s.slotCfg (slotKey p h.e.index.toNat)).weightLen.toNat → bs.length % 65536 = 0) →
      (bs.length = 0 ∨ inPartHbm r p (s.slotCfg (slotKey p h.e.index.toNat)).weightBase bs.length = true) →
      Completes (.slotLoad h) s (fun t => (t.mslot (slotKey p h.e.index.toNat)).loaded = bs.length)) ∧
    (Acts (.slotUnload h) h s → h.e.index.toNat < 16 → h.e.flags.getLsbD 3 = true → Completes (.slotUnload h) s (fun t =>
      (t.mslot (slotKey p h.e.index.toNat)).ready = false ∧ (t.mslot (slotKey p h.e.index.toNat)).weights = none)) ∧
    (∀ d o, Acts (.zeroRange h) h s → s.classify h.e.addr1 = .hbm d o → h.e.addr1.toNat % 4096 = 0 → o % 4096 = 0 →
      (tabGet ({} : PartCfg) s.set.parts p).dies.getLsbD d = true → o + h.e.len1.toNat * 4096 ≤ s.hbmReserved → (∀ x, s.home d x = (d, x) ∧ s.unhome d x = (d, x)) →
      Completes (.zeroRange h) s (fun t => ∀ x, o ≤ x → x < o + h.e.len1.toNat * 4096 → tabGet false t.hbm.pages (pageOf d x) = false)) ∧
    (∀ bs, h.data = some bs → Acts (.placeCreate h) h s → h.e.index.toNat < 256 → s.place? (placeKey p h.e.index.toNat) = none →
      let raws := rawEntries bs (tabGet ({} : PlaceCfg) s.set.places (placeKey p h.e.index.toNat)).cores.toNat;
      raws ≠ [] → (∀ b ∈ raws, coreEntryOk r p b = true) → ((raws.map (fun b => (coreEntry b).2)).map (·.core)).Nodup →
      (∀ b ∈ raws, (coreEntry b).2.istoreLen = 0 ∧ (coreEntry b).2.preloadLen = 0) → (∀ e ∈ s.slots, e.2.lostAt = none) →
      Completes (.placeCreate h) s (fun t => (t.place? (placeKey p h.e.index.toNat)).isSome = true))) ∧
  (∀ (s : State) (j : ZeroJob), s.zeroJobs.find? (fun x => x.id == j.id) = some j →
    Completes (.zeroRangeComplete j.id) s (fun t => t = post { s with zeroJobs := s.zeroJobs.filter (fun x => x.id != j.id) } j.q (cmdDone j.status j.hostTag 0 j.info2))) ∧
  -- steps, requests and snowlines in time
  (∀ (s : State) (p : BitVec 3) (n : BitVec 4) (now : W64) (key i : Nat) (pl : Place), let k := slotKey p.toNat n.toNat;
    let x := s.ctx i;
    (s.mslot k).ready = true → (s.mslot k).step = none → s.suspended p.toNat = false → s.sec.entropyBad = none → s.err.schReload = false → s.fenced (unitPlinth 1) = false →
    (s.mslot k).place = some key → s.place? key = some pl → Serving s pl → candidatesOf s k = [i] → x.st = .decode → x.specOk = false → x.slotKey = k →
    1 ≤ (s.slotCfg k).maxBatch.toNat → 1 ≤ (s.slotCfg k).maxTokens.toNat → tooManyHeld (s.atTime now) x = false →
    (x.pos.toNat + 1 + (s.slotCfg k).tpp.toNat - 1) / (s.slotCfg k).tpp.toNat ≤ x.pages.length →
    256 + ((4 * x.pages.length + 63) / 64 * 64) ≤ (s.slotCfg k).stepSize.toNat →
    Completes (.stepFormation p n now) s (fun t => ∃ st e, (t.mslot k).step = some st ∧ st.entries = [e] ∧ e.ctx = i ∧ e.kind = 2)) ∧
  (∀ (s : State) (p : BitVec 3) (n : BitVec 4) (now : W64) (st : Step), let k := slotKey p.toNat n.toNat;
    (s.mslot k).step = some st →
    (∀ e bs u, s.err.schReload = false → st.result = some 0 → st.entries = [e] → e.kind = 2 →
      plinthRead (s.atTime now) ((s.slotCfg k).stepBase + BitVec.ofNat 64 st.outOff) 64 = (bs, true, u) →
      handleOf e.ctx (s.ctx e.ctx) = e.handle → (s.ctx e.ctx).st = .decode → (s.ctx e.ctx).cancelRx = false → field bs 1 1 % 2 = 0 →
      (s.ctx e.ctx).emitted.toNat < (s.ctx e.ctx).maxNew.toNat → (s.ctx e.ctx).slotKey = k →
      Completes (.stepCommandComplete p n now) s (fun t => (t.ctx e.ctx).emitted = (s.ctx e.ctx).emitted + 1 ∧ (t.mslot k).stepSeq = (s.mslot k).stepSeq + 1)) ∧
    (∀ key c, (s.mslot k).place = some key → (s.place key).running = some c → c.step = some k → c.status = none → st.limit.toNat * 1000 ≤ (s.atTime now).since c.began →
      c.touched = [] → (s.place key).waiting = [] → Completes (.stepLimitExpiry p n now) s (fun t => Cancelled t key 0x0B))) ∧
  (∀ (s : State) (ctx : BitVec 21) (now : W64), let i := ctx.toNat;
    let x := s.ctx i;
    (x.st = .paused → x.cause = 1 → x.tArrive.toNat + (s.ctrCfg x.ctr).maxDefer.toNat * 1000 < (s.atTime now).time.toNat →
      Completes (.deferExpiry ctx now) s (fun t => Ended t i .failed 0x03 0x07)) ∧
    (sealTurn s i = true → s.suspended x.part.toNat = false → x.st ≠ .draining ∨ 2 ≤ x.unsealed.length → Completes (.tokenSeal ctx true now) s
      (fun t => (t.ctx i).unsealed = x.unsealed.tail ∧ (t.ctx i).chunks = x.chunks + 1)) ∧
    (x.st = .done ∨ x.st = .cancelled ∨ x.st = .failed → noticeHeld (s.atTime now) i = false → (∀ y ∈ s.contracts, i ∉ y.2.defers) →
      Completes (.contextFree ctx now) s (fun t => (t.ctx i).st = .free ∧ (t.ctx i).gen = x.gen + 1))) ∧
  (∀ (s : State) (p : BitVec 3) (c : Byte) (n : BitVec 5) (v : W64) (x : Part), let k := ctrKey p.toNat c.toNat;
    let new := fun (t : State) => tabGet ({} : Snow) (tabGet ({} : Part) t.parts p.toNat).snows n.toNat;
    ((s.ctrCfg k).rate ≠ 0 → s.bucket k < ((s.ctrCfg k).burst.toNat : Nat) → Completes (.bucketRefill p c) s (fun t => t.bucket k = s.bucket k + 1)) ∧
    (s.phase = .ready → tabLook s.parts p.toNat = some x →
      (tabRising 0 x.snows = true → Completes (.schSnowCfgWrite p n v) s (fun t => bits (new t).cfg 47 32 = bits v 47 32 ∧ bits (new t).cfg 63 60 = bits v 63 60) ∧
        (let old := tabGet ({} : Snow) x.snows n.toNat;
        v.getLsbD 0 = true → snowSide old.cfg (snowLevel s p.toNat old.cfg) = old.live → Completes (.schSnowStatWrite p n v) s
            (fun t => (new t).crossed = false ∧ (new t).count = 0 ∧ (new t).armed = true))) ∧
      (v.getLsbD 24 = true → x.meas.busy = false → tabRising 0 s.hists = true → Completes (.schMeasGo p v) s (fun t => (tabGet ({} : Part) t.parts p.toNat).meas.busy = true ∧
        Completes (.schMeasSnapshotDone p) t (fun u => (tabGet ({} : Part) u.parts p.toNat).meas.busy = false ∧
          (tabGet ({} : Part) u.parts p.toNat).meas.snap = tabGet ({} : Hist) s.hists (histKey (ctrKey p.toNat (bits v 7 0)) (bits v 9 8))))))) ∧
  -- placements
  (∀ (s : State) (key : Nat) (now : W64) (x : Place), let r := s.atTime now;
    s.place? key = some x →
    (∀ y q tag, x.cast = some y → y.cause = 3 → y.q = some (q, tag) → y.parked = [] → x.running = none → x.waiting = [] →
      Completes (.castComplete key now) s (fun t => ∃ u : State, u.qps = s.qps ∧ t = post (u.setPlace key { x with cast := none }) q (cmdDone 0 tag 0 0))) ∧
    (∀ c q, x.running = some c → c.status = none → c.step = none → c.q = some q → x.waiting = [] → s.writeQ = [] → (∀ e ∈ x.cores, (s.core e.core).sync.clampCmd = false) →
      allStopped r key = true → drainedOut r key = true →
      (x.sinceAlign.toNat + 1 < x.cfg.realignN.toNat → Completes (.commandEnd key now) s (fun t => t = post
          (r.setPlace key { x with running := none, sinceAlign := x.sinceAlign + 1 }) q (cmdDone (if c.retried then 0x0C else 0) c.hostTag 0 0))) ∧
      (x.cfg.realignN.toNat ≤ x.sinceAlign.toNat + 1 → (∀ e ∈ x.cores, Aligned s e.core) →
        Completes (.realignment key now) s (fun t => (t.place key).running = none ∧ (t.place key).sinceAlign = 0))) ∧
    (∀ c, x.running = some c → c.status = none → c.step = none → x.cfg.cmdLimit.toNat * 1000000 ≤ r.since c.began → allStopped r key = false → x.cast = none → c.cast = false →
      c.touched = [] → Completes (.cmdLimitExpiry key now) s (fun t => ∃ d, (t.place key).running = some d ∧ d.status = some 0x0B)) ∧
    (x.draining = false → x.drained = false → Completes (.drain key) s (fun t => (t.place key).draining = true)) ∧
    (x.draining = true → drainedOut s key = true → Completes (.drainComplete key) s (fun t => (t.place key).drained = true ∧ (t.place key).image.isSome = true)) ∧
    (∀ img u, x.image = some img → x.drained = true → (∀ e ∈ x.cores, s.coreFenced e.core = false) → plinthRead s img.at_ img.bytes.length = (img.bytes, true, u) →
      img.key = (tabGet ({} : Part) s.parts (key / 256)).saveKey → Completes (.restore key) s (fun t => (t.place key).drained = false ∧ (t.place key).image = none)) ∧
    (∀ c status, x.running = some c → x.waiting = [] → status ∈ statusOrder → c.touched = [] → Completes (.stepCancel key status now) s (fun t => Cancelled t key status))) ∧
  -- faults, units and the Plinth
  (∀ (s : State) (rep : FaultRep) (now : W64), unitExists rep.unit = true → (s.unit rep.unit).dpath ≠ 6 → rep.cls = 10 → rep.place = none →
    Completes (.faultReport rep now) s (fun t => ∃ x, Recorded s t x ∧ x.cls = 10 ∧ x.unit = rep.unit ∧ x.detail = rep.detail)) ∧
  (∀ (s : State) (c : CoreId) (now : W64), let u := unitCore c;
    let x := s.unit u;
    (x.testing = true → x.hard = false → Completes (.selfTestComplete u true now) s (fun t => (t.unit u).testing = false ∧ (t.unit u).uepoch = x.uepoch + 1)) ∧
    (OnCore s c → (s.core c).place = none → x.recovering = true → x.hard = true → x.testing = false → (s.unit (unitId 1 c.toNat)).recovering = false →
      (tabLook s.spares (segKey c) = none → Completes (.spareSubstitution c now) s (fun t => tabLook t.spares (segKey c) = some c.toNat)) ∧
      (tabLook s.spares (segKey c) = some c.toNat → Completes (.spareSubstitutionComplete c now) s (fun t => (t.unit u).recovering = false))) ∧
    (∀ n q f, isCore c = true → tabLook (s.core c).slots n = some q → q.isOpen = true →
      (s.fenced f = true → q.unit = f → tabRising 0 (s.core c).slots = true → Completes (.fenceNotice f c) s (fun t => ∃ q', tabLook (t.core c).slots n = some q' ∧ q'.isOpen = false)) ∧
      (500000 ≤ (s.atTime now).since q.sent → Completes (.lostAnswerTimeout c n now) s (fun t => ∃ q', tabLook (t.core c).slots n = some q' ∧ q'.isOpen = false)))) ∧
  (∀ (s : State) (d : Nat) (u : W32) (now : W64),
    (d < 8 → Completes (.heartbeatTimeout (unitId 7 d) now) s (fun t => (t.unit (unitId 7 d)).dpath = 6)) ∧
    (unitExists u = true → unitKind u ≠ 9 → unitKind u ≠ 10 → Completes (.capacityLoss u now) s (fun t => (t.unit u).dpath = 6))) ∧
  (∀ (s : State) (p : BitVec 3) (n : BitVec 4) (now t0 : W64), let k := slotKey p.toNat n.toNat;
    (s.mslot k).lostAt = some t0 → 5000000000 ≤ (s.atTime now).since t0 → (s.mslot k).ready = false → (∀ a ∈ (s.slotCfg k).alts, altOk (s.atTime now) k (placeKey p.toNat a.toNat) = false) →
    Completes (.altPlacementTimeout p n now) s (fun t => (t.mslot k).lostAt = none)) ∧
  (∀ (s : State) (now : W64),
    (s.up = true → s.err.ctlStopped = false → s.err.lastMismatch = none → Completes (.lockstepMismatch now) s (fun t => t.err.ctlRestart = true) ∧
      Completes (.controllerWatchdog now) s (fun t => t.err.ctlRestart = true)) ∧
    (s.err.ctlRestart = true → s.err.heldCmds = [] → Completes .controllerRestartDone s (fun t => t.err.ctlRestart = false)) ∧
    (s.err.schReload = true → s.err.heldSch = [] → Completes .schedulerReloadComplete s (fun t => t.err.schReload = false)) ∧
    Completes (.schedulerMismatch now) s (fun t => t.err.schReload = true) ∧
    Completes (.lockstepCheckerTest 3 now) s (fun t => tabGet 0 t.err.latest 0 = (s.atTime now).time ∧ tabGet 0 t.err.latest 1 = (s.atTime now).time)) ∧
  (∀ (s : State) (by_ : Requester) (u : W32) (die : BitVec 3) (v now : W64), s.phase = .ready → ControlsPackage by_ → ControllersRun s →
    (unitExists u = true → (s.unit u).setTo = none →
      (s.effective u < 3 → placesUsing s u = [] → Completes (.errUnitSet by_ u 3 true now) s (fun t => (t.unit u).mgmt = 3)) ∧
      Completes (.errUnitReconcile by_ u 0 true now) s (fun t => (t.unit u).mgmt = (s.unit u).dpath ∧ (t.unit u).disputed = false)) ∧
    Completes (.errPolicyWrite by_ v) s (fun t => bits t.set.policy 2 0 = (if bits v 2 0 = 0 then 1 else bits v 2 0)) ∧
    (s.nv.busy = false → (s.nv.stores.filter (fun t => decide ((s.atTime now).since t < 3600000000000))).length < 16 →
      Completes (.nvStore by_ now) s (fun t => t.nv.busy = true ∧ t.nv.snap = some s.set)) ∧
    Completes (.pwrCapWrite by_ v) s (fun t => t.set.cap.toNat = max 1500 (min (bits v 15 0) s.pwr.plim.toNat)) ∧
    Completes (.pwrDieCtlWrite by_ die v) s (fun t => (tabGet (2000 : W16) t.set.fmax die.toNat).toNat = max 800 (min (bits v 11 0) 2200) / 50 * 50)) ∧
  -- keys, interfaces, attestation and the management bus
  (∀ (s : State) (p : BitVec 3) (x : Part) (v now : W64), tabLook s.parts p.toNat = some x →
    (s.phase = .ready → s.sec.entropyBad = none → (v.getLsbD 16 = true → Completes (.secHpkeRotate p v now) s (fun t => ∃ y, tabLook t.parts p.toNat = some y ∧ y.prevId = x.curId)) ∧
      (s.rotateS p.toNat ≠ 0 → (s.rotateS p.toNat).toNat * 1000000000 ≤ (s.atTime now).since x.rotated → Completes (.hpkeAutoRotate p now) s
        (fun t => ∃ y, tabLook t.parts p.toNat = some y ∧ y.prevId = x.curId))) ∧
    (x.tdi = .run → Completes (.tdiLeaveRun p now) s (fun t => t.suspended p.toNat = true)) ∧
    (x.tdi = .configUnlocked → Completes (.tdiConfigLock p .lock) s (fun t => (tabGet ({} : Part) t.parts p.toNat).tdi = .configLocked)) ∧
    (x.tdi = .configLocked → Completes (.tdiEnterRun p now) s (fun t => (tabGet ({} : Part) t.parts p.toNat).tdi = .run))) ∧
  (∀ (s : State) (f : FnRef) (p : Nat) (x : Part) (stream : Byte), partNo f = some p → p < 8 → tabLook s.parts p = some x → s.up = true → tabRising 0 s.fns = true →
    (x.tdi = .run → (s.fn f).stream = some stream → Completes (.ideTlpReceive f stream true true) s (fun t => (t.fn f).tlpOk = (s.fn f).tlpOk + 1)) ∧
    (s.hasSession f.port = true → Completes (.ideKmKeyProgramming f stream true) s (fun t => (t.fn f).stream = some stream))) ∧
  (∀ (s : State) (now t0 : W64),
    (s.sec.entropyBad = none → Completes (.entropyHealthTestFail now) s (fun t => t.sec.entropyBad = some (s.atTime now).time)) ∧
    (s.sec.heldDraw = [] → Completes (.entropyHealthTestPass now) s (fun t => t.sec.entropyBad = none)) ∧
    (s.sec.entropyBad = some t0 → 10000000 ≤ (s.atTime now).since t0 → Completes (.entropyFailTimeout now) s (fun t => ∃ x, Recorded s t x ∧ x.unit = unitId 9 2))) ∧
  (∀ (s : State) (by_ : Requester) (c : Instr), spdmPlainRow by_ c = true ∨ (spdmDrawRow by_ c = true ∧ s.sec.entropyBad = none) → SpdmUp s by_ → ControllersRun s →
    Completes c s (fun t => Replied s t by_)) ∧
  (∀ (s : State) (token : List Byte) (target : BitVec 2) (image : FwImage) (e : Byte) (a : BitVec 7) (now : W64), SpdmUp s .mgmt → ControllersRun s →
    (s.sec.lifecycle.toNat < 2 ∨ (Config.debugTokenOk s.sec.nonce token = true ∧ token ∉ s.sec.used) → Completes (.debugUnlock token now) s (fun t => t.sec.debug = true)) ∧
    (target.toNat = s.sec.lifecycle.toNat + 1 → Config.lifecycleOk target.toNat token = true →
      Completes (.lifecycleTransition target token now) s (fun t => t.sec.lifecycle = target)) ∧
    (s.sec.recovery = false → Completes (.pldmFirmwareUpdate image) s (fun t => t.sec.staged = some image)) ∧
    (s.sec.staged = some image → Completes (.pldmActivate true) s (fun t => t.sec.activated = true ∧ t.sec.staged = none)) ∧
    Completes (.mctpControl (some e)) s (fun t => t.eid = e) ∧
    (s.i3cAddr = none → Completes (.i3cAddressTimeout now) s (fun t => t.smbus = true)) ∧
    (s.smbus = false → Completes (.dynamicAddressAssignment a) s (fun t => t.i3cAddr = some a))) ∧
  -- storage, power, resets and boot
  (∀ (s : State) (x : Settings) (now : W64), s.up = true →
    (s.nv.busy = true → s.nv.snap = some x → Completes (.nvStoreComplete true) s (fun t => t.nv.busy = false ∧ t.nv.seq = s.nv.seq + 1)) ∧
    Completes (.nvStoreWindowExpiry now) s (fun t => t.nv.stores = s.nv.stores.filter (fun t => decide ((s.atTime now).since t < 3600000000000))) ∧
    (∀ smp, Completes (.telemetryRefresh smp now) s (fun t => t.pwr.tel = smp)) ∧
    Completes (.warmReset now) s (fun t => t.phase = .boot ∧ t.warm = true) ∧ Completes .emergencyStop s (fun t => t.phase = .stopped) ∧
    Completes .thermtrip s (fun t => t.pwr.thermtrip = true) ∧
    (∀ port, tabRising 0 s.qps = true → tabRising 0 s.fns = true → Completes (.portReset port) s (fun t => ∀ g : FnRef, g.port = port → t.fn g = {})) ∧
    (∀ f, tabRising 0 s.qps = true → tabRising 0 s.fns = true → s.present f = true → Completes (.flr f) s (fun t => (t.fn f).aqEn = false ∧ ∀ q, t.qp? ⟨f, q⟩ = none))) ∧
  (∀ (s : State) (power : W32) (tj : List W16) (d : BitVec 3) (now : W64), s.clocked = true →
    Completes (.powerEvaluation power tj now) s (fun t => t.pwr.stretched = false ∧ (tabGet (0 : W16) t.pwr.target d.toNat).toNat ≤ max 800 (tabGet (2000 : W16) s.set.fmax d.toNat).toNat) ∧
    (tabRising 0 s.pwr.freq = true → Completes (.frequencySwitch d) s (fun t => tabGet (2000 : W16) t.pwr.freq d.toNat = BitVec.ofNat 16 (s.fset d.toNat))) ∧
    Completes .currentStretch s (fun t => t.pwr.stretched = true ∧ t.pwr.curlim = true)) ∧
  (∀ (s : State) (t0 : W64) (port : BitVec 1) (b : BootInput) (now : W64),
    (s.pwr.outSince = some t0 → 1000000000 ≤ (s.atTime now).since t0 → Completes (.coolantOutOfRange now) s (fun t => t.pwr.coolant = true)) ∧
    (s.pwr.inSince = some t0 → 10000000000 ≤ (s.atTime now).since t0 → Completes (.coolantRecovered now) s (fun t => t.pwr.coolant = false)) ∧
    (s.aon = true → Completes (.packageTimeResync now) s (fun t => t = s.atTime now) ∧ Completes (.coldReset now) s (fun t => t.phase = .boot ∧ t.warm = false)) ∧
    (s.aon = false → Completes .vddAonApplied s (fun t => t.aon = true ∧ t.time = 0)) ∧
    Completes .vddAonRemoved s (fun t => t.aon = false ∧ t.phase = .noPower) ∧
    Completes (.perstDeassertion port) s (fun t => t.perst.getLsbD port.toNat = true) ∧
    (s.phase = .boot → s.stage = 5 → s.sec.entropyBad = none → Completes (.bootStageComplete b now) s (fun t => t.phase = .ready)))
end

