-- ==== Sys2Proof/Laws/Kept.lean ====
section
/-! SUPPORT. What no operation of the machine touches: the waiting commands and package time. `State.kept` names the two fields, and
each operation has one lemma that says it leaves them as they were. -/

namespace Sys2Proof.Machine

set_option linter.all false

/-- The two fields that only the queue's step and the events that carry a time may change: the waiting commands and package time. -/
def State.kept (s : State) : List Instr × W64 := (s.pending, s.time)
@[simp] theorem State.kept_fold (s : State) : (s.pending, s.time) = s.kept := by simp only [State.kept]
@[simp] theorem State.kept_mk
    (a0 a1 a2 a3 a4 a5 a6 a7 a8 a9 a10 a11 a12 a13 a14 a15 a16 a17 a18 a19 a20 a21 a22 a23 a24 a25 a26 a27 a28 a29 a30 a31 a32 a33 a34 a35
    a36 a37 a38 a39 a40 a41 a42 a43 a44) :
    (State.mk a0 a1 a2 a3 a4 a5 a6 a7 a8 a9 a10 a11 a12 a13 a14 a15 a16 a17 a18 a19 a20 a21 a22 a23 a24 a25 a26 a27 a28 a29 a30 a31 a32 a33
        a34 a35 a36 a37 a38 a39 a40 a41 a42 a43 a44).kept = (a0, a8) := by simp only [State.kept]
theorem kept_foldl {α : Type} (f : State → α → State) (l : List α) (s : State) (h : ∀ s a, (f s a).kept = s.kept) :
    (l.foldl f s).kept = s.kept := by
  induction l generalizing s with
  | nil => rfl
  | cons a l ih => rw [List.foldl_cons, ih, h]
theorem kept_foldl_snd {α β : Type} (f : β × State → α → β × State) (l : List α) (p : β × State)
    (h : ∀ p a, (f p a).2.kept = p.2.kept) : (l.foldl f p).2.kept = p.2.kept := by
  induction l generalizing p with
  | nil => rfl
  | cons a l ih => rw [List.foldl_cons, ih, h]
theorem kept_ite {c : Prop} [Decidable c] {x y s : State} (hx : x.kept = s.kept) (hy : y.kept = s.kept) :
    (if c then x else y).kept = s.kept := by
  split <;> assumption
@[simp] theorem State.setUnit_kept (a0) (a1) (a2) : (State.setUnit a0 a1 a2).kept = a0.kept := rfl
@[simp] theorem State.setCore_kept (a0) (a1) (a2) : (State.setCore a0 a1 a2).kept = a0.kept := rfl
@[simp] theorem State.setThread_kept (a0) (a1) (a2) (a3) : (State.setThread a0 a1 a2 a3).kept = a0.kept := rfl
@[simp] theorem State.freeVal_kept (a0) (a1) : (State.freeVal a0 a1).2.kept = a0.kept := rfl
@[simp] theorem State.emit_kept (a0) (a1) : (State.emit a0 a1).kept = a0.kept := rfl
@[simp] theorem State.report_kept (a0) (a1) : (State.report a0 a1).kept = a0.kept := rfl
@[simp] theorem stampUes_kept (a0) (a1) (a2) : (stampUes a0 a1 a2).kept = a0.kept := by
  unfold stampUes
  try dsimp only
  repeat' (first | assumption | (simp; done) | (with_reducible refine kept_ite ?_ ?_) | split | (refine (kept_foldl _ _ _ ?_).trans ?_)
                 | (refine (kept_foldl_snd _ _ _ ?_).trans ?_) | intro _ | (with_reducible rfl))
@[simp] theorem faultReport_kept (a0) (a1) (a2) (a3) (a4) : (faultReport a0 a1 a2 a3 a4).kept = a0.kept := by
  unfold faultReport
  try dsimp only
  repeat' (first | assumption | (simp; done) | (with_reducible refine kept_ite ?_ ?_) | split | (refine (kept_foldl _ _ _ ?_).trans ?_)
                 | (refine (kept_foldl_snd _ _ _ ?_).trans ?_) | intro _ | (with_reducible rfl))
@[simp] theorem raiseAsync_kept (a0) (a1) (a2) (a3) (a4) (a5) (a6) (a7) (a8) : (raiseAsync a0 a1 a2 a3 a4 a5 a6 a7 a8).kept = a0.kept := by
  unfold raiseAsync
  try dsimp only
  repeat' (first | assumption | (simp; done) | (with_reducible refine kept_ite ?_ ?_) | split | (refine (kept_foldl _ _ _ ?_).trans ?_)
                 | (refine (kept_foldl_snd _ _ _ ?_).trans ?_) | intro _ | (with_reducible rfl))
@[simp] theorem raiseUe_kept (a0) (a1) (a2) (a3) (a4) (a5) (a6) (a7) : (raiseUe a0 a1 a2 a3 a4 a5 a6 a7).kept = a0.kept := by
  unfold raiseUe
  try dsimp only
  repeat' (first | assumption | (simp; done) | (with_reducible refine kept_ite ?_ ?_) | split | (refine (kept_foldl _ _ _ ?_).trans ?_)
                 | (refine (kept_foldl_snd _ _ _ ?_).trans ?_) | intro _ | (with_reducible rfl))
@[simp] theorem reportUes_kept (a0) (a1) (a2) : (reportUes a0 a1 a2).kept = a0.kept := by
  unfold reportUes
  try dsimp only
  repeat' (first | assumption | (simp; done) | (with_reducible refine kept_ite ?_ ?_) | split | (refine (kept_foldl _ _ _ ?_).trans ?_)
                 | (refine (kept_foldl_snd _ _ _ ?_).trans ?_) | intro _ | (with_reducible rfl))
@[simp] theorem lmRead_kept (a0) (a1) (a2) (a3) : (lmRead a0 a1 a2 a3).2.2.kept = a0.kept := by unfold lmRead; simp
@[simp] theorem lmWrite_kept (a0) (a1) (a2) (a3) : (lmWrite a0 a1 a2 a3).2.kept = a0.kept := by unfold lmWrite; simp
@[simp] theorem lmPoison_kept (a0) (a1) (a2) : (lmPoison a0 a1 a2).kept = a0.kept := rfl
@[simp] theorem State.raiseCnt_kept (a0) (a1) (a2) : (State.raiseCnt a0 a1 a2).kept = a0.kept := by
  unfold State.raiseCnt
  try dsimp only
  repeat' (first | assumption | (simp; done) | (with_reducible refine kept_ite ?_ ?_) | split | (refine (kept_foldl _ _ _ ?_).trans ?_)
                 | (refine (kept_foldl_snd _ _ _ ?_).trans ?_) | intro _ | (with_reducible rfl))
@[simp] theorem State.perfAdd_kept (a0) (a1) (a2) (a3) : (State.perfAdd a0 a1 a2 a3).kept = a0.kept := rfl
@[simp] theorem postDsync_kept (a0) (a1) (a2) (a3) : (postDsync a0 a1 a2 a3).kept = a0.kept := rfl
@[simp] theorem lmPieces_kept (a0) (a1) (a2) : (lmPieces a0 a1 a2).2.kept = a0.kept := by unfold lmPieces; simp
@[simp] theorem lmReads_kept (a0) (a1) (a2) : (lmReads a0 a1 a2).2.2.kept = a0.kept := by
  induction a2 generalizing a0 with
  | nil => rfl
  | cons x r ih => unfold lmReads; dsimp only; rw [ih]; simp
@[simp] theorem startNow_kept (a0) (a1) (a2) : (startNow a0 a1 a2).kept = a0.kept := rfl
@[simp] theorem startThread_kept (a0) (a1) (a2) : (startThread a0 a1 a2).kept = a0.kept := by
  unfold startThread
  simp [apply_ite State.kept, apply_ite Prod.snd]
@[simp] theorem releaseHeld_kept (a0) (a1) : (releaseHeld a0 a1).kept = a0.kept := by
  unfold releaseHeld
  try dsimp only
  repeat' (first | assumption | (simp; done) | (with_reducible refine kept_ite ?_ ?_) | split | (refine (kept_foldl _ _ _ ?_).trans ?_)
                 | (refine (kept_foldl_snd _ _ _ ?_).trans ?_) | intro _ | (with_reducible rfl))
@[simp] theorem openSlot_kept (a0) (a1) (a2) (a3) (a4) (a5) (a6) (a7) (a8) (a9) : (openSlot a0 a1 a2 a3 a4 a5 a6 a7 a8 a9).1.kept = a0.kept := rfl
@[simp] theorem closeSlot_kept (a0) (a1) (a2) (a3) : (closeSlot a0 a1 a2 a3).kept = a0.kept := by
  unfold closeSlot
  try dsimp only
  repeat' (first | assumption | (simp; done) | (with_reducible refine kept_ite ?_ ?_) | split | (refine (kept_foldl _ _ _ ?_).trans ?_)
                 | (refine (kept_foldl_snd _ _ _ ?_).trans ?_) | intro _ | (with_reducible rfl))
@[simp] theorem staleReply_kept (a0) (a1) : (staleReply a0 a1).kept = a0.kept := rfl
@[simp] theorem inject_kept (a0) (a1) (a2) (a3) (a4) (a5) (a6) (a7) (a8) : (inject a0 a1 a2 a3 a4 a5 a6 a7 a8).kept = a0.kept := by
  unfold inject
  try dsimp only
  repeat' (first | assumption | (simp; done) | (with_reducible refine kept_ite ?_ ?_) | split | (refine (kept_foldl _ _ _ ?_).trans ?_)
                 | (refine (kept_foldl_snd _ _ _ ?_).trans ?_) | intro _ | (with_reducible rfl))
@[simp] theorem dropPacket_kept (a0) (a1) : (dropPacket a0 a1).kept = a0.kept := rfl
@[simp] theorem answer_kept (a0) (a1) (a2) (a3) (a4) : (answer a0 a1 a2 a3 a4).kept = a0.kept := by
  unfold answer
  try dsimp only
  repeat' (first | assumption | (simp; done) | (with_reducible refine kept_ite ?_ ?_) | split | (refine (kept_foldl _ _ _ ?_).trans ?_)
                 | (refine (kept_foldl_snd _ _ _ ?_).trans ?_) | intro _ | (with_reducible rfl))
@[simp] theorem fencedAt_kept (a0) (a1) (a2) : (fencedAt a0 a1 a2).kept = a0.kept := by
  unfold fencedAt
  try dsimp only
  repeat' (first | assumption | (simp; done) | (with_reducible refine kept_ite ?_ ?_) | split | (refine (kept_foldl _ _ _ ?_).trans ?_)
                 | (refine (kept_foldl_snd _ _ _ ?_).trans ?_) | intro _ | (with_reducible rfl))
@[simp] theorem fencedArrival_kept (a0) (a1) : (fencedArrival a0 a1).kept = a0.kept := by
  unfold fencedArrival
  try dsimp only
  repeat' (first | assumption | (simp; done) | (with_reducible refine kept_ite ?_ ?_) | split | (refine (kept_foldl _ _ _ ?_).trans ?_)
                 | (refine (kept_foldl_snd _ _ _ ?_).trans ?_) | intro _ | (with_reducible rfl))
@[simp] theorem answerFrom_kept (a0) (a1) (a2) (a3) (a4) : (answerFrom a0 a1 a2 a3 a4).kept = a0.kept := by
  unfold answerFrom
  try dsimp only
  repeat' (first | assumption | (simp; done) | (with_reducible refine kept_ite ?_ ?_) | split | (refine (kept_foldl _ _ _ ?_).trans ?_)
                 | (refine (kept_foldl_snd _ _ _ ?_).trans ?_) | intro _ | (with_reducible rfl))
@[simp] theorem answerWait_kept (a0) (a1) (a2) (a3) (a4) (a5) (a6) : (answerWait a0 a1 a2 a3 a4 a5 a6).kept = a0.kept := by
  unfold answerWait
  try dsimp only
  repeat' (first | assumption | (simp; done) | (with_reducible refine kept_ite ?_ ?_) | split | (refine (kept_foldl _ _ _ ?_).trans ?_)
                 | (refine (kept_foldl_snd _ _ _ ?_).trans ?_) | intro _ | (with_reducible rfl))
@[simp] theorem answerClaim_kept (a0) (a1) (a2) (a3) (a4) : (answerClaim a0 a1 a2 a3 a4).kept = a0.kept := rfl
@[simp] theorem dmaFailed_kept (a0) (a1) (a2) (a3) (a4) (a5) (a6) : (dmaFailed a0 a1 a2 a3 a4 a5 a6).kept = a0.kept := by
  unfold dmaFailed
  simp [apply_ite State.kept, apply_ite Prod.snd]
@[simp] theorem failSlot_kept (a0) (a1) (a2) (a3) (a4) : (failSlot a0 a1 a2 a3 a4).kept = a0.kept := by
  unfold failSlot
  try dsimp only
  repeat' (first | assumption | (simp; done) | (with_reducible refine kept_ite ?_ ?_) | split | (refine (kept_foldl _ _ _ ?_).trans ?_)
                 | (refine (kept_foldl_snd _ _ _ ?_).trans ?_) | intro _ | (with_reducible rfl))
@[simp] theorem fenceSlots_kept (a0) (a1) (a2) : (fenceSlots a0 a1 a2).kept = a0.kept := by
  unfold fenceSlots
  try dsimp only
  repeat' (first | assumption | (simp; done) | (with_reducible refine kept_ite ?_ ?_) | split | (refine (kept_foldl _ _ _ ?_).trans ?_)
                 | (refine (kept_foldl_snd _ _ _ ?_).trans ?_) | intro _ | (with_reducible rfl))
@[simp] theorem withdrawArrival_kept (a0) (a1) (a2) (a3) : (withdrawArrival a0 a1 a2 a3).kept = a0.kept := rfl
@[simp] theorem withdrawClaims_kept (a0) (a1) (a2) : (withdrawClaims a0 a1 a2).kept = a0.kept := by
  unfold withdrawClaims
  try dsimp only
  repeat' (first | assumption | (simp; done) | (with_reducible refine kept_ite ?_ ?_) | split | (refine (kept_foldl _ _ _ ?_).trans ?_)
                 | (refine (kept_foldl_snd _ _ _ ?_).trans ?_) | intro _ | (with_reducible rfl))
@[simp] theorem abandonWait_kept (a0) (a1) (a2) (a3) : (abandonWait a0 a1 a2 a3).kept = a0.kept := by
  unfold abandonWait
  try dsimp only
  repeat' (first | assumption | (simp; done) | (with_reducible refine kept_ite ?_ ?_) | split | (refine (kept_foldl _ _ _ ?_).trans ?_)
                 | (refine (kept_foldl_snd _ _ _ ?_).trans ?_) | intro _ | (with_reducible rfl))
@[simp] theorem enterFaulted_kept (a0) (a1) (a2) (a3) (a4) (a5) (a6) :
    (enterFaulted a0 a1 a2 a3 a4 a5 a6).kept = a0.kept := by unfold enterFaulted; simp
@[simp] theorem deliverFault_kept (a0) (a1) (a2) (a3) (a4) (a5) : (deliverFault a0 a1 a2 a3 a4 a5).kept = a0.kept := by
  unfold deliverFault
  simp [apply_ite State.kept, apply_ite Prod.snd]
@[simp] theorem deliverNext_kept (a0) (a1) (a2) : (deliverNext a0 a1 a2).kept = a0.kept := by
  unfold deliverNext
  try dsimp only
  repeat' (first | assumption | (simp; done) | (with_reducible refine kept_ite ?_ ?_) | split | (refine (kept_foldl _ _ _ ?_).trans ?_)
                 | (refine (kept_foldl_snd _ _ _ ?_).trans ?_) | intro _ | (with_reducible rfl))
@[simp] theorem takeFault_kept (a0) (a1) (a2) (a3) (a4) (a5) (a6) : (takeFault a0 a1 a2 a3 a4 a5 a6).kept = a0.kept := by
  unfold takeFault
  try dsimp only
  repeat' (first | assumption | (simp; done) | (with_reducible refine kept_ite ?_ ?_) | split | (refine (kept_foldl _ _ _ ?_).trans ?_)
                 | (refine (kept_foldl_snd _ _ _ ?_).trans ?_) | intro _ | (with_reducible rfl))
@[simp] theorem Iss.s_kept (a0) : (Iss.s a0).kept = a0.s.kept := rfl
@[simp] theorem finishIssue_kept (a0) (a1) (a2) (a3) (a4) : (finishIssue a0 a1 a2 a3 a4).kept = a0.kept := rfl
@[simp] theorem enterWait_kept (a0) (a1) (a2) (a3) : (enterWait a0 a1 a2 a3).kept = a0.kept := rfl
@[simp] theorem issueFault_kept (a0) (a1) (a2) (a3) (a4) : (issueFault a0 a1 a2 a3 a4).kept = a0.kept := by
  unfold issueFault
  try dsimp only
  repeat' (first | assumption | (simp; done) | (with_reducible refine kept_ite ?_ ?_) | split | (refine (kept_foldl _ _ _ ?_).trans ?_)
                 | (refine (kept_foldl_snd _ _ _ ?_).trans ?_) | intro _ | (with_reducible rfl))
@[simp] theorem fetchBytes_kept (a0) (a1) (a2) (a3) : (fetchBytes a0 a1 a2 a3).2.kept = a0.kept := by
  unfold fetchBytes
  simp [apply_ite State.kept, apply_ite Prod.snd]
@[simp] theorem e2eFail_kept (a0) (a1) (a2) : (e2eFail a0 a1 a2).kept = a0.kept := rfl
@[simp] theorem enterBuffer_kept (a0) (a1) (a2) (a3) (a4) : (enterBuffer a0 a1 a2 a3 a4).kept = a3.kept := by
  unfold enterBuffer
  try dsimp only
  repeat' (first | assumption | (simp; done) | (with_reducible refine kept_ite ?_ ?_) | split | (refine (kept_foldl _ _ _ ?_).trans ?_)
                 | (refine (kept_foldl_snd _ _ _ ?_).trans ?_) | intro _ | (with_reducible rfl))
@[simp] theorem settleCairn_kept (a0) (a1) (a2) (a3) : (settleCairn a0 a1 a2 a3).kept = a0.kept := by
  unfold settleCairn
  try dsimp only
  repeat' (first | assumption | (simp; done) | (with_reducible refine kept_ite ?_ ?_) | split | (refine (kept_foldl _ _ _ ?_).trans ?_)
                 | (refine (kept_foldl_snd _ _ _ ?_).trans ?_) | intro _ | (with_reducible rfl))
@[simp] theorem settleRouter_kept (a0) (a1) : (settleRouter a0 a1).kept = a0.kept := by
  unfold settleRouter
  try dsimp only
  repeat' (first | assumption | (simp; done) | (with_reducible refine kept_ite ?_ ?_) | split | (refine (kept_foldl _ _ _ ?_).trans ?_)
                 | (refine (kept_foldl_snd _ _ _ ?_).trans ?_) | intro _ | (with_reducible rfl))
@[simp] theorem promiseSlots_kept (a0) (a1) (a2) (a3) : (promiseSlots a0 a1 a2 a3).kept = a3.kept := by
  induction a2 generalizing a3 with
  | nil => rfl
  | cons x r ih => unfold promiseSlots; dsimp only; refine kept_ite ?_ rfl; rw [ih]; simp
@[simp] theorem drainClaims_kept (a0) (a1) (a2) : (drainClaims a0 a1 a2).kept = a0.kept := by unfold drainClaims; simp
@[simp] theorem returnCredits_kept (a0) (a1) (a2) (a3) (a4) : (returnCredits a0 a1 a2 a3 a4).kept = a4.kept := by
  fun_induction returnCredits <;> simp_all
@[simp] theorem releaseSlots_kept (a0) (a1) (a2) (a3) : (releaseSlots a0 a1 a2 a3).kept = a0.kept := by unfold releaseSlots; simp
@[simp] theorem ringHead_kept (a0) (a1) (a2) (a3) : (ringHead a0 a1 a2 a3).2.kept = a0.kept := by
  unfold ringHead
  try dsimp only
  repeat' (first | assumption | (simp; done) | (with_reducible refine kept_ite ?_ ?_) | split | (refine (kept_foldl _ _ _ ?_).trans ?_)
                 | (refine (kept_foldl_snd _ _ _ ?_).trans ?_) | intro _ | (with_reducible rfl))
@[simp] theorem routeTable_kept (a0) (a1) (a2) : (routeTable a0 a1 a2).2.kept = a0.kept := by
  unfold routeTable
  try dsimp only
  repeat' (first | assumption | (simp; done) | (with_reducible refine kept_ite ?_ ?_) | split | (refine (kept_foldl _ _ _ ?_).trans ?_)
                 | (refine (kept_foldl_snd _ _ _ ?_).trans ?_) | intro _ | (with_reducible rfl))
@[simp] theorem routeClaims_kept (a0) (a1) (a2) (a3) (a4) (a5) : (routeClaims a0 a1 a2 a3 a4 a5).2.kept = a5.kept := by
  induction a4 generalizing a5 with
  | nil => rfl
  | cons x r ih => unfold routeClaims; dsimp only; split <;> dsimp only <;> rw [ih] <;> simp
@[simp] theorem sendClaims_kept (a0) (a1) (a2) (a3) : (sendClaims a0 a1 a2 a3).kept = a3.kept := by
  induction a2 generalizing a3 with
  | nil => rfl
  | cons x r ih => unfold sendClaims; dsimp only; rw [ih]; simp
@[simp] theorem sendRow_kept (a0) (a1) (a2) (a3) (a4) : (sendRow a0 a1 a2 a3 a4).kept = a4.kept := rfl
@[simp] theorem sendRecord_kept (a0) (a1) (a2) (a3) (a4) : (sendRecord a0 a1 a2 a3 a4).kept = a4.kept := by
  unfold sendRecord
  try dsimp only
  repeat' (first | assumption | (simp; done) | (with_reducible refine kept_ite ?_ ?_) | split | (refine (kept_foldl _ _ _ ?_).trans ?_)
                 | (refine (kept_foldl_snd _ _ _ ?_).trans ?_) | intro _ | (with_reducible rfl))
@[simp] theorem routeWrite_kept (a0) (a1) (a2) (a3) : (routeWrite a0 a1 a2 a3).kept = a3.kept := by
  unfold routeWrite
  simp [apply_ite State.kept, apply_ite Prod.snd]
@[simp] theorem countRoute_kept (a0) (a1) (a2) (a3) (a4) (a5) : (countRoute a0 a1 a2 a3 a4 a5).kept = a0.kept := rfl
@[simp] theorem dropRecord_kept (a0) (a1) (a2) (a3) (a4) : (dropRecord a0 a1 a2 a3 a4).kept = a4.kept := by
  unfold dropRecord
  simp [apply_ite State.kept, apply_ite Prod.snd]
@[simp] theorem routeAct_kept (a0) (a1) (a2) (a3) (a4) (a5) (a6) (a7) : (routeAct a0 a1 a2 a3 a4 a5 a6 a7).kept = a7.kept := by
  induction a5 generalizing a6 a7 with
  | nil => unfold routeAct; split <;> simp
  | cons x r ih => unfold routeAct; dsimp only; repeat' (first | split | (rw [ih]; simp; done))
@[simp] theorem ringCtlOp_kept (a0) (a1) (a2) (a3) : (ringCtlOp a0 a1 a2 a3).kept = a0.kept := by
  unfold ringCtlOp
  simp [apply_ite State.kept, apply_ite Prod.snd]
@[simp] theorem chanBindOp_kept (a0) (a1) (a2) (a3) : (chanBindOp a0 a1 a2 a3).kept = a0.kept := by
  unfold chanBindOp
  simp [apply_ite State.kept, apply_ite Prod.snd]
@[simp] theorem routeCapOp_kept (a0) (a1) (a2) (a3) : (routeCapOp a0 a1 a2 a3).kept = a0.kept := rfl
@[simp] theorem ringWrite_kept (a0) (a1) (a2) (a3) (a4) (a5) (a6) (a7) (a8) (a9) : (ringWrite a0 a1 a2 a3 a4 a5 a6 a7 a8 a9).kept = a0.kept := by
  unfold ringWrite
  simp [apply_ite State.kept, apply_ite Prod.snd]
@[simp] theorem claimAt_kept (a0) (a1) (a2) (a3) (a4) (a5) (a6) (a7) : (claimAt a0 a1 a2 a3 a4 a5 a6 a7).kept = a0.kept := by
  unfold claimAt
  try dsimp only
  repeat' (first | assumption | (simp; done) | (with_reducible refine kept_ite ?_ ?_) | split | (refine (kept_foldl _ _ _ ?_).trans ?_)
                 | (refine (kept_foldl_snd _ _ _ ?_).trans ?_) | intro _ | (with_reducible rfl))
@[simp] theorem unclaimAt_kept (a0) (a1) (a2) (a3) (a4) (a5) : (unclaimAt a0 a1 a2 a3 a4 a5).kept = a0.kept := by
  unfold unclaimAt
  try dsimp only
  repeat' (first | assumption | (simp; done) | (with_reducible refine kept_ite ?_ ?_) | split | (refine (kept_foldl _ _ _ ?_).trans ?_)
                 | (refine (kept_foldl_snd _ _ _ ?_).trans ?_) | intro _ | (with_reducible rfl))
@[simp] theorem parkThread_kept (a0) (a1) (a2) : (parkThread a0 a1 a2).kept = a0.kept := by
  unfold parkThread
  simp [apply_ite State.kept, apply_ite Prod.snd]
@[simp] theorem unparkThread_kept (a0) (a1) (a2) : (unparkThread a0 a1 a2).kept = a0.kept := by
  unfold unparkThread
  simp [apply_ite State.kept, apply_ite Prod.snd]
@[simp] theorem stopThread_kept (a0) (a1) (a2) : (stopThread a0 a1 a2).kept = a0.kept := by
  unfold stopThread
  simp [apply_ite State.kept, apply_ite Prod.snd]
@[simp] theorem thrCtlOp_kept (a0) (a1) (a2) (a3) : (thrCtlOp a0 a1 a2 a3).kept = a0.kept := by
  unfold thrCtlOp
  try dsimp only
  repeat' (first | assumption | (simp; done) | (with_reducible refine kept_ite ?_ ?_) | split | (refine (kept_foldl _ _ _ ?_).trans ?_)
                 | (refine (kept_foldl_snd _ _ _ ?_).trans ?_) | intro _ | (with_reducible rfl))
@[simp] theorem qcfgOp_kept (a0) (a1) (a2) : (qcfgOp a0 a1 a2).kept = a0.kept := rfl
@[simp] theorem waittoOp_kept (a0) (a1) (a2) (a3) : (waittoOp a0 a1 a2 a3).kept = a0.kept := rfl
@[simp] theorem rngOp_kept (a0) (a1) (a2) (a3) (a4) : (rngOp a0 a1 a2 a3 a4).kept = a0.kept := by
  unfold rngOp
  simp [apply_ite State.kept, apply_ite Prod.snd]
@[simp] theorem fireAlarm_kept (a0) (a1) (a2) : (fireAlarm a0 a1 a2).kept = a0.kept := by
  unfold fireAlarm
  simp [apply_ite State.kept, apply_ite Prod.snd]
@[simp] theorem alarmOp_kept (a0) (a1) (a2) (a3) : (alarmOp a0 a1 a2 a3).kept = a0.kept := by unfold alarmOp; simp
@[simp] theorem thrmaskOp_kept (a0) (a1) (a2) (a3) : (thrmaskOp a0 a1 a2 a3).kept = a0.kept := by
  unfold thrmaskOp
  simp [apply_ite State.kept, apply_ite Prod.snd]
@[simp] theorem releaseBar_kept (a0) (a1) (a2) : (releaseBar a0 a1 a2).kept = a1.kept := rfl
@[simp] theorem vecCheck_kept (a0) (a1) (a2) (a3) : (vecCheck a0 a1 a2 a3).kept = a0.kept := by
  unfold vecCheck
  try dsimp only
  repeat' (first | assumption | (simp; done) | (with_reducible refine kept_ite ?_ ?_) | split | (refine (kept_foldl _ _ _ ?_).trans ?_)
                 | (refine (kept_foldl_snd _ _ _ ?_).trans ?_) | intro _ | (with_reducible rfl))
@[simp] theorem State.setSlice_kept (a0) (a1) (a2) (a3) : (State.setSlice a0 a1 a2 a3).kept = a0.kept := rfl
@[simp] theorem reportSlice_kept (a0) (a1) (a2) : (reportSlice a0 a1 a2).kept = a0.kept := by
  unfold reportSlice
  try dsimp only
  repeat' (first | assumption | (simp; done) | (with_reducible refine kept_ite ?_ ?_) | split | (refine (kept_foldl _ _ _ ?_).trans ?_)
                 | (refine (kept_foldl_snd _ _ _ ?_).trans ?_) | intro _ | (with_reducible rfl))
@[simp] theorem sliceRead_kept (a0) (a1) (a2) (a3) : (sliceRead a0 a1 a2 a3).2.2.kept = a0.kept := by unfold sliceRead; simp
@[simp] theorem sliceWrite_kept (a0) (a1) (a2) (a3) : (sliceWrite a0 a1 a2 a3).2.kept = a0.kept := by unfold sliceWrite; simp
@[simp] theorem State.setHbmI_kept (a0) (a1) (a2) : (State.setHbmI a0 a1 a2).kept = a0.kept := rfl
@[simp] theorem hitUnit_kept (a0) (a1) (a2) : (hitUnit a0 a1 a2).kept = a0.kept := by
  unfold hitUnit
  try dsimp only
  repeat' (first | assumption | (simp; done) | (with_reducible refine kept_ite ?_ ?_) | split | (refine (kept_foldl _ _ _ ?_).trans ?_)
                 | (refine (kept_foldl_snd _ _ _ ?_).trans ?_) | intro _ | (with_reducible rfl))
@[simp] theorem blankPages_kept (a0) (a1) (a2) : (blankPages a0 a1 a2).kept = a0.kept := by
  unfold blankPages
  try dsimp only
  repeat' (first | assumption | (simp; done) | (with_reducible refine kept_ite ?_ ?_) | split | (refine (kept_foldl _ _ _ ?_).trans ?_)
                 | (refine (kept_foldl_snd _ _ _ ?_).trans ?_) | intro _ | (with_reducible rfl))
@[simp] theorem stalePage_kept (a0) (a1) : (stalePage a0 a1).kept = a0.kept := by
  unfold stalePage
  try dsimp only
  repeat' (first | assumption | (simp; done) | (with_reducible refine kept_ite ?_ ?_) | split | (refine (kept_foldl _ _ _ ?_).trans ?_)
                 | (refine (kept_foldl_snd _ _ _ ?_).trans ?_) | intro _ | (with_reducible rfl))
@[simp] theorem installBits_kept (a0) (a1) (a2) (a3) : (installBits a0 a1 a2 a3).kept = a0.kept := by
  unfold installBits
  try dsimp only
  repeat' (first | assumption | (simp; done) | (with_reducible refine kept_ite ?_ ?_) | split | (refine (kept_foldl _ _ _ ?_).trans ?_)
                 | (refine (kept_foldl_snd _ _ _ ?_).trans ?_) | intro _ | (with_reducible rfl))
@[simp] theorem losePages_kept (a0) (a1) (a2) : (losePages a0 a1 a2).kept = a0.kept := by
  unfold losePages
  try dsimp only
  repeat' (first | assumption | (simp; done) | (with_reducible refine kept_ite ?_ ?_) | split | (refine (kept_foldl _ _ _ ?_).trans ?_)
                 | (refine (kept_foldl_snd _ _ _ ?_).trans ?_) | intro _ | (with_reducible rfl))
@[simp] theorem reportHbm_kept (a0) (a1) (a2) : (reportHbm a0 a1 a2).kept = a0.kept := by
  unfold reportHbm
  try dsimp only
  repeat' (first | assumption | (simp; done) | (with_reducible refine kept_ite ?_ ?_) | split | (refine (kept_foldl _ _ _ ?_).trans ?_)
                 | (refine (kept_foldl_snd _ _ _ ?_).trans ?_) | intro _ | (with_reducible rfl))
@[simp] theorem fetchBitmap_kept (a0) (a1) (a2) : (fetchBitmap a0 a1 a2).kept = a0.kept := by
  unfold fetchBitmap
  try dsimp only
  repeat' (first | assumption | (simp; done) | (with_reducible refine kept_ite ?_ ?_) | split | (refine (kept_foldl _ _ _ ?_).trans ?_)
                 | (refine (kept_foldl_snd _ _ _ ?_).trans ?_) | intro _ | (with_reducible rfl))
@[simp] theorem readUnit_kept (a0) (a1) (a2) : (readUnit a0 a1 a2).2.kept = a0.kept := by
  unfold readUnit
  try dsimp only
  repeat' (first | assumption | (simp; done) | (with_reducible refine kept_ite ?_ ?_) | split | (refine (kept_foldl _ _ _ ?_).trans ?_)
                 | (refine (kept_foldl_snd _ _ _ ?_).trans ?_) | intro _ | (with_reducible rfl))
@[simp] theorem freshPage_kept (a0) (a1) (a2) : (freshPage a0 a1 a2).kept = a0.kept := by
  unfold freshPage
  simp [apply_ite State.kept, apply_ite Prod.snd]
@[simp] theorem storeUnit_kept (a0) (a1) (a2) (a3) : (storeUnit a0 a1 a2 a3).kept = a0.kept := by
  unfold storeUnit
  try dsimp only
  repeat' (first | assumption | (simp; done) | (with_reducible refine kept_ite ?_ ?_) | split | (refine (kept_foldl _ _ _ ?_).trans ?_)
                 | (refine (kept_foldl_snd _ _ _ ?_).trans ?_) | intro _ | (with_reducible rfl))
@[simp] theorem rewriteLost_kept (a0) (a1) (a2) : (rewriteLost a0 a1 a2).kept = a0.kept := by
  unfold rewriteLost
  try dsimp only
  repeat' (first | assumption | (simp; done) | (with_reducible refine kept_ite ?_ ?_) | split | (refine (kept_foldl _ _ _ ?_).trans ?_)
                 | (refine (kept_foldl_snd _ _ _ ?_).trans ?_) | intro _ | (with_reducible rfl))
@[simp] theorem writeUnit_kept (a0) (a1) (a2) (a3) : (writeUnit a0 a1 a2 a3).kept = a0.kept := by
  unfold writeUnit
  try dsimp only
  repeat' (first | assumption | (simp; done) | (with_reducible refine kept_ite ?_ ?_) | split | (refine (kept_foldl _ _ _ ?_).trans ?_)
                 | (refine (kept_foldl_snd _ _ _ ?_).trans ?_) | intro _ | (with_reducible rfl))
@[simp] theorem mergeUnit_kept (a0) (a1) (a2) (a3) : (mergeUnit a0 a1 a2 a3).2.kept = a0.kept := by
  unfold mergeUnit; dsimp only; split
  · simp
  · split <;> (rename_i h; have h := congrArg (fun p => p.2.kept) h; simp at h; simp [← h])
@[simp] theorem hbmReadAux_kept (a0) (a1) (a2) (a3) (a4) : (hbmReadAux a0 a1 a2 a3 a4).2.2.kept = a1.kept := by
  induction a0 generalizing a1 a3 a4 with
  | zero => rfl
  | succ n ih => unfold hbmReadAux; dsimp only; split <;> dsimp only; rw [ih]; simp
@[simp] theorem hbmRead_kept (a0) (a1) (a2) (a3) : (hbmRead a0 a1 a2 a3).2.2.kept = a0.kept := by unfold hbmRead; simp
@[simp] theorem hbmWriteAux_kept (a0) (a1) (a2) (a3) (a4) : (hbmWriteAux a0 a1 a2 a3 a4).2.kept = a1.kept := by
  induction a0 generalizing a1 a3 a4 with
  | zero => rfl
  | succ n ih => unfold hbmWriteAux; dsimp only; split <;> dsimp only; rw [ih]; simp
@[simp] theorem hbmWrite_kept (a0) (a1) (a2) (a3) : (hbmWrite a0 a1 a2 a3).2.kept = a0.kept := by unfold hbmWrite; simp
@[simp] theorem clearPages_kept (a0) (a1) (a2) (a3) : (clearPages a0 a1 a2 a3).kept = a0.kept := rfl
@[simp] theorem performWrite_kept (a0) (a1) : (performWrite a0 a1).2.kept = a0.kept := by
  unfold performWrite
  try dsimp only
  repeat' (first | assumption | (simp; done) | (with_reducible refine kept_ite ?_ ?_) | split | (refine (kept_foldl _ _ _ ?_).trans ?_)
                 | (refine (kept_foldl_snd _ _ _ ?_).trans ?_) | intro _ | (with_reducible rfl))
@[simp] theorem performFirst_kept (a0) (a1) (a2) : (performFirst a0 a1 a2).kept = a1.kept := by
  fun_induction performFirst <;> simp_all
@[simp] theorem performQueue_kept (a0) (a1) : (performQueue a0 a1).kept = a0.kept := by unfold performQueue; simp
@[simp] theorem performAll_kept (a0) : (performAll a0).kept = a0.kept := by
  unfold performAll
  try dsimp only
  repeat' (first | assumption | (simp; done) | (with_reducible refine kept_ite ?_ ?_) | split | (refine (kept_foldl _ _ _ ?_).trans ?_)
                 | (refine (kept_foldl_snd _ _ _ ?_).trans ?_) | intro _ | (with_reducible rfl))
@[simp] theorem performHbm_kept (a0) : (performHbm a0).kept = a0.kept := by
  unfold performHbm
  try dsimp only
  repeat' (first | assumption | (simp; done) | (with_reducible refine kept_ite ?_ ?_) | split | (refine (kept_foldl _ _ _ ?_).trans ?_)
                 | (refine (kept_foldl_snd _ _ _ ?_).trans ?_) | intro _ | (with_reducible rfl))
@[simp] theorem readMoment_kept (a0) (a1) (a2) (a3) (a4) : (readMoment a0 a1 a2 a3 a4).kept = a0.kept := by
  unfold readMoment
  simp [apply_ite State.kept, apply_ite Prod.snd]
@[simp] theorem acceptWrite_kept (a0) (a1) (a2) : (acceptWrite a0 a1 a2).2.kept = a0.kept := by
  unfold acceptWrite
  simp [apply_ite State.kept, apply_ite Prod.snd]
@[simp] theorem State.setChan_kept (a0) (a1) (a2) (a3) : (State.setChan a0 a1 a2 a3).kept = a0.kept := rfl
@[simp] theorem chanRecord_kept (a0) (a1) (a2) (a3) (a4) : (chanRecord a0 a1 a2 a3 a4).kept = a0.kept := rfl
@[simp] theorem chanProgress_kept (a0) (a1) (a2) : (chanProgress a0 a1 a2).kept = a0.kept := by
  unfold chanProgress
  simp [apply_ite State.kept, apply_ite Prod.snd]
@[simp] theorem chanHalt_kept (a0) (a1) (a2) (a3) (a4) (a5) (a6) : (chanHalt a0 a1 a2 a3 a4 a5 a6).kept = a0.kept := by unfold chanHalt; simp
@[simp] theorem chanReject_kept (a0) (a1) (a2) : (chanReject a0 a1 a2).kept = a0.kept := by unfold chanReject; simp
@[simp] theorem chanBegin_kept (a0) (a1) (a2) : (chanBegin a0 a1 a2).kept = a0.kept := by
  unfold chanBegin
  try dsimp only
  repeat' (first | assumption | (simp; done) | (with_reducible refine kept_ite ?_ ?_) | split | (refine (kept_foldl _ _ _ ?_).trans ?_)
                 | (refine (kept_foldl_snd _ _ _ ?_).trans ?_) | intro _ | (with_reducible rfl))
@[simp] theorem srcPiece_kept (a0) (a1) (a2) (a3) : (srcPiece a0 a1 a2 a3).2.kept = a0.kept := by
  unfold srcPiece; dsimp only
  split
  · rfl
  · split
    · rfl
    · split
      · rfl
      · split
        · simp
        · split <;> simp
  · rfl
@[simp] theorem chanFill_kept (a0) (a1) (a2) (a3) (a4) : (chanFill a0 a1 a2 a3 a4).kept = a0.kept := rfl
@[simp] theorem sendRead_kept (a0) (a1) (a2) (a3) : (sendRead a0 a1 a2 a3).kept = a0.kept := by
  unfold sendRead
  try dsimp only
  repeat' (first | assumption | (simp; done) | (with_reducible refine kept_ite ?_ ?_) | split | (refine (kept_foldl _ _ _ ?_).trans ?_)
                 | (refine (kept_foldl_snd _ _ _ ?_).trans ?_) | intro _ | (with_reducible rfl))
@[simp] theorem readPacket_kept (a0) (a1) (a2) (a3) : (readPacket a0 a1 a2 a3).kept = a0.kept := by
  unfold readPacket
  try dsimp only
  repeat' (first | assumption | (simp; done) | (with_reducible refine kept_ite ?_ ?_) | split | (refine (kept_foldl _ _ _ ?_).trans ?_)
                 | (refine (kept_foldl_snd _ _ _ ?_).trans ?_) | intro _ | (with_reducible rfl))
@[simp] theorem chanAck_kept (a0) (a1) (a2) (a3) : (chanAck a0 a1 a2 a3).kept = a0.kept := by unfold chanAck; simp
@[simp] theorem writePacket_kept (a0) (a1) (a2) (a3) (a4) (a5) : (writePacket a0 a1 a2 a3 a4 a5).kept = a0.kept := by
  unfold writePacket
  try dsimp only
  repeat' (first | assumption | (simp; done) | (with_reducible refine kept_ite ?_ ?_) | split | (refine (kept_foldl _ _ _ ?_).trans ?_)
                 | (refine (kept_foldl_snd _ _ _ ?_).trans ?_) | intro _ | (with_reducible rfl))
@[simp] theorem chanIgnore_kept (a0) (a1) (a2) : (chanIgnore a0 a1 a2).kept = a0.kept := rfl
@[simp] theorem chanStart_kept (a0) (a1) (a2) (a3) : (chanStart a0 a1 a2 a3).kept = a0.kept := by
  unfold chanStart
  simp [apply_ite State.kept, apply_ite Prod.snd]
@[simp] theorem chanStop_kept (a0) (a1) (a2) : (chanStop a0 a1 a2).kept = a0.kept := by
  unfold chanStop
  simp [apply_ite State.kept, apply_ite Prod.snd]
@[simp] theorem chanResume_kept (a0) (a1) (a2) : (chanResume a0 a1 a2).kept = a0.kept := by
  unfold chanResume
  simp [apply_ite State.kept, apply_ite Prod.snd]
@[simp] theorem chanAbort_kept (a0) (a1) (a2) : (chanAbort a0 a1 a2).kept = a0.kept := by
  unfold chanAbort
  simp [apply_ite State.kept, apply_ite Prod.snd]
@[simp] theorem dmaCtlOp_kept (a0) (a1) (a2) (a3) (a4) : (dmaCtlOp a0 a1 a2 a3 a4).kept = a0.kept := by
  unfold dmaCtlOp
  try dsimp only
  repeat' (first | assumption | (simp; done) | (with_reducible refine kept_ite ?_ ?_) | split | (refine (kept_foldl _ _ _ ?_).trans ?_)
                 | (refine (kept_foldl_snd _ _ _ ?_).trans ?_) | intro _ | (with_reducible rfl))
@[simp] theorem chanRetry_kept (a0) (a1) (a2) (a3) (a4) : (chanRetry a0 a1 a2 a3 a4).kept = a0.kept := by
  unfold chanRetry
  try dsimp only
  repeat' (first | assumption | (simp; done) | (with_reducible refine kept_ite ?_ ?_) | split | (refine (kept_foldl _ _ _ ?_).trans ?_)
                 | (refine (kept_foldl_snd _ _ _ ?_).trans ?_) | intro _ | (with_reducible rfl))
@[simp] theorem State.putInst_kept (a0) (a1) (a2) : (State.putInst a0 a1 a2).kept = a0.kept := by
  unfold State.putInst
  try dsimp only
  repeat' (first | assumption | (simp; done) | (with_reducible refine kept_ite ?_ ?_) | split | (refine (kept_foldl _ _ _ ?_).trans ?_)
                 | (refine (kept_foldl_snd _ _ _ ?_).trans ?_) | intro _ | (with_reducible rfl))
@[simp] theorem State.onInst_kept (a0) (a1) (a2) : (State.onInst a0 a1 a2).kept = a0.kept := by
  unfold State.onInst
  try dsimp only
  repeat' (first | assumption | (simp; done) | (with_reducible refine kept_ite ?_ ?_) | split | (refine (kept_foldl _ _ _ ?_).trans ?_)
                 | (refine (kept_foldl_snd _ _ _ ?_).trans ?_) | intro _ | (with_reducible rfl))
@[simp] theorem State.putEcc_kept (a0) (a1) (a2) (a3) : (State.putEcc a0 a1 a2 a3).kept = a0.kept := by
  unfold State.putEcc
  try dsimp only
  repeat' (first | assumption | (simp; done) | (with_reducible refine kept_ite ?_ ?_) | split | (refine (kept_foldl _ _ _ ?_).trans ?_)
                 | (refine (kept_foldl_snd _ _ _ ?_).trans ?_) | intro _ | (with_reducible rfl))
@[simp] theorem rawWrite_kept (a0) (a1) (a2) (a3) (a4) : (rawWrite a0 a1 a2 a3 a4).kept = a0.kept := by
  unfold rawWrite
  try dsimp only
  repeat' (first | assumption | (simp; done) | (with_reducible refine kept_ite ?_ ?_) | split | (refine (kept_foldl _ _ _ ?_).trans ?_)
                 | (refine (kept_foldl_snd _ _ _ ?_).trans ?_) | intro _ | (with_reducible rfl))
@[simp] theorem rawRead_kept (a0) (a1) (a2) : (rawRead a0 a1 a2).2.2.kept = a0.kept := by
  unfold rawRead
  try dsimp only
  repeat' (first | assumption | (simp; done) | (with_reducible refine kept_ite ?_ ?_) | split | (refine (kept_foldl _ _ _ ?_).trans ?_)
                 | (refine (kept_foldl_snd _ _ _ ?_).trans ?_) | intro _ | (with_reducible rfl))
@[simp] theorem testCmd_kept (a0) (a1) (a2) : (testCmd a0 a1 a2).kept = a0.kept := by
  unfold testCmd
  try dsimp only
  repeat' (first | assumption | (simp; done) | (with_reducible refine kept_ite ?_ ?_) | split | (refine (kept_foldl _ _ _ ?_).trans ?_)
                 | (refine (kept_foldl_snd _ _ _ ?_).trans ?_) | intro _ | (with_reducible rfl))
@[simp] theorem takeWord_kept (a0) (a1) (a2) (a3) (a4) (a5) : (takeWord a0 a1 a2 a3 a4 a5).2.2.2.kept = a0.kept := by
  unfold takeWord
  try dsimp only
  repeat' (first | assumption | (simp; done) | (with_reducible refine kept_ite ?_ ?_) | split | (refine (kept_foldl _ _ _ ?_).trans ?_)
                 | (refine (kept_foldl_snd _ _ _ ?_).trans ?_) | intro _ | (with_reducible rfl))
@[simp] theorem remapCopy_kept (a0) (a1) (a2) (a3) : (remapCopy a0 a1 a2 a3).kept = a0.kept := by
  unfold remapCopy
  try dsimp only
  repeat' (first | assumption | (simp; done) | (with_reducible refine kept_ite ?_ ?_) | split | (refine (kept_foldl _ _ _ ?_).trans ?_)
                 | (refine (kept_foldl_snd _ _ _ ?_).trans ?_) | intro _ | (with_reducible rfl))
@[simp] theorem remapBack_kept (a0) (a1) (a2) (a3) : (remapBack a0 a1 a2 a3).kept = a0.kept := by
  unfold remapBack
  try dsimp only
  repeat' (first | assumption | (simp; done) | (with_reducible refine kept_ite ?_ ?_) | split | (refine (kept_foldl _ _ _ ?_).trans ?_)
                 | (refine (kept_foldl_snd _ _ _ ?_).trans ?_) | intro _ | (with_reducible rfl))
@[simp] theorem remapWrite_kept (a0) (a1) (a2) (a3) : (remapWrite a0 a1 a2 a3).kept = a0.kept := by
  unfold remapWrite
  try dsimp only
  repeat' (first | assumption | (simp; done) | (with_reducible refine kept_ite ?_ ?_) | split | (refine (kept_foldl _ _ _ ?_).trans ?_)
                 | (refine (kept_foldl_snd _ _ _ ?_).trans ?_) | intro _ | (with_reducible rfl))
@[simp] theorem scrubAt_kept (a0) (a1) (a2) : (scrubAt a0 a1 a2).kept = a0.kept := by
  unfold scrubAt
  try dsimp only
  repeat' (first | assumption | (simp; done) | (with_reducible refine kept_ite ?_ ?_) | split | (refine (kept_foldl _ _ _ ?_).trans ?_)
                 | (refine (kept_foldl_snd _ _ _ ?_).trans ?_) | intro _ | (with_reducible rfl))
@[simp] theorem endPass_kept (a0) (a1) : (endPass a0 a1).kept = a0.kept := by
  unfold endPass
  try dsimp only
  repeat' (first | assumption | (simp; done) | (with_reducible refine kept_ite ?_ ?_) | split | (refine (kept_foldl _ _ _ ?_).trans ?_)
                 | (refine (kept_foldl_snd _ _ _ ?_).trans ?_) | intro _ | (with_reducible rfl))
@[simp] theorem scrub_kept (a0) (a1) (a2) : (scrub a0 a1 a2).kept = a0.kept := by
  unfold scrub
  try dsimp only
  repeat' (first | assumption | (simp; done) | (with_reducible refine kept_ite ?_ ?_) | split | (refine (kept_foldl _ _ _ ?_).trans ?_)
                 | (refine (kept_foldl_snd _ _ _ ?_).trans ?_) | intro _ | (with_reducible rfl))
@[simp] theorem writeBack_kept (a0) (a1) (a2) : (writeBack a0 a1 a2).kept = a0.kept := by
  unfold writeBack
  try dsimp only
  repeat' (first | assumption | (simp; done) | (with_reducible refine kept_ite ?_ ?_) | split | (refine (kept_foldl _ _ _ ?_).trans ?_)
                 | (refine (kept_foldl_snd _ _ _ ?_).trans ?_) | intro _ | (with_reducible rfl))
@[simp] theorem instWrite_kept (a0) (a1) (a2) (a3) : (instWrite a0 a1 a2 a3).kept = a0.kept := by
  unfold instWrite
  simp [apply_ite State.kept, apply_ite Prod.snd]
@[simp] theorem ioRead_kept (a0) (a1) (a2) (a3) : (ioRead a0 a1 a2 a3).2.kept = a0.kept := by
  unfold ioRead
  simp [apply_ite State.kept, apply_ite Prod.snd]
@[simp] theorem chanRegWrite_kept (a0) (a1) (a2) (a3) (a4) : (chanRegWrite a0 a1 a2 a3 a4).kept = a0.kept := by
  unfold chanRegWrite; dsimp only; split <;> simp [apply_ite State.kept]
@[simp] theorem ioWrite_kept (a0) (a1) (a2) (a3) (a4) : (ioWrite a0 a1 a2 a3 a4).kept = a0.kept := by
  unfold ioWrite
  simp [apply_ite State.kept, apply_ite Prod.snd]
@[simp] theorem State.setFn_kept (a0) (a1) (a2) : (State.setFn a0 a1 a2).kept = a0.kept := rfl
@[simp] theorem State.setQp_kept (a0) (a1) (a2) : (State.setQp a0 a1 a2).kept = a0.kept := rfl
@[simp] theorem State.setMslot_kept (a0) (a1) (a2) : (State.setMslot a0 a1 a2).kept = a0.kept := rfl
@[simp] theorem State.setContract_kept (a0) (a1) (a2) : (State.setContract a0 a1 a2).kept = a0.kept := rfl
@[simp] theorem State.setCtx_kept (a0) (a1) (a2) : (State.setCtx a0 a1 a2).kept = a0.kept := rfl
@[simp] theorem snowNotice_kept (a0) (a1) (a2) (a3) : (snowNotice a0 a1 a2 a3).kept = a0.kept := by
  unfold snowNotice
  try dsimp only
  repeat' (first | assumption | (simp; done) | (with_reducible refine kept_ite ?_ ?_) | split | (refine (kept_foldl _ _ _ ?_).trans ?_)
                 | (refine (kept_foldl_snd _ _ _ ?_).trans ?_) | intro _ | (with_reducible rfl))
@[simp] theorem evalSnow_kept (a0) (a1) (a2) : (evalSnow a0 a1 a2).kept = a1.kept := by
  unfold evalSnow
  simp [apply_ite State.kept, apply_ite Prod.snd]
@[simp] theorem settleSnow_kept (a0) : (settleSnow a0).kept = a0.kept := by
  unfold settleSnow
  try dsimp only
  repeat' (first | assumption | (simp; done) | (with_reducible refine kept_ite ?_ ?_) | split | (refine (kept_foldl _ _ _ ?_).trans ?_)
                 | (refine (kept_foldl_snd _ _ _ ?_).trans ?_) | intro _ | (with_reducible rfl))
@[simp] theorem linkFail_kept (a0) (a1) (a2) (a3) : (linkFail a0 a1 a2 a3).kept = a0.kept := by
  unfold linkFail
  try dsimp only
  repeat' (first | assumption | (simp; done) | (with_reducible refine kept_ite ?_ ?_) | split | (refine (kept_foldl _ _ _ ?_).trans ?_)
                 | (refine (kept_foldl_snd _ _ _ ?_).trans ?_) | intro _ | (with_reducible rfl))
@[simp] theorem fcSettle_kept (a0) (a1) (a2) : (fcSettle a0 a1 a2).kept = a2.kept := by
  induction a1 generalizing a2 with
  | nil => rfl
  | cons o r ih => unfold fcSettle; refine kept_ite ?_ rfl; rw [ih]; simp
@[simp] theorem fcMove_kept (a0) (a1) (a2) (a3) : (fcMove a0 a1 a2 a3).1.kept = a0.kept := by
  unfold fcMove
  try dsimp only
  repeat' (first | assumption | (simp; done) | (with_reducible refine kept_ite ?_ ?_) | split | (refine (kept_foldl _ _ _ ?_).trans ?_)
                 | (refine (kept_foldl_snd _ _ _ ?_).trans ?_) | intro _ | (with_reducible rfl))
@[simp] theorem fcResult_kept (a0) (a1) (a2) : (fcResult a0 a1 a2).1.kept = a0.kept := by
  unfold fcResult
  try dsimp only
  repeat' (first | assumption | (simp; done) | (with_reducible refine kept_ite ?_ ?_) | split | (refine (kept_foldl _ _ _ ?_).trans ?_)
                 | (refine (kept_foldl_snd _ _ _ ?_).trans ?_) | intro _ | (with_reducible rfl))
@[simp] theorem fcTick_kept (a0) (a1) : (fcTick a0 a1).kept = a0.kept := by
  unfold fcTick
  try dsimp only
  repeat' (first | assumption | (simp; done) | (with_reducible refine kept_ite ?_ ?_) | split | (refine (kept_foldl _ _ _ ?_).trans ?_)
                 | (refine (kept_foldl_snd _ _ _ ?_).trans ?_) | intro _ | (with_reducible rfl))
@[simp] theorem commonsLoad_kept (a0) (a1) (a2) (a3) (a4) (a5) (a6) :
    (commonsLoad a0 a1 a2 a3 a4 a5 a6).kept = a0.kept := by unfold commonsLoad; simp
@[simp] theorem commonsAtomic_kept (a0) (a1) (a2) (a3) (a4) (a5) (a6) : (commonsAtomic a0 a1 a2 a3 a4 a5 a6).kept = a0.kept := by
  unfold commonsAtomic
  simp [apply_ite State.kept, apply_ite Prod.snd]
@[simp] theorem memStore_kept (a0) (a1) (a2) (a3) (a4) : (memStore a0 a1 a2 a3 a4).kept = a0.kept := by unfold memStore; simp
@[simp] theorem coreAccess_kept (a0) (a1) (a2) : (coreAccess a0 a1 a2).kept = a0.kept := by
  unfold coreAccess
  try dsimp only
  repeat' (first | assumption | (simp; done) | (with_reducible refine kept_ite ?_ ?_) | split | (refine (kept_foldl _ _ _ ?_).trans ?_)
                 | (refine (kept_foldl_snd _ _ _ ?_).trans ?_) | intro _ | (with_reducible rfl))
@[simp] theorem takeReply_kept (a0) (a1) (a2) (a3) (a4) (a5) : (takeReply a0 a1 a2 a3 a4 a5).kept = a0.kept := by
  unfold takeReply
  try dsimp only
  repeat' (first | assumption | (simp; done) | (with_reducible refine kept_ite ?_ ?_) | split | (refine (kept_foldl _ _ _ ?_).trans ?_)
                 | (refine (kept_foldl_snd _ _ _ ?_).trans ?_) | intro _ | (with_reducible rfl))
@[simp] theorem takeAck_kept (a0) (a1) (a2) (a3) (a4) : (takeAck a0 a1 a2 a3 a4).kept = a0.kept := by
  unfold takeAck
  try dsimp only
  repeat' (first | assumption | (simp; done) | (with_reducible refine kept_ite ?_ ?_) | split | (refine (kept_foldl _ _ _ ?_).trans ?_)
                 | (refine (kept_foldl_snd _ _ _ ?_).trans ?_) | intro _ | (with_reducible rfl))
@[simp] theorem finalCombine_kept (a0) (a1) (a2) (a3) (a4) (a5) (a6) (a7) (a8) (a9) (a10) :
    (finalCombine a0 a1 a2 a3 a4 a5 a6 a7 a8 a9 a10).kept = a0.kept := by
  unfold finalCombine; dsimp only; generalize (if a5 = true then 32 else 128) = n
  simp only [State.setCore_kept, apply_ite Prod.fst, apply_ite State.kept]
  split
  · simp
  · exact (kept_foldl _ _ _ (by simp)).trans (by simp)
@[simp] theorem hostWrite_kept (a0) (a1) (a2) : (hostWrite a0 a1 a2).kept = a0.kept := rfl
@[simp] theorem signal_kept (a0) (a1) (a2) : (signal a0 a1 a2).kept = a0.kept := by
  unfold signal
  simp [apply_ite State.kept, apply_ite Prod.snd]
@[simp] theorem writeEntry_kept (a0) (a1) (a2) (a3) : (writeEntry a0 a1 a2 a3).kept = a0.kept := by
  unfold writeEntry
  simp [apply_ite State.kept, apply_ite Prod.snd]
@[simp] theorem drainHeld_kept (a0) (a1) (a2) : (drainHeld a0 a1 a2).kept = a1.kept := by
  fun_induction drainHeld <;> simp_all
@[simp] theorem post_kept (a0) (a1) (a2) : (post a0 a1 a2).kept = a0.kept := by
  unfold post
  try dsimp only
  repeat' (first | assumption | (simp; done) | (with_reducible refine kept_ite ?_ ?_) | split | (refine (kept_foldl _ _ _ ?_).trans ?_)
                 | (refine (kept_foldl_snd _ _ _ ?_).trans ?_) | intro _ | (with_reducible rfl))
@[simp] theorem finish_kept (a0) (a1) (a2) (a3) (a4) : (finish a0 a1 a2 a3 a4).kept = a0.kept := by unfold finish; simp
@[simp] theorem consume_kept (a0) (a1) : (consume a0 a1).kept = a0.kept := by
  unfold consume
  try dsimp only
  repeat' (first | assumption | (simp; done) | (with_reducible refine kept_ite ?_ ?_) | split | (refine (kept_foldl _ _ _ ?_).trans ?_)
                 | (refine (kept_foldl_snd _ _ _ ?_).trans ?_) | intro _ | (with_reducible rfl))
@[simp] theorem holdCtl_kept (a0) (a1) : (holdCtl a0 a1).kept = a0.kept := rfl
@[simp] theorem holdSch_kept (a0) (a1) : (holdSch a0 a1).kept = a0.kept := rfl
@[simp] theorem holdDraw_kept (a0) (a1) : (holdDraw a0 a1).kept = a0.kept := rfl
@[simp] theorem doorbellError_kept (a0) (a1) : (doorbellError a0 a1).kept = a0.kept := rfl
@[simp] theorem aqEnOp_kept (a0) (a1) (a2) : (aqEnOp a0 a1 a2).kept = a0.kept := by
  unfold aqEnOp
  simp [apply_ite State.kept, apply_ite Prod.snd]
@[simp] theorem createQpAct_kept (a0) (a1) : (createQpAct a0 a1).kept = a1.kept := by
  unfold createQpAct; dsimp only; split
  · simp
  · split
    · simp
    · split <;> simp
@[simp] theorem windowError_kept (a0) (a1) : (windowError a0 a1).kept = a0.kept := rfl
@[simp] theorem windowBytes_kept (a0) (a1) (a2) (a3) (a4) : (windowBytes a0 a1 a2 a3 a4).2.kept = a1.kept := by
  induction a0 generalizing a1 a3 a4 with
  | zero => rfl
  | succ n ih => unfold windowBytes; dsimp only; split <;> dsimp only; rw [ih]; simp [apply_ite Prod.snd, apply_ite State.kept]
@[simp] theorem State.onUnit_kept (a0) (a1) (a2) : (State.onUnit a0 a1 a2).kept = a0.kept := rfl
@[simp] theorem disputeCheck_kept (a0) (a1) : (disputeCheck a0 a1).kept = a0.kept := rfl
@[simp] theorem recordNotice_kept (a0) (a1) (a2) : (recordNotice a0 a1 a2).kept = a0.kept := by
  unfold recordNotice
  try dsimp only
  repeat' (first | assumption | (simp; done) | (with_reducible refine kept_ite ?_ ?_) | split | (refine (kept_foldl _ _ _ ?_).trans ?_)
                 | (refine (kept_foldl_snd _ _ _ ?_).trans ?_) | intro _ | (with_reducible rfl))
@[simp] theorem recordFault_kept (a0) (a1) (a2) : (recordFault a0 a1 a2).2.kept = a0.kept := by unfold recordFault; simp
@[simp] theorem rewriteAction_kept (a0) (a1) (a2) : (rewriteAction a0 a1 a2).kept = a0.kept := by
  unfold rewriteAction
  try dsimp only
  repeat' (first | assumption | (simp; done) | (with_reducible refine kept_ite ?_ ?_) | split | (refine (kept_foldl _ _ _ ?_).trans ?_)
                 | (refine (kept_foldl_snd _ _ _ ?_).trans ?_) | intro _ | (with_reducible rfl))
@[simp] theorem settleRecord_kept (a0) (a1) (a2) : (settleRecord a0 a1 a2).kept = a0.kept := by
  unfold settleRecord
  try dsimp only
  repeat' (first | assumption | (simp; done) | (with_reducible refine kept_ite ?_ ?_) | split | (refine (kept_foldl _ _ _ ?_).trans ?_)
                 | (refine (kept_foldl_snd _ _ _ ?_).trans ?_) | intro _ | (with_reducible rfl))
@[simp] theorem State.setPlace_kept (a0) (a1) (a2) : (State.setPlace a0 a1 a2).kept = a0.kept := rfl
@[simp] theorem plinthWrite_kept (a0) (a1) (a2) : (plinthWrite a0 a1 a2).kept = a0.kept := by
  unfold plinthWrite
  try dsimp only
  repeat' (first | assumption | (simp; done) | (with_reducible refine kept_ite ?_ ?_) | split | (refine (kept_foldl _ _ _ ?_).trans ?_)
                 | (refine (kept_foldl_snd _ _ _ ?_).trans ?_) | intro _ | (with_reducible rfl))
@[simp] theorem plinthRead_kept (a0) (a1) (a2) : (plinthRead a0 a1 a2).2.2.kept = a0.kept := by
  unfold plinthRead
  try dsimp only
  repeat' (first | assumption | (simp; done) | (with_reducible refine kept_ite ?_ ?_) | split | (refine (kept_foldl _ _ _ ?_).trans ?_)
                 | (refine (kept_foldl_snd _ _ _ ?_).trans ?_) | intro _ | (with_reducible rfl))
@[simp] theorem takeCast_kept (a0) (a1) (a2) : (takeCast a0 a1 a2).2.kept = a0.kept := by
  unfold takeCast
  try dsimp only
  repeat' (first | rfl | assumption | (simp; done) | split | (refine (kept_foldl _ _ _ ?_).trans ?_) | intro _ | simp)
@[simp] theorem baselines_kept (a0) (a1) : (baselines a0 a1).2.kept = a0.kept := by unfold baselines; simp
@[simp] theorem recordAlign_kept (a0) (a1) (a2) (a3) : (recordAlign a0 a1 a2 a3).kept = a0.kept := rfl
@[simp] theorem resetSync_kept (a0) (a1) : (resetSync a0 a1).kept = a0.kept := rfl
@[simp] theorem resetPlace_kept (a0) (a1) : (resetPlace a0 a1).kept = a0.kept := by
  unfold resetPlace
  try dsimp only
  repeat' (first | assumption | (simp; done) | (with_reducible refine kept_ite ?_ ?_) | split | (refine (kept_foldl _ _ _ ?_).trans ?_)
                 | (refine (kept_foldl_snd _ _ _ ?_).trans ?_) | intro _ | (with_reducible rfl))
@[simp] theorem stopThreads_kept (a0) (a1) : (stopThreads a0 a1).kept = a0.kept := by
  unfold stopThreads
  try dsimp only
  repeat' (first | assumption | (simp; done) | (with_reducible refine kept_ite ?_ ?_) | split | (refine (kept_foldl _ _ _ ?_).trans ?_)
                 | (refine (kept_foldl_snd _ _ _ ?_).trans ?_) | intro _ | (with_reducible rfl))
@[simp] theorem parkThreads_kept (a0) (a1) : (parkThreads a0 a1).kept = a0.kept := by
  unfold parkThreads
  try dsimp only
  repeat' (first | assumption | (simp; done) | (with_reducible refine kept_ite ?_ ?_) | split | (refine (kept_foldl _ _ _ ?_).trans ?_)
                 | (refine (kept_foldl_snd _ _ _ ?_).trans ?_) | intro _ | (with_reducible rfl))
@[simp] theorem stopChannels_kept (a0) (a1) : (stopChannels a0 a1).kept = a0.kept := by
  unfold stopChannels
  try dsimp only
  repeat' (first | assumption | (simp; done) | (with_reducible refine kept_ite ?_ ?_) | split | (refine (kept_foldl _ _ _ ?_).trans ?_)
                 | (refine (kept_foldl_snd _ _ _ ?_).trans ?_) | intro _ | (with_reducible rfl))
@[simp] theorem stampStep_kept (a0) (a1) : (stampStep a0 a1).kept = a0.kept := by unfold stampStep; simp
@[simp] theorem launch_kept (a0) (a1) (a2) : (launch a0 a1 a2).kept = a0.kept := by
  unfold launch
  try dsimp only
  repeat' (first | assumption | (simp; done) | (with_reducible refine kept_ite ?_ ?_) | split | (refine (kept_foldl _ _ _ ?_).trans ?_)
                 | (refine (kept_foldl_snd _ _ _ ?_).trans ?_) | intro _ | (with_reducible rfl))
@[simp] theorem reportEnd_kept (a0) (a1) (a2) (a3) : (reportEnd a0 a1 a2 a3).kept = a0.kept := by
  unfold reportEnd
  try dsimp only
  repeat' (first | assumption | (simp; done) | (with_reducible refine kept_ite ?_ ?_) | split | (refine (kept_foldl _ _ _ ?_).trans ?_)
                 | (refine (kept_foldl_snd _ _ _ ?_).trans ?_) | intro _ | (with_reducible rfl))
@[simp] theorem dispatchNext_kept (a0) (a1) (a2) : (dispatchNext a0 a1 a2).kept = a1.kept := by
  fun_induction dispatchNext <;> simp_all
@[simp] theorem kick_kept (a0) (a1) : (kick a0 a1).kept = a0.kept := by unfold kick; simp
@[simp] theorem endCommand_kept (a0) (a1) (a2) (a3) : (endCommand a0 a1 a2 a3).kept = a0.kept := by
  unfold endCommand
  try dsimp only
  repeat' (first | assumption | (simp; done) | (with_reducible refine kept_ite ?_ ?_) | split | (refine (kept_foldl _ _ _ ?_).trans ?_)
                 | (refine (kept_foldl_snd _ _ _ ?_).trans ?_) | intro _ | (with_reducible rfl))
@[simp] theorem endCancelled_kept (a0) (a1) : (endCancelled a0 a1).kept = a0.kept := by
  unfold endCancelled
  try dsimp only
  repeat' (first | assumption | (simp; done) | (with_reducible refine kept_ite ?_ ?_) | split | (refine (kept_foldl _ _ _ ?_).trans ?_)
                 | (refine (kept_foldl_snd _ _ _ ?_).trans ?_) | intro _ | (with_reducible rfl))
@[simp] theorem cancelCommand_kept (a0) (a1) (a2) : (cancelCommand a0 a1 a2).kept = a0.kept := by
  unfold cancelCommand
  try dsimp only
  repeat' (first | assumption | (simp; done) | (with_reducible refine kept_ite ?_ ?_) | split | (refine (kept_foldl _ _ _ ?_).trans ?_)
                 | (refine (kept_foldl_snd _ _ _ ?_).trans ?_) | intro _ | (with_reducible rfl))
@[simp] theorem compareAll_kept (a0) (a1) : (compareAll a0 a1).2.kept = a1.kept := by
  induction a0 generalizing a1 with
  | nil => rfl
  | cons x r ih => unfold compareAll; dsimp only; rw [ih]; simp
@[simp] theorem runAct_kept (a0) (a1) : (runAct a0 a1).kept = a1.kept := by
  unfold runAct
  try dsimp only
  repeat' (first | assumption | (simp; done) | (with_reducible refine kept_ite ?_ ?_) | split | (refine (kept_foldl _ _ _ ?_).trans ?_)
                 | (refine (kept_foldl_snd _ _ _ ?_).trans ?_) | intro _ | (with_reducible rfl))
@[simp] theorem castAct_kept (a0) (a1) : (castAct a0 a1).kept = a1.kept := by
  unfold castAct
  try dsimp only
  repeat' (first | assumption | (simp; done) | (with_reducible refine kept_ite ?_ ?_) | split | (refine (kept_foldl _ _ _ ?_).trans ?_)
                 | (refine (kept_foldl_snd _ _ _ ?_).trans ?_) | intro _ | (with_reducible rfl))
@[simp] theorem readCastAct_kept (a0) (a1) : (readCastAct a0 a1).kept = a1.kept := by
  unfold readCastAct
  try dsimp only
  repeat' (first | assumption | (simp; done) | (with_reducible refine kept_ite ?_ ?_) | split | (refine (kept_foldl _ _ _ ?_).trans ?_)
                 | (refine (kept_foldl_snd _ _ _ ?_).trans ?_) | intro _ | (with_reducible rfl))
@[simp] theorem applyImage_kept (a0) (a1) : (applyImage a0 a1).2.kept = a0.kept := by
  unfold applyImage
  simp [apply_ite State.kept, apply_ite Prod.snd]
@[simp] theorem releaseCore_kept (a0) (a1) : (releaseCore a0 a1).kept = a0.kept := rfl
@[simp] theorem recordW_kept (a0) (a1) (a2) : (recordW a0 a1 a2).kept = a0.kept := by
  unfold recordW
  try dsimp only
  repeat' (first | assumption | (simp; done) | (with_reducible refine kept_ite ?_ ?_) | split | (refine (kept_foldl _ _ _ ?_).trans ?_)
                 | (refine (kept_foldl_snd _ _ _ ?_).trans ?_) | intro _ | (with_reducible rfl))
theorem loadCores_kept (a0) (a1) : ∀ t, loadCores a0 a1 = some t → t.kept = a0.kept := by
  intro t; unfold loadCores; dsimp only
  generalize hf : (fun (r : Option State) (e : CoreEntry) => _) = f
  have h0 : ∀ e, f none e = none := by intro e; rw [← hf]
  have h1 : ∀ s e u, f (some s) e = some u → u.kept = s.kept := by
    intro s e u h; rw [← hf] at h; dsimp only at h
    split at h
    · cases h; simp
    · cases h
  have hn : ∀ l : List CoreEntry, l.foldl f none = none := by
    intro l; induction l with
    | nil => rfl
    | cons e r ih => rw [List.foldl_cons, h0, ih]
  have g : ∀ (l : List CoreEntry) (s : State), s.kept = a0.kept → ∀ t, l.foldl f (some s) = some t → t.kept = a0.kept := by
    intro l
    induction l with
    | nil => intro s hs t h; cases h; exact hs
    | cons e r ih =>
      intro s hs t h
      rw [List.foldl_cons] at h
      cases hu : f (some s) e with
      | none => rw [hu, hn] at h; cases h
      | some u => rw [hu] at h; exact ih u ((h1 _ _ _ hu).trans hs) t h
  exact g _ _ rfl t
theorem createPlace_kept (a0) (a1) (a2) : ∀ t, createPlace a0 a1 a2 = some t → t.kept = a0.kept := by
  intro t h; unfold createPlace at h; rw [loadCores_kept _ _ t h]; simp
/-- What a meaning answers, if it is a next state, keeps the queue and package time. -/
def NextKept (s : State) (r : Res) : Prop := ∀ t, r = .next t → t.kept = s.kept
theorem onArrival_next (s : State) (id : Nat) (act : Packet → CoreId → State → State) (h : ∀ p c s, (act p c s).kept = s.kept) :
    NextKept s (onArrival s id act) := by
  intro t ht; unfold onArrival at ht
  repeat' (first | split at ht | (cases ht; first | rfl | exact h .. | exact fencedArrival_kept ..))
theorem onMemory_next (s : State) (id : Nat) (act : Packet → State → State) (h : ∀ p s, (act p s).kept = s.kept) :
    NextKept s (onMemory s id act) := by
  intro t ht; unfold onMemory at ht
  repeat' (first | split at ht | (cases ht; first | rfl | exact h .. | exact fencedArrival_kept ..))
theorem execWriteAckArrive_next (a0) (a1) : NextKept a1 (execWriteAckArrive a0 a1) := by
  unfold execWriteAckArrive
  with_reducible refine onArrival_next _ _ _ (fun p c s => ?_)
  try dsimp only
  repeat' (first | (simp [kept_foldl, apply_ite State.kept]; done) | split)
theorem execRemoteWriteArrive_next (a0) (a1) : NextKept a1 (execRemoteWriteArrive a0 a1) := by
  unfold execRemoteWriteArrive
  with_reducible refine onArrival_next _ _ _ (fun p c s => ?_)
  try dsimp only
  repeat' (first | (simp [kept_foldl, apply_ite State.kept]; done) | split)
theorem execRingMessageArrive_next (a0) (a1) (a2) : NextKept a2 (execRingMessageArrive a0 a1 a2) := by
  unfold execRingMessageArrive
  with_reducible refine onArrival_next _ _ _ (fun p c s => ?_)
  try dsimp only
  repeat' (first | (simp [kept_foldl, apply_ite State.kept]; done) | split)
theorem execBindRequestArrive_next (a0) (a1) : NextKept a1 (execBindRequestArrive a0 a1) := by
  unfold execBindRequestArrive
  with_reducible refine onArrival_next _ _ _ (fun p c s => ?_)
  try dsimp only
  repeat' (first | (simp [kept_foldl, apply_ite State.kept]; done) | split)
theorem execBindAnswerArrive_next (a0) (a1) : NextKept a1 (execBindAnswerArrive a0 a1) := by
  unfold execBindAnswerArrive
  with_reducible refine onArrival_next _ _ _ (fun p c s => ?_)
  try dsimp only
  repeat' (first | (simp [kept_foldl, apply_ite State.kept]; done) | split)
theorem execUnbindArrive_next (a0) (a1) : NextKept a1 (execUnbindArrive a0 a1) := by
  unfold execUnbindArrive
  with_reducible refine onArrival_next _ _ _ (fun p c s => ?_)
  try dsimp only
  repeat' (first | (simp [kept_foldl, apply_ite State.kept]; done) | split)
theorem execCreditReturnArrive_next (a0) (a1) : NextKept a1 (execCreditReturnArrive a0 a1) := by
  unfold execCreditReturnArrive
  with_reducible refine onArrival_next _ _ _ (fun p c s => ?_)
  try dsimp only
  repeat' (first | (simp [kept_foldl, apply_ite State.kept]; done) | split)
theorem execRouteClaimArrive_next (a0) (a1) : NextKept a1 (execRouteClaimArrive a0 a1) := by
  unfold execRouteClaimArrive
  with_reducible refine onArrival_next _ _ _ (fun p c s => ?_)
  try dsimp only
  repeat' (first | (simp [kept_foldl, apply_ite State.kept]; done) | split)
theorem execRouteClaimAnswer_next (a0) (a1) : NextKept a1 (execRouteClaimAnswer a0 a1) := by
  unfold execRouteClaimAnswer
  with_reducible refine onArrival_next _ _ _ (fun p c s => ?_)
  try dsimp only
  repeat' (first | (simp [kept_foldl, apply_ite State.kept]; done) | split)
theorem execCommonsRequestArrive_next (a0) (a1) : NextKept a1 (execCommonsRequestArrive a0 a1) := by
  unfold execCommonsRequestArrive
  with_reducible refine onMemory_next _ _ _ (fun p s => ?_)
  try dsimp only
  repeat' (first | (simp [kept_foldl, apply_ite State.kept]; done) | split)
theorem execHbmRequestArrive_next (a0) (a1) : NextKept a1 (execHbmRequestArrive a0 a1) := by
  unfold execHbmRequestArrive
  with_reducible refine onMemory_next _ _ _ (fun p s => ?_)
  try dsimp only
  repeat' (first | (simp [kept_foldl, apply_ite State.kept]; done) | split)
theorem execFarResponseArrive_next (a0) (a1) : NextKept a1 (execFarResponseArrive a0 a1) := by
  unfold execFarResponseArrive
  with_reducible refine onArrival_next _ _ _ (fun p c s => ?_)
  try dsimp only
  repeat' (first | (simp [kept_foldl, apply_ite State.kept]; done) | split)
theorem execFencedAnswerArrive_next (a0) (a1) : NextKept a1 (execFencedAnswerArrive a0 a1) := by
  unfold execFencedAnswerArrive
  with_reducible refine onArrival_next _ _ _ (fun p c s => ?_)
  try dsimp only
  repeat' (first | (simp [kept_foldl, apply_ite State.kept]; done) | split)
theorem execCairnFinalCombine_next (a0) (a1) (a2) : NextKept a2 (execCairnFinalCombine a0 a1 a2) := by
  unfold execCairnFinalCombine
  with_reducible refine onArrival_next _ _ _ (fun p c s => ?_)
  try dsimp only
  repeat' (first | (simp [kept_foldl, apply_ite State.kept]; done) | split)
theorem arrive_next (a0) (a1) : NextKept a1 (arrive a0 a1) := by
  unfold arrive
  repeat' (first | exact execWriteAckArrive_next _ _ | exact execRemoteWriteArrive_next _ _ | exact execRingMessageArrive_next _ _ _
                 | exact execBindRequestArrive_next _ _ | exact execBindAnswerArrive_next _ _ | exact execUnbindArrive_next _ _ | exact execCreditReturnArrive_next _ _
                 | exact execRouteClaimArrive_next _ _ | exact execRouteClaimAnswer_next _ _ | exact execCommonsRequestArrive_next _ _ | exact execHbmRequestArrive_next _ _
                 | exact execFarResponseArrive_next _ _ | exact execFencedAnswerArrive_next _ _ | exact execCairnFinalCombine_next _ _ _ | split)
@[simp] theorem deliverOwn_kept (a0) (a1) (a2) : (deliverOwn a0 a1 a2).kept = a2.kept := by
  induction a0 generalizing a2 with
  | zero => rfl
  | succ n ih =>
    unfold deliverOwn
    split
    · rfl
    · dsimp only
      rw [ih]
      split
      · rename_i t ht
        exact (arrive_next _ _ t ht).trans rfl
      · rfl
@[simp] theorem endPlace_kept (a0) (a1) : (endPlace a0 a1).kept = a0.kept := by
  unfold endPlace
  try dsimp only
  repeat' (first | rfl | assumption | (simp; done) | split | (refine (kept_foldl _ _ _ ?_).trans ?_) | intro _ | simp)
@[simp] theorem startDrain_kept (a0) (a1) : (startDrain a0 a1).kept = a0.kept := by
  unfold startDrain
  try dsimp only
  repeat' (first | assumption | (simp; done) | (with_reducible refine kept_ite ?_ ?_) | split | (refine (kept_foldl _ _ _ ?_).trans ?_)
                 | (refine (kept_foldl_snd _ _ _ ?_).trans ?_) | intro _ | (with_reducible rfl))
@[simp] theorem finishDrain_kept (a0) (a1) : (finishDrain a0 a1).kept = a0.kept := by
  unfold finishDrain
  split
  · rfl
  · refine kept_ite rfl ?_
    dsimp only
    rw [State.setPlace_kept, plinthWrite_kept]
    exact performAll_kept _
@[simp] theorem imageHolds_kept (a0) (a1) (a2) : (imageHolds a0 a1 a2).2.kept = a0.kept := by
  unfold imageHolds
  try dsimp only
  repeat' (first | assumption | (simp; done) | (with_reducible refine kept_ite ?_ ?_) | split | (refine (kept_foldl _ _ _ ?_).trans ?_)
                 | (refine (kept_foldl_snd _ _ _ ?_).trans ?_) | intro _ | (with_reducible rfl))
@[simp] theorem restorePlace_kept (a0) (a1) : (restorePlace a0 a1).kept = a0.kept := by
  unfold restorePlace
  try dsimp only
  repeat' (first | rfl | assumption | (simp; done) | split | (refine (kept_foldl _ _ _ ?_).trans ?_) | intro _ | simp)
@[simp] theorem countCtr_kept (a0) (a1) (a2) (a3) : (countCtr a0 a1 a2 a3).kept = a0.kept := rfl
@[simp] theorem chargeOne_kept (a0) (a1) : (chargeOne a0 a1).kept = a1.kept := by
  unfold chargeOne
  simp [apply_ite State.kept, apply_ite Prod.snd]
@[simp] theorem charge_kept (a0) (a1) (a2) : (charge a0 a1 a2).kept = a0.kept := by
  unfold charge
  try dsimp only
  repeat' (first | assumption | (simp; done) | (with_reducible refine kept_ite ?_ ?_) | split | (refine (kept_foldl _ _ _ ?_).trans ?_)
                 | (refine (kept_foldl_snd _ _ _ ?_).trans ?_) | intro _ | (with_reducible rfl))
@[simp] theorem pickPage_kept (a0) (a1) (a2) : (pickPage a0 a1 a2).2.kept = a2.kept := by
  induction a0 generalizing a2 with
  | zero => rfl
  | succ n ih => unfold pickPage; dsimp only; split; · simp
                 split; · simp
                 rw [ih]; simp
@[simp] theorem holdPage_kept (a0) (a1) (a2) : (holdPage a0 a1 a2).kept = a0.kept := rfl
@[simp] theorem dropPage_kept (a0) (a1) (a2) : (dropPage a0 a1 a2).kept = a0.kept := rfl
@[simp] theorem drawPages_kept (a0) (a1) (a2) : (drawPages a0 a1 a2).kept = a1.kept := by
  induction a0 generalizing a1 with
  | zero => rfl
  | succ n ih => unfold drawPages; dsimp only; split; · simp
                 rw [ih]; simp
@[simp] theorem releasePages_kept (a0) (a1) (a2) : (releasePages a0 a1 a2).kept = a0.kept := by
  unfold releasePages
  try dsimp only
  repeat' (first | assumption | (simp; done) | (with_reducible refine kept_ite ?_ ?_) | split | (refine (kept_foldl _ _ _ ?_).trans ?_)
                 | (refine (kept_foldl_snd _ _ _ ?_).trans ?_) | intro _ | (with_reducible rfl))
@[simp] theorem sample_kept (a0) (a1) (a2) (a3) (a4) : (sample a0 a1 a2 a3 a4).kept = a0.kept := rfl
@[simp] theorem notice_kept (a0) (a1) (a2) (a3) (a4) (a5) : (notice a0 a1 a2 a3 a4 a5).kept = a0.kept := by unfold notice; simp
@[simp] theorem writeChunk_kept (a0) (a1) (a2) (a3) : (writeChunk a0 a1 a2 a3).kept = a0.kept := by unfold writeChunk; simp
@[simp] theorem writeChunks_kept (a0) (a1) (a2) (a3) : (writeChunks a0 a1 a2 a3).kept = a3.kept := by
  fun_induction writeChunks <;> simp_all
@[simp] theorem flushOutput_kept (a0) (a1) (a2) : (flushOutput a0 a1 a2).kept = a0.kept := by unfold flushOutput; simp
@[simp] theorem updateQueue_kept (a0) (a1) : (updateQueue a0 a1).kept = a0.kept := by
  unfold updateQueue
  try dsimp only
  repeat' (first | assumption | (simp; done) | (with_reducible refine kept_ite ?_ ?_) | split | (refine (kept_foldl _ _ _ ?_).trans ?_)
                 | (refine (kept_foldl_snd _ _ _ ?_).trans ?_) | intro _ | (with_reducible rfl))
@[simp] theorem leaveQueue_kept (a0) (a1) : (leaveQueue a0 a1).kept = a0.kept := by
  unfold leaveQueue
  simp [apply_ite State.kept, apply_ite Prod.snd]
@[simp] theorem endRequest_kept (a0) (a1) (a2) (a3) (a4) (a5) (a6) : (endRequest a0 a1 a2 a3 a4 a5 a6).kept = a0.kept := by
  unfold endRequest
  simp [apply_ite State.kept, apply_ite Prod.snd]
@[simp] theorem cancelRequest_kept (a0) (a1) (a2) : (cancelRequest a0 a1 a2).kept = a0.kept := by unfold cancelRequest; simp
@[simp] theorem failRequest_kept (a0) (a1) (a2) : (failRequest a0 a1 a2).kept = a0.kept := by unfold failRequest; simp
@[simp] theorem cancelAll_kept (a0) (a1) (a2) : (cancelAll a0 a1 a2).kept = a0.kept := by
  unfold cancelAll
  try dsimp only
  repeat' (first | assumption | (simp; done) | (with_reducible refine kept_ite ?_ ?_) | split | (refine (kept_foldl _ _ _ ?_).trans ?_)
                 | (refine (kept_foldl_snd _ _ _ ?_).trans ?_) | intro _ | (with_reducible rfl))
@[simp] theorem pauseRequest_kept (a0) (a1) (a2) : (pauseRequest a0 a1 a2).kept = a0.kept := by
  unfold pauseRequest
  simp [apply_ite State.kept, apply_ite Prod.snd]
@[simp] theorem suspendRequest_kept (a0) (a1) : (suspendRequest a0 a1).kept = a0.kept := by
  unfold suspendRequest
  simp [apply_ite State.kept, apply_ite Prod.snd]
@[simp] theorem resumeRequest_kept (a0) (a1) (a2) : (resumeRequest a0 a1 a2).kept = a0.kept := by
  unfold resumeRequest
  try dsimp only
  repeat' (first | assumption | (simp; done) | (with_reducible refine kept_ite ?_ ?_) | split | (refine (kept_foldl _ _ _ ?_).trans ?_)
                 | (refine (kept_foldl_snd _ _ _ ?_).trans ?_) | intro _ | (with_reducible rfl))
@[simp] theorem restartPrefill_kept (a0) (a1) : (restartPrefill a0 a1).kept = a0.kept := by unfold restartPrefill; simp
@[simp] theorem preempt_kept (a0) (a1) : (preempt a0 a1).kept = a0.kept := by unfold preempt; simp
@[simp] theorem suspendSlot_kept (a0) (a1) : (suspendSlot a0 a1).kept = a0.kept := by
  unfold suspendSlot
  try dsimp only
  repeat' (first | assumption | (simp; done) | (with_reducible refine kept_ite ?_ ?_) | split | (refine (kept_foldl _ _ _ ?_).trans ?_)
                 | (refine (kept_foldl_snd _ _ _ ?_).trans ?_) | intro _ | (with_reducible rfl))
@[simp] theorem resumeSlot_kept (a0) (a1) : (resumeSlot a0 a1).kept = a0.kept := by
  unfold resumeSlot
  try dsimp only
  repeat' (first | assumption | (simp; done) | (with_reducible refine kept_ite ?_ ?_) | split | (refine (kept_foldl _ _ _ ?_).trans ?_)
                 | (refine (kept_foldl_snd _ _ _ ?_).trans ?_) | intro _ | (with_reducible rfl))
@[simp] theorem writeBackCtx_kept (a0) (a1) : (writeBackCtx a0 a1).kept = a0.kept := by
  unfold writeBackCtx
  try dsimp only
  repeat' (first | assumption | (simp; done) | (with_reducible refine kept_ite ?_ ?_) | split | (refine (kept_foldl _ _ _ ?_).trans ?_)
                 | (refine (kept_foldl_snd _ _ _ ?_).trans ?_) | intro _ | (with_reducible rfl))
@[simp] theorem writeBackPart_kept (a0) (a1) : (writeBackPart a0 a1).kept = a0.kept := by
  unfold writeBackPart
  try dsimp only
  repeat' (first | assumption | (simp; done) | (with_reducible refine kept_ite ?_ ?_) | split | (refine (kept_foldl _ _ _ ?_).trans ?_)
                 | (refine (kept_foldl_snd _ _ _ ?_).trans ?_) | intro _ | (with_reducible rfl))
@[simp] theorem bindSlot_kept (a0) (a1) (a2) : (bindSlot a0 a1 a2).kept = a0.kept := by
  unfold bindSlot
  try dsimp only
  repeat' (first | assumption | (simp; done) | (with_reducible refine kept_ite ?_ ?_) | split | (refine (kept_foldl _ _ _ ?_).trans ?_)
                 | (refine (kept_foldl_snd _ _ _ ?_).trans ?_) | intro _ | (with_reducible rfl))
@[simp] theorem altSlot_kept (a0) (a1) : (altSlot a0 a1).kept = a0.kept := by
  unfold altSlot; dsimp only; split; · rfl
  split; · rfl
  split; · rfl
  rename_i h; rw [bindSlot_kept, kept_foldl _ _ _ (by simp), loadCores_kept _ _ _ h]
@[simp] theorem readySlot_kept (a0) (a1) : (readySlot a0 a1).kept = a0.kept := by unfold readySlot; simp
@[simp] theorem readySlots_kept (a0) (a1) : (readySlots a0 a1).kept = a0.kept := by
  unfold readySlots
  try dsimp only
  repeat' (first | assumption | (simp; done) | (with_reducible refine kept_ite ?_ ?_) | split | (refine (kept_foldl _ _ _ ?_).trans ?_)
                 | (refine (kept_foldl_snd _ _ _ ?_).trans ?_) | intro _ | (with_reducible rfl))
@[simp] theorem sealFail_kept (a0) (a1) (a2) : (sealFail a0 a1 a2).kept = a0.kept := rfl
@[simp] theorem openEnvelope_kept (a0) (a1) (a2) (a3) : (openEnvelope a0 a1 a2 a3).2.kept = a0.kept := by
  unfold openEnvelope
  try dsimp only
  repeat' (first | assumption | (simp; done) | (with_reducible refine kept_ite ?_ ?_) | split | (refine (kept_foldl _ _ _ ?_).trans ?_)
                 | (refine (kept_foldl_snd _ _ _ ?_).trans ?_) | intro _ | (with_reducible rfl))
@[simp] theorem takePrefix_kept (a0) (a1) (a2) : (takePrefix a0 a1 a2).kept = a0.kept := by
  unfold takePrefix
  try dsimp only
  repeat' (first | assumption | (simp; done) | (with_reducible refine kept_ite ?_ ?_) | split | (refine (kept_foldl _ _ _ ?_).trans ?_)
                 | (refine (kept_foldl_snd _ _ _ ?_).trans ?_) | intro _ | (with_reducible rfl))
@[simp] theorem admitCtx_kept (a0) (a1) : (admitCtx a0 a1).kept = a0.kept := by unfold admitCtx; simp
@[simp] theorem deferCtx_kept (a0) (a1) (a2) (a3) : (deferCtx a0 a1 a2 a3).kept = a0.kept := by
  unfold deferCtx
  simp [apply_ite State.kept, apply_ite Prod.snd]
@[simp] theorem refuse_kept (a0) (a1) (a2) (a3) : (refuse a0 a1 a2 a3).kept = a0.kept := by unfold refuse; simp
@[simp] theorem decide375_kept (a0) (a1) (a2) (a3) : (decide375 a0 a1 a2 a3).kept = a0.kept := by
  unfold decide375
  try dsimp only
  repeat' (first | assumption | (simp; done) | (with_reducible refine kept_ite ?_ ?_) | split | (refine (kept_foldl _ _ _ ?_).trans ?_)
                 | (refine (kept_foldl_snd _ _ _ ?_).trans ?_) | intro _ | (with_reducible rfl))
@[simp] theorem submitAct_kept (a0) (a1) (a2) : (submitAct a0 a1 a2).kept = a2.kept := by
  unfold submitAct
  try dsimp only
  repeat' (first | assumption | (simp; done) | (with_reducible refine kept_ite ?_ ?_) | split | (refine (kept_foldl _ _ _ ?_).trans ?_)
                 | (refine (kept_foldl_snd _ _ _ ?_).trans ?_) | intro _ | (with_reducible rfl))
@[simp] theorem cancelAct_kept (a0) (a1) : (cancelAct a0 a1).kept = a1.kept := by
  unfold cancelAct
  try dsimp only
  repeat' (first | assumption | (simp; done) | (with_reducible refine kept_ite ?_ ?_) | split | (refine (kept_foldl _ _ _ ?_).trans ?_)
                 | (refine (kept_foldl_snd _ _ _ ?_).trans ?_) | intro _ | (with_reducible rfl))
@[simp] theorem holdAct_kept (a0) (a1) : (holdAct a0 a1).kept = a1.kept := by
  unfold holdAct
  try dsimp only
  repeat' (first | assumption | (simp; done) | (with_reducible refine kept_ite ?_ ?_) | split | (refine (kept_foldl _ _ _ ?_).trans ?_)
                 | (refine (kept_foldl_snd _ _ _ ?_).trans ?_) | intro _ | (with_reducible rfl))
@[simp] theorem releaseAct_kept (a0) (a1) : (releaseAct a0 a1).kept = a1.kept := by
  unfold releaseAct
  try dsimp only
  repeat' (first | assumption | (simp; done) | (with_reducible refine kept_ite ?_ ?_) | split | (refine (kept_foldl _ _ _ ?_).trans ?_)
                 | (refine (kept_foldl_snd _ _ _ ?_).trans ?_) | intro _ | (with_reducible rfl))
@[simp] theorem readCtxAct_kept (a0) (a1) : (readCtxAct a0 a1).kept = a1.kept := by
  unfold readCtxAct
  try dsimp only
  repeat' (first | assumption | (simp; done) | (with_reducible refine kept_ite ?_ ?_) | split | (refine (kept_foldl _ _ _ ?_).trans ?_)
                 | (refine (kept_foldl_snd _ _ _ ?_).trans ?_) | intro _ | (with_reducible rfl))
@[simp] theorem passLoop_kept (a0) (a1) (a2) : (passLoop a0 a1 a2).kept = a2.kept := by
  induction a1 generalizing a2 with
  | zero => rfl
  | succ n ih => unfold passLoop; split; · rfl
                 rw [ih]; simp
@[simp] theorem applyContracts_kept (a0) (a1) : (applyContracts a0 a1).kept = a0.kept := by
  unfold applyContracts
  try dsimp only
  repeat' (first | assumption | (simp; done) | (with_reducible refine kept_ite ?_ ?_) | split | (refine (kept_foldl _ _ _ ?_).trans ?_)
                 | (refine (kept_foldl_snd _ _ _ ?_).trans ?_) | intro _ | (with_reducible rfl))
@[simp] theorem admissionPass_kept (a0) (a1) : (admissionPass a0 a1).kept = a0.kept := by
  unfold admissionPass
  try dsimp only
  repeat' (first | assumption | (simp; done) | (with_reducible refine kept_ite ?_ ?_) | split | (refine (kept_foldl _ _ _ ?_).trans ?_)
                 | (refine (kept_foldl_snd _ _ _ ?_).trans ?_) | intro _ | (with_reducible rfl))
@[simp] theorem comeBack_kept (a0) (a1) : (comeBack a0 a1).kept = a0.kept := by
  unfold comeBack
  simp [apply_ite State.kept, apply_ite Prod.snd]
@[simp] theorem addEntry_kept (a0) (a1) (a2) (a3) : (addEntry a0 a1 a2 a3).2.kept = a1.kept := by
  unfold addEntry
  simp [apply_ite State.kept, apply_ite Prod.snd]
theorem tryEntry_kept (sl : Nat) (p : Batch × State) (i : Nat) : (tryEntry sl p i).2.kept = p.2.kept := by
  unfold tryEntry; dsimp only; repeat' (first | (simp; done) | split | rfl)
@[simp] theorem writeArea_kept (a0) (a1) : (writeArea a0 a1).kept = a0.kept := by
  unfold writeArea
  try dsimp only
  repeat' (first | assumption | (simp; done) | (with_reducible refine kept_ite ?_ ?_) | split | (refine (kept_foldl _ _ _ ?_).trans ?_)
                 | (refine (kept_foldl_snd _ _ _ ?_).trans ?_) | intro _ | (with_reducible rfl))
@[simp] theorem markSealed_kept (a0) (a1) (a2) : (markSealed a0 a1 a2).kept = a0.kept := by
  unfold markSealed
  try dsimp only
  repeat' (first | assumption | (simp; done) | (with_reducible refine kept_ite ?_ ?_) | split | (refine (kept_foldl _ _ _ ?_).trans ?_)
                 | (refine (kept_foldl_snd _ _ _ ?_).trans ?_) | intro _ | (with_reducible rfl))
@[simp] theorem dispatchStep_kept (a0) (a1) : (dispatchStep a0 a1).kept = a0.kept := by
  unfold dispatchStep
  try dsimp only
  repeat' (first | assumption | (simp; done) | (with_reducible refine kept_ite ?_ ?_) | split | (refine (kept_foldl _ _ _ ?_).trans ?_)
                 | (refine (kept_foldl_snd _ _ _ ?_).trans ?_) | intro _ | (with_reducible rfl))
@[simp] theorem applyPrefixMax_kept (a0) (a1) : (applyPrefixMax a0 a1).kept = a0.kept := by
  unfold applyPrefixMax
  try dsimp only
  repeat' (first | assumption | (simp; done) | (with_reducible refine kept_ite ?_ ?_) | split | (refine (kept_foldl _ _ _ ?_).trans ?_)
                 | (refine (kept_foldl_snd _ _ _ ?_).trans ?_) | intro _ | (with_reducible rfl))
@[simp] theorem formStep_kept (a0) (a1) : (formStep a0 a1).kept = a0.kept := by
  unfold formStep; split; · rfl
  dsimp only
  have h : (((ranked (applyPrefixMax a0 a1) (candidatesOf (applyPrefixMax a0 a1) a1)).foldl (tryEntry a1)
      (({ left := ((applyPrefixMax a0 a1).slotCfg a1).maxTokens.toNat } : Batch), applyPrefixMax a0 a1))).2.kept = a0.kept :=
    (kept_foldl_snd _ _ _ (tryEntry_kept a1)).trans (by simp)
  split; · exact h
  simp [h]
@[simp] theorem publishPrefix_kept (a0) (a1) : (publishPrefix a0 a1).kept = a0.kept := by
  unfold publishPrefix
  simp [apply_ite State.kept, apply_ite Prod.snd]
@[simp] theorem keepToks_kept (a0) (a1) (a2) : (keepToks a0 a1 a2).kept = a0.kept := by
  unfold keepToks
  simp [apply_ite State.kept, apply_ite Prod.snd]
@[simp] theorem commitEntry_kept (a0) (a1) (a2) : (commitEntry a0 a1 a2).kept = a1.kept := by
  unfold commitEntry
  simp [apply_ite State.kept, apply_ite Prod.snd]
@[simp] theorem readRecs_kept (a0) (a1) (a2) : (readRecs a0 a1 a2).2.2.kept = a2.kept := by
  induction a1 generalizing a0 a2 with
  | nil => rfl
  | cons x r ih => unfold readRecs; dsimp only; rw [ih]; simp
@[simp] theorem pausePart_kept (a0) (a1) : (pausePart a0 a1).kept = a0.kept := by
  unfold pausePart
  try dsimp only
  repeat' (first | assumption | (simp; done) | (with_reducible refine kept_ite ?_ ?_) | split | (refine (kept_foldl _ _ _ ?_).trans ?_)
                 | (refine (kept_foldl_snd _ _ _ ?_).trans ?_) | intro _ | (with_reducible rfl))
@[simp] theorem commitStep_kept (a0) (a1) (a2) (a3) : (commitStep a0 a1 a2 a3).kept = a0.kept := by
  unfold commitStep; dsimp only
  rw [pausePart_kept, State.setMslot_kept]
  exact kept_foldl _ _ _ (fun s a => by simp)
@[simp] theorem markReplayed_kept (a0) (a1) : (markReplayed a0 a1).kept = a0.kept := by
  unfold markReplayed
  try dsimp only
  repeat' (first | assumption | (simp; done) | (with_reducible refine kept_ite ?_ ?_) | split | (refine (kept_foldl _ _ _ ?_).trans ?_)
                 | (refine (kept_foldl_snd _ _ _ ?_).trans ?_) | intro _ | (with_reducible rfl))
@[simp] theorem detachStep_kept (a0) (a1) (a2) : (detachStep a0 a1 a2).kept = a0.kept := by
  unfold detachStep
  try dsimp only
  repeat' (first | assumption | (simp; done) | (with_reducible refine kept_ite ?_ ?_) | split | (refine (kept_foldl _ _ _ ?_).trans ?_)
                 | (refine (kept_foldl_snd _ _ _ ?_).trans ?_) | intro _ | (with_reducible rfl))
@[simp] theorem dropStep_kept (a0) (a1) : (dropStep a0 a1).kept = a0.kept := by
  unfold dropStep; dsimp only
  split
  · rfl
  · have h : ∀ (l : List StepEnt) (s : State), (l.foldl (fun s e =>
        if handleOf e.ctx (s.ctx e.ctx) = e.handle ∧ (s.ctx e.ctx).live then
          if (s.ctx e.ctx).cancelRx then cancelRequest (s.setCtx e.ctx { s.ctx e.ctx with inStep := false, st := resumeOf (s.ctx e.ctx).st }) e.ctx 0x04
          else s.setCtx e.ctx { s.ctx e.ctx with inStep := false, st := resumeOf (s.ctx e.ctx).st }
        else s) s).kept = s.kept := by
      intro l s; refine kept_foldl _ _ _ (fun s e => ?_)
      refine kept_ite (kept_ite (by simp) (by simp)) rfl
    split
    · rw [detachStep_kept, pausePart_kept, State.setMslot_kept]; exact h _ _
    · rw [pausePart_kept, State.setMslot_kept]; exact h _ _
@[simp] theorem loseSlot_kept (a0) (a1) : (loseSlot a0 a1).kept = a0.kept := by unfold loseSlot; simp
@[simp] theorem failPlace_kept (a0) (a1) : (failPlace a0 a1).kept = a0.kept := by
  unfold failPlace
  try dsimp only
  repeat' (first | assumption | (simp; done) | (with_reducible refine kept_ite ?_ ?_) | split | (refine (kept_foldl _ _ _ ?_).trans ?_)
                 | (refine (kept_foldl_snd _ _ _ ?_).trans ?_) | intro _ | (with_reducible rfl))
@[simp] theorem replayStep_kept (a0) (a1) (a2) : (replayStep a0 a1 a2).kept = a0.kept := by
  unfold replayStep
  try dsimp only
  repeat' (first | assumption | (simp; done) | (with_reducible refine kept_ite ?_ ?_) | split | (refine (kept_foldl _ _ _ ?_).trans ?_)
                 | (refine (kept_foldl_snd _ _ _ ?_).trans ?_) | intro _ | (with_reducible rfl))
@[simp] theorem preemptUntil_kept (a0) (a1) (a2) (a3) : (preemptUntil a0 a1 a2 a3).kept = a3.kept := by
  fun_induction preemptUntil <;> simp_all
@[simp] theorem preemption_kept (a0) (a1) : (preemption a0 a1).kept = a0.kept := by
  unfold preemption
  try dsimp only
  repeat' (first | assumption | (simp; done) | (with_reducible refine kept_ite ?_ ?_) | split | (refine (kept_foldl _ _ _ ?_).trans ?_)
                 | (refine (kept_foldl_snd _ _ _ ?_).trans ?_) | intro _ | (with_reducible rfl))
@[simp] theorem stepStages_kept (a0) (a1) : (stepStages a0 a1).kept = a0.kept := by unfold stepStages; simp
@[simp] theorem writeOutput.endRequestDone_kept (a0) (a1) : (writeOutput.endRequestDone a0 a1).kept = a0.kept := by
  unfold writeOutput.endRequestDone; simp
@[simp] theorem writeOutput_kept (a0) (a1) : (writeOutput a0 a1).kept = a0.kept := by
  unfold writeOutput; dsimp only; repeat' (first | (simp; done) | split)
@[simp] theorem popSeal_kept (a0) (a1) : (popSeal a0 a1).kept = a0.kept := by
  unfold popSeal
  try dsimp only
  repeat' (first | assumption | (simp; done) | (with_reducible refine kept_ite ?_ ?_) | split | (refine (kept_foldl _ _ _ ?_).trans ?_)
                 | (refine (kept_foldl_snd _ _ _ ?_).trans ?_) | intro _ | (with_reducible rfl))
@[simp] theorem drainPlace_kept (a0) (a1) : (drainPlace a0 a1).kept = a0.kept := by
  unfold drainPlace
  try dsimp only
  repeat' (first | assumption | (simp; done) | (with_reducible refine kept_ite ?_ ?_) | split | (refine (kept_foldl _ _ _ ?_).trans ?_)
                 | (refine (kept_foldl_snd _ _ _ ?_).trans ?_) | intro _ | (with_reducible rfl))
@[simp] theorem unbindSlot_kept (a0) (a1) : (unbindSlot a0 a1).kept = a0.kept := by unfold unbindSlot; simp
@[simp] theorem placeCreateAct_kept (a0) (a1) : (placeCreateAct a0 a1).kept = a1.kept := by
  unfold placeCreateAct; dsimp only; split; · simp
  split; · simp
  split; · simp
  split; · simp
  rename_i h; simp [createPlace_kept _ _ _ _ h]
@[simp] theorem destroyPlace_kept (a0) (a1) : (destroyPlace a0 a1).kept = a0.kept := by
  unfold destroyPlace
  try dsimp only
  repeat' (first | rfl | assumption | (simp; done) | split | (refine (kept_foldl _ _ _ ?_).trans ?_) | intro _ | simp)
@[simp] theorem placeDestroyAct_kept (a0) (a1) : (placeDestroyAct a0 a1).kept = a1.kept := by
  unfold placeDestroyAct
  try dsimp only
  repeat' (first | assumption | (simp; done) | (with_reducible refine kept_ite ?_ ?_) | split | (refine (kept_foldl _ _ _ ?_).trans ?_)
                 | (refine (kept_foldl_snd _ _ _ ?_).trans ?_) | intro _ | (with_reducible rfl))
@[simp] theorem loadSegment_kept (a0) (a1) (a2) (a3) : (loadSegment a0 a1 a2 a3).kept = a0.kept := by
  unfold loadSegment
  simp [apply_ite State.kept, apply_ite Prod.snd]
@[simp] theorem slotLoadAct_kept (a0) (a1) : (slotLoadAct a0 a1).kept = a1.kept := by
  unfold slotLoadAct
  try dsimp only
  repeat' (first | assumption | (simp; done) | (with_reducible refine kept_ite ?_ ?_) | split | (refine (kept_foldl _ _ _ ?_).trans ?_)
                 | (refine (kept_foldl_snd _ _ _ ?_).trans ?_) | intro _ | (with_reducible rfl))
@[simp] theorem unloadSlot_kept (a0) (a1) : (unloadSlot a0 a1).kept = a0.kept := by unfold unloadSlot; simp
@[simp] theorem slotUnloadAct_kept (a0) (a1) : (slotUnloadAct a0 a1).kept = a1.kept := by
  unfold slotUnloadAct
  try dsimp only
  repeat' (first | assumption | (simp; done) | (with_reducible refine kept_ite ?_ ?_) | split | (refine (kept_foldl _ _ _ ?_).trans ?_)
                 | (refine (kept_foldl_snd _ _ _ ?_).trans ?_) | intro _ | (with_reducible rfl))
@[simp] theorem deleteQpAct_kept (a0) (a1) : (deleteQpAct a0 a1).kept = a1.kept := by
  unfold deleteQpAct
  simp [apply_ite State.kept, apply_ite Prod.snd]
@[simp] theorem clearDie_kept (a0) (a1) : (clearDie a0 a1).kept = a0.kept := rfl
@[simp] theorem zeroPage_kept (a0) (a1) (a2) (a3) : (zeroPage a0 a1 a2 a3).kept = a2.kept := by
  unfold zeroPage
  try dsimp only
  repeat' (first | assumption | (simp; done) | (with_reducible refine kept_ite ?_ ?_) | split | (refine (kept_foldl _ _ _ ?_).trans ?_)
                 | (refine (kept_foldl_snd _ _ _ ?_).trans ?_) | intro _ | (with_reducible rfl))
@[simp] theorem zeroBlocks_kept (a0) (a1) (a2) (a3) : (zeroBlocks a0 a1 a2 a3).kept = a0.kept := by
  unfold zeroBlocks
  try dsimp only
  repeat' (first | assumption | (simp; done) | (with_reducible refine kept_ite ?_ ?_) | split | (refine (kept_foldl _ _ _ ?_).trans ?_)
                 | (refine (kept_foldl_snd _ _ _ ?_).trans ?_) | intro _ | (with_reducible rfl))
@[simp] theorem addJob_kept (a0) (a1) (a2) (a3) : (addJob a0 a1 a2 a3).kept = a0.kept := rfl
@[simp] theorem zeroRangeAct_kept (a0) (a1) : (zeroRangeAct a0 a1).kept = a1.kept := by
  unfold zeroRangeAct
  try dsimp only
  repeat' (first | assumption | (simp; done) | (with_reducible refine kept_ite ?_ ?_) | split | (refine (kept_foldl _ _ _ ?_).trans ?_)
                 | (refine (kept_foldl_snd _ _ _ ?_).trans ?_) | intro _ | (with_reducible rfl))
@[simp] theorem newKey_kept (a0) : (newKey a0).2.kept = a0.kept := rfl
@[simp] theorem zeroLocal_kept (a0) (a1) : (zeroLocal a0 a1).kept = a0.kept := rfl
@[simp] theorem zeroCommons_kept (a0) (a1) : (zeroCommons a0 a1).kept = a0.kept := rfl
@[simp] theorem endPartition_kept (a0) (a1) : (endPartition a0 a1).kept = a0.kept := by
  unfold endPartition
  try dsimp only
  repeat' (first | assumption | (simp; done) | (with_reducible refine kept_ite ?_ ?_) | split | (refine (kept_foldl _ _ _ ?_).trans ?_)
                 | (refine (kept_foldl_snd _ _ _ ?_).trans ?_) | intro _ | (with_reducible rfl))
@[simp] theorem clearDies_kept (a0) (a1) : (clearDies a0 a1).kept = a0.kept := by
  unfold clearDies
  try dsimp only
  repeat' (first | assumption | (simp; done) | (with_reducible refine kept_ite ?_ ?_) | split | (refine (kept_foldl _ _ _ ?_).trans ?_)
                 | (refine (kept_foldl_snd _ _ _ ?_).trans ?_) | intro _ | (with_reducible rfl))
@[simp] theorem rekey_kept (a0) (a1) : (rekey a0 a1).2.kept = a0.kept := rfl
@[simp] theorem dropFunctions_kept (a0) (a1) : (dropFunctions a0 a1).kept = a0.kept := rfl
@[simp] theorem destroyPart_kept (a0) (a1) : (destroyPart a0 a1).kept = a0.kept := by unfold destroyPart; simp
@[simp] theorem applyPart_kept (a0) (a1) (a2) : (applyPart a0 a1 a2).kept = a0.kept := by
  unfold applyPart
  try dsimp only
  repeat' (first | assumption | (simp; done) | (with_reducible refine kept_ite ?_ ?_) | split | (refine (kept_foldl _ _ _ ?_).trans ?_)
                 | (refine (kept_foldl_snd _ _ _ ?_).trans ?_) | intro _ | (with_reducible rfl))
@[simp] theorem cfgDone_kept (a0) (a1) (a2) : (cfgDone a0 a1 a2).kept = a0.kept := by unfold cfgDone; simp
@[simp] theorem writePart_kept (a0) (a1) (a2) (a3) (a4) : (writePart a0 a1 a2 a3 a4).kept = a4.kept := by
  unfold writePart
  simp [apply_ite State.kept, apply_ite Prod.snd]
@[simp] theorem writeCtr_kept (a0) (a1) (a2) (a3) : (writeCtr a0 a1 a2 a3).kept = a3.kept := by unfold writeCtr; simp
@[simp] theorem writeSlot_kept (a0) (a1) (a2) (a3) : (writeSlot a0 a1 a2 a3).kept = a3.kept := by unfold writeSlot; simp
@[simp] theorem writePlace_kept (a0) (a1) (a2) (a3) : (writePlace a0 a1 a2 a3).kept = a3.kept := by
  unfold writePlace
  try dsimp only
  repeat' (first | assumption | (simp; done) | (with_reducible refine kept_ite ?_ ?_) | split | (refine (kept_foldl _ _ _ ?_).trans ?_)
                 | (refine (kept_foldl_snd _ _ _ ?_).trans ?_) | intro _ | (with_reducible rfl))
@[simp] theorem cfgWriteAct_kept (a0) (a1) (a2) : (cfgWriteAct a0 a1 a2).kept = a2.kept := by
  unfold cfgWriteAct
  try dsimp only
  repeat' (first | assumption | (simp; done) | (with_reducible refine kept_ite ?_ ?_) | split | (refine (kept_foldl _ _ _ ?_).trans ?_)
                 | (refine (kept_foldl_snd _ _ _ ?_).trans ?_) | intro _ | (with_reducible rfl))
@[simp] theorem cfgReadAct_kept (a0) (a1) : (cfgReadAct a0 a1).kept = a1.kept := by
  unfold cfgReadAct
  simp [apply_ite State.kept, apply_ite Prod.snd]
@[simp] theorem loseContexts_kept (a0) (a1) : (loseContexts a0 a1).kept = a0.kept := by
  unfold loseContexts
  try dsimp only
  repeat' (first | assumption | (simp; done) | (with_reducible refine kept_ite ?_ ?_) | split | (refine (kept_foldl _ _ _ ?_).trans ?_)
                 | (refine (kept_foldl_snd _ _ _ ?_).trans ?_) | intro _ | (with_reducible rfl))
@[simp] theorem capLose_kept (a0) (a1) : (capLose a0 a1).kept = a0.kept := by
  unfold capLose; dsimp only; rw [disputeCheck_kept, settleRecord_kept, kept_foldl _ _ _ (by simp), apply_ite State.kept,
    kept_foldl _ _ _ (by simp), kept_foldl _ _ _ (by simp)]; simp
@[simp] theorem capacityLossOp_kept (a0) (a1) : (capacityLossOp a0 a1).kept = a0.kept := by
  unfold capacityLossOp
  try dsimp only
  repeat' (first | assumption | (simp; done) | (with_reducible refine kept_ite ?_ ?_) | split | (refine (kept_foldl _ _ _ ?_).trans ?_)
                 | (refine (kept_foldl_snd _ _ _ ?_).trans ?_) | intro _ | (with_reducible rfl))
@[simp] theorem giveUp_kept (a0) (a1) : (giveUp a0 a1).kept = a0.kept := by
  unfold giveUp
  simp [apply_ite State.kept, apply_ite Prod.snd]
@[simp] theorem fenceUnit_kept (a0) (a1) : (fenceUnit a0 a1).kept = a0.kept := by
  unfold fenceUnit
  simp [apply_ite State.kept, apply_ite Prod.snd]
@[simp] theorem bridgeFault_kept (a0) (a1) : (bridgeFault a0 a1).kept = a0.kept := by
  unfold bridgeFault
  simp [apply_ite State.kept, apply_ite Prod.snd]
@[simp] theorem recordReport_kept (a0) (a1) : (recordReport a0 a1).kept = a0.kept := by
  unfold recordReport
  simp [apply_ite State.kept, apply_ite Prod.snd]
@[simp] theorem cancelTouched_kept (a0) (a1) (a2) : (cancelTouched a0 a1 a2).kept = a0.kept := by
  unfold cancelTouched
  try dsimp only
  repeat' (first | assumption | (simp; done) | (with_reducible refine kept_ite ?_ ?_) | split | (refine (kept_foldl _ _ _ ?_).trans ?_)
                 | (refine (kept_foldl_snd _ _ _ ?_).trans ?_) | intro _ | (with_reducible rfl))
@[simp] theorem containReport_kept (a0) (a1) (a2) : (containReport a0 a1 a2).kept = a0.kept := by
  unfold containReport
  simp [apply_ite State.kept, apply_ite Prod.snd]
@[simp] theorem endReported_kept (a0) (a1) : (endReported a0 a1).kept = a0.kept := by
  unfold endReported
  try dsimp only
  repeat' (first | assumption | (simp; done) | (with_reducible refine kept_ite ?_ ?_) | split | (refine (kept_foldl _ _ _ ?_).trans ?_)
                 | (refine (kept_foldl_snd _ _ _ ?_).trans ?_) | intro _ | (with_reducible rfl))
@[simp] theorem faultReportOp_kept (a0) (a1) : (faultReportOp a0 a1).kept = a0.kept := by
  unfold faultReportOp
  simp [apply_ite State.kept, apply_ite Prod.snd]
@[simp] theorem closeAll_kept (a0) (a1) : (closeAll a0 a1).kept = a0.kept := rfl
@[simp] theorem reenter_kept (a0) (a1) : (reenter a0 a1).kept = a0.kept := by
  unfold reenter
  try dsimp only
  repeat' (first | assumption | (simp; done) | (with_reducible refine kept_ite ?_ ?_) | split | (refine (kept_foldl _ _ _ ?_).trans ?_)
                 | (refine (kept_foldl_snd _ _ _ ?_).trans ?_) | intro _ | (with_reducible rfl))
@[simp] theorem changeUnit_kept (a0) (a1) (a2) : (changeUnit a0 a1 a2).kept = a0.kept := by
  unfold changeUnit
  try dsimp only
  repeat' (first | assumption | (simp; done) | (with_reducible refine kept_ite ?_ ?_) | split | (refine (kept_foldl _ _ _ ?_).trans ?_)
                 | (refine (kept_foldl_snd _ _ _ ?_).trans ?_) | intro _ | (with_reducible rfl))
@[simp] theorem unfence_kept (a0) (a1) : (unfence a0 a1).kept = a0.kept := by
  unfold unfence
  try dsimp only
  repeat' (first | assumption | (simp; done) | (with_reducible refine kept_ite ?_ ?_) | split | (refine (kept_foldl _ _ _ ?_).trans ?_)
                 | (refine (kept_foldl_snd _ _ _ ?_).trans ?_) | intro _ | (with_reducible rfl))
@[simp] theorem substitute_kept (a0) (a1) : (substitute a0 a1).kept = a0.kept := by
  unfold substitute
  try dsimp only
  repeat' (first | assumption | (simp; done) | (with_reducible refine kept_ite ?_ ?_) | split | (refine (kept_foldl _ _ _ ?_).trans ?_)
                 | (refine (kept_foldl_snd _ _ _ ?_).trans ?_) | intro _ | (with_reducible rfl))
@[simp] theorem mismatch_kept (a0) (a1) : (mismatch a0 a1).kept = a0.kept := by
  unfold mismatch
  simp [apply_ite State.kept, apply_ite Prod.snd]
@[simp] theorem resetCore_kept (a0) (a1) : (resetCore a0 a1).kept = a0.kept := by
  unfold resetCore
  try dsimp only
  repeat' (first | assumption | (simp; done) | (with_reducible refine kept_ite ?_ ?_) | split | (refine (kept_foldl _ _ _ ?_).trans ?_)
                 | (refine (kept_foldl_snd _ _ _ ?_).trans ?_) | intro _ | (with_reducible rfl))
@[simp] theorem resetRouter_kept (a0) (a1) : (resetRouter a0 a1).kept = a0.kept := by
  unfold resetRouter
  try dsimp only
  repeat' (first | assumption | (simp; done) | (with_reducible refine kept_ite ?_ ?_) | split | (refine (kept_foldl _ _ _ ?_).trans ?_)
                 | (refine (kept_foldl_snd _ _ _ ?_).trans ?_) | intro _ | (with_reducible rfl))
@[simp] theorem resetUnit_kept (a0) (a1) : (resetUnit a0 a1).kept = a0.kept := by
  unfold resetUnit
  try dsimp only
  repeat' (first | assumption | (simp; done) | (with_reducible refine kept_ite ?_ ?_) | split | (refine (kept_foldl _ _ _ ?_).trans ?_)
                 | (refine (kept_foldl_snd _ _ _ ?_).trans ?_) | intro _ | (with_reducible rfl))
@[simp] theorem applySet_kept (a0) (a1) (a2) : (applySet a0 a1 a2).kept = a0.kept := by unfold applySet; simp [apply_ite State.kept]
@[simp] theorem unitSetOp_kept (a0) (a1) (a2) (a3) : (unitSetOp a0 a1 a2 a3).kept = a0.kept := by
  unfold unitSetOp
  try dsimp only
  repeat' (first | assumption | (simp; done) | (with_reducible refine kept_ite ?_ ?_) | split | (refine (kept_foldl _ _ _ ?_).trans ?_)
                 | (refine (kept_foldl_snd _ _ _ ?_).trans ?_) | intro _ | (with_reducible rfl))
@[simp] theorem settleSets_kept (a0) : (settleSets a0).kept = a0.kept := by
  unfold settleSets
  try dsimp only
  repeat' (first | assumption | (simp; done) | (with_reducible refine kept_ite ?_ ?_) | split | (refine (kept_foldl _ _ _ ?_).trans ?_)
                 | (refine (kept_foldl_snd _ _ _ ?_).trans ?_) | intro _ | (with_reducible rfl))
@[simp] theorem unitReconcileOp_kept (a0) (a1) (a2) (a3) : (unitReconcileOp a0 a1 a2 a3).kept = a0.kept := by
  unfold unitReconcileOp
  simp [apply_ite State.kept, apply_ite Prod.snd]
@[simp] theorem policyOp_kept (a0) (a1) : (policyOp a0 a1).kept = a0.kept := by unfold policyOp; simp
@[simp] theorem rotateKeys_kept (a0) (a1) : (rotateKeys a0 a1).kept = a0.kept := by
  unfold rotateKeys
  try dsimp only
  repeat' (first | assumption | (simp; done) | (with_reducible refine kept_ite ?_ ?_) | split | (refine (kept_foldl _ _ _ ?_).trans ?_)
                 | (refine (kept_foldl_snd _ _ _ ?_).trans ?_) | intro _ | (with_reducible rfl))
@[simp] theorem hpkeWrite_kept (a0) (a1) (a2) (a3) : (hpkeWrite a0 a1 a2 a3).kept = a1.kept := by
  unfold hpkeWrite
  simp [apply_ite State.kept, apply_ite Prod.snd]
@[simp] theorem leaveRun_kept (a0) (a1) (a2) : (leaveRun a0 a1 a2).kept = a0.kept := by
  unfold leaveRun
  try dsimp only
  repeat' (first | assumption | (simp; done) | (with_reducible refine kept_ite ?_ ?_) | split | (refine (kept_foldl _ _ _ ?_).trans ?_)
                 | (refine (kept_foldl_snd _ _ _ ?_).trans ?_) | intro _ | (with_reducible rfl))
@[simp] theorem enterRun_kept (a0) (a1) : (enterRun a0 a1).kept = a0.kept := by
  unfold enterRun
  try dsimp only
  repeat' (first | assumption | (simp; done) | (with_reducible refine kept_ite ?_ ?_) | split | (refine (kept_foldl _ _ _ ?_).trans ?_)
                 | (refine (kept_foldl_snd _ _ _ ?_).trans ?_) | intro _ | (with_reducible rfl))
@[simp] theorem tdispOp_kept (a0) (a1) (a2) : (tdispOp a0 a1 a2).kept = a0.kept := by
  unfold tdispOp
  try dsimp only
  repeat' (first | assumption | (simp; done) | (with_reducible refine kept_ite ?_ ?_) | split | (refine (kept_foldl _ _ _ ?_).trans ?_)
                 | (refine (kept_foldl_snd _ _ _ ?_).trans ?_) | intro _ | (with_reducible rfl))
@[simp] theorem spdmAnswer_kept (a0) (a1) (a2) (a3) : (spdmAnswer a0 a1 a2 a3).kept = a0.kept := rfl
@[simp] theorem drawAct_kept (a0) (a1) (a2) (h : ∀ s, (a1 s).kept = s.kept) : (drawAct a0 a1 a2).kept = a2.kept := by
  unfold drawAct; exact kept_ite (by simp) (h _)
@[simp] theorem digestsAct_kept (a0) (a1) : (digestsAct a0 a1).kept = a1.kept := by
  unfold digestsAct
  try dsimp only
  repeat' (first | assumption | (simp; done) | (with_reducible refine kept_ite ?_ ?_) | split | (refine (kept_foldl _ _ _ ?_).trans ?_)
                 | (refine (kept_foldl_snd _ _ _ ?_).trans ?_) | intro _ | (with_reducible rfl))
@[simp] theorem certificateAct_kept (a0) (a1) (a2) : (certificateAct a0 a1 a2).kept = a2.kept := by
  unfold certificateAct
  try dsimp only
  repeat' (first | assumption | (simp; done) | (with_reducible refine kept_ite ?_ ?_) | split | (refine (kept_foldl _ _ _ ?_).trans ?_)
                 | (refine (kept_foldl_snd _ _ _ ?_).trans ?_) | intro _ | (with_reducible rfl))
@[simp] theorem drawNonce_kept (a0) (a1) : (drawNonce a0 a1).2.kept = a1.kept := by unfold drawNonce; dsimp only; exact kept_ite rfl rfl
@[simp] theorem challengeAct_kept (a0) (a1) (a2) : (challengeAct a0 a1 a2).kept = a2.kept := by unfold challengeAct; simp
@[simp] theorem getMeasurementsAct_kept (a0) (a1) (a2) (a3) : (getMeasurementsAct a0 a1 a2 a3).kept = a3.kept := by unfold getMeasurementsAct; simp
@[simp] theorem keyExchangeAct_kept (a0) (a1) (a2) : (keyExchangeAct a0 a1 a2).kept = a2.kept := by unfold keyExchangeAct; simp
@[simp] theorem finishSessionAct_kept (a0) (a1) (a2) : (finishSessionAct a0 a1 a2).kept = a2.kept := by
  unfold finishSessionAct
  try dsimp only
  repeat' (first | assumption | (simp; done) | (with_reducible refine kept_ite ?_ ?_) | split | (refine (kept_foldl _ _ _ ?_).trans ?_)
                 | (refine (kept_foldl_snd _ _ _ ?_).trans ?_) | intro _ | (with_reducible rfl))
@[simp] theorem endSessionAct_kept (a0) (a1) : (endSessionAct a0 a1).kept = a1.kept := by
  unfold endSessionAct
  try dsimp only
  repeat' (first | assumption | (simp; done) | (with_reducible refine kept_ite ?_ ?_) | split | (refine (kept_foldl _ _ _ ?_).trans ?_)
                 | (refine (kept_foldl_snd _ _ _ ?_).trans ?_) | intro _ | (with_reducible rfl))
@[simp] theorem pqSignAct_kept (a0) (a1) (a2) : (pqSignAct a0 a1 a2).kept = a2.kept := by
  unfold pqSignAct
  try dsimp only
  repeat' (first | assumption | (simp; done) | (with_reducible refine kept_ite ?_ ?_) | split | (refine (kept_foldl _ _ _ ?_).trans ?_)
                 | (refine (kept_foldl_snd _ _ _ ?_).trans ?_) | intro _ | (with_reducible rfl))
@[simp] theorem zeroise_kept (a0) : (zeroise a0).kept = a0.kept := by
  unfold zeroise
  try dsimp only
  repeat' (first | assumption | (simp; done) | (with_reducible refine kept_ite ?_ ?_) | split | (refine (kept_foldl _ _ _ ?_).trans ?_)
                 | (refine (kept_foldl_snd _ _ _ ?_).trans ?_) | intro _ | (with_reducible rfl))
@[simp] theorem debugOp_kept (a0) (a1) : (debugOp a0 a1).kept = a0.kept := by
  unfold debugOp
  simp [apply_ite State.kept, apply_ite Prod.snd]
@[simp] theorem lifecycleOp_kept (a0) (a1) (a2) : (lifecycleOp a0 a1 a2).kept = a0.kept := by
  unfold lifecycleOp
  simp [apply_ite State.kept, apply_ite Prod.snd]
@[simp] theorem firmwareAct_kept (a0) (a1) : (firmwareAct a0 a1).kept = a1.kept := by
  unfold firmwareAct
  simp [apply_ite State.kept, apply_ite Prod.snd]
@[simp] theorem activateAct_kept (a0) (a1) : (activateAct a0 a1).kept = a1.kept := rfl
@[simp] theorem mctpAct_kept (a0) (a1) : (mctpAct a0 a1).kept = a1.kept := by
  unfold mctpAct
  try dsimp only
  repeat' (first | assumption | (simp; done) | (with_reducible refine kept_ite ?_ ?_) | split | (refine (kept_foldl _ _ _ ?_).trans ?_)
                 | (refine (kept_foldl_snd _ _ _ ?_).trans ?_) | intro _ | (with_reducible rfl))
@[simp] theorem nvStoreAct_kept (a0) : (nvStoreAct a0).kept = a0.kept := by
  unfold nvStoreAct
  simp [apply_ite State.kept, apply_ite Prod.snd]
@[simp] theorem capOp_kept (a0) (a1) : (capOp a0 a1).kept = a0.kept := rfl
@[simp] theorem dieCtlOp_kept (a0) (a1) (a2) : (dieCtlOp a0 a1 a2).kept = a0.kept := rfl
@[simp] theorem runHeld_kept (a0) (a1) : (runHeld a0 a1).kept = a0.kept := by
  unfold runHeld
  try dsimp only
  repeat' (first | assumption | (simp; done) | (with_reducible refine kept_ite ?_ ?_) | split | (refine (kept_foldl _ _ _ ?_).trans ?_)
                 | (refine (kept_foldl_snd _ _ _ ?_).trans ?_) | intro _ | (with_reducible rfl))
@[simp] theorem refuseHeld_kept (a0) (a1) : (refuseHeld a0 a1).kept = a0.kept := by
  unfold refuseHeld
  try dsimp only
  repeat' (first | assumption | (simp; done) | (with_reducible refine kept_ite ?_ ?_) | split | (refine (kept_foldl _ _ _ ?_).trans ?_)
                 | (refine (kept_foldl_snd _ _ _ ?_).trans ?_) | intro _ | (with_reducible rfl))
@[simp] theorem lockstepOp_kept (a0) (a1) : (lockstepOp a0 a1).kept = a0.kept := by
  unfold lockstepOp
  try dsimp only
  repeat' (first | assumption | (simp; done) | (with_reducible refine kept_ite ?_ ?_) | split | (refine (kept_foldl _ _ _ ?_).trans ?_)
                 | (refine (kept_foldl_snd _ _ _ ?_).trans ?_) | intro _ | (with_reducible rfl))
@[simp] theorem wiped_kept (a0) (a1) : (wiped a0 a1).kept = a0.kept := rfl
@[simp] theorem withRemaps_kept (a0) (a1) : (withRemaps a0 a1).kept = a1.kept := by
  unfold withRemaps
  try dsimp only
  repeat' (first | assumption | (simp; done) | (with_reducible refine kept_ite ?_ ?_) | split | (refine (kept_foldl _ _ _ ?_).trans ?_)
                 | (refine (kept_foldl_snd _ _ _ ?_).trans ?_) | intro _ | (with_reducible rfl))
@[simp] theorem forceDelete_kept (a0) (a1) : (forceDelete a0 a1).kept = a0.kept := by unfold forceDelete; simp
@[simp] theorem resetQueues_kept (a0) (a1) : (resetQueues a0 a1).kept = a0.kept := by
  unfold resetQueues
  try dsimp only
  repeat' (first | rfl | assumption | (simp; done) | split | (refine (kept_foldl _ _ _ ?_).trans ?_) | intro _ | simp)
@[simp] theorem bootFirmware_kept (a0) : (bootFirmware a0).kept = a0.kept := by
  unfold bootFirmware
  try dsimp only
  repeat' (first | assumption | (simp; done) | (with_reducible refine kept_ite ?_ ?_) | split | (refine (kept_foldl _ _ _ ?_).trans ?_)
                 | (refine (kept_foldl_snd _ _ _ ?_).trans ?_) | intro _ | (with_reducible rfl))
@[simp] theorem bootLoad_kept (a0) (a1) : (bootLoad a0 a1).kept = a0.kept := by
  unfold bootLoad
  try dsimp only
  repeat' (first | assumption | (simp; done) | (with_reducible refine kept_ite ?_ ?_) | split | (refine (kept_foldl _ _ _ ?_).trans ?_)
                 | (refine (kept_foldl_snd _ _ _ ?_).trans ?_) | intro _ | (with_reducible rfl))
@[simp] theorem bootLost_kept (a0) (a1) : (bootLost a0 a1).kept = a0.kept := by unfold bootLost; simp
@[simp] theorem bootSpare_kept (a0) (a1) : (bootSpare a0 a1).kept = a0.kept := by
  unfold bootSpare
  try dsimp only
  repeat' (first | assumption | (simp; done) | (with_reducible refine kept_ite ?_ ?_) | split | (refine (kept_foldl _ _ _ ?_).trans ?_)
                 | (refine (kept_foldl_snd _ _ _ ?_).trans ?_) | intro _ | (with_reducible rfl))
@[simp] theorem bootRepair_kept (a0) : (bootRepair a0).kept = a0.kept := by
  unfold bootRepair
  try dsimp only
  repeat' (first | assumption | (simp; done) | (with_reducible refine kept_ite ?_ ?_) | split | (refine (kept_foldl _ _ _ ?_).trans ?_)
                 | (refine (kept_foldl_snd _ _ _ ?_).trans ?_) | intro _ | (with_reducible rfl))
@[simp] theorem bootParts_kept (a0) : (bootParts a0).kept = a0.kept := by
  unfold bootParts
  try dsimp only
  repeat' (first | assumption | (simp; done) | (with_reducible refine kept_ite ?_ ?_) | split | (refine (kept_foldl _ _ _ ?_).trans ?_)
                 | (refine (kept_foldl_snd _ _ _ ?_).trans ?_) | intro _ | (with_reducible rfl))
@[simp] theorem onPart_kept (a0) (a1) (a2) : (onPart a0 a1 a2).kept = a0.kept := by
  unfold onPart
  try dsimp only
  repeat' (first | assumption | (simp; done) | (with_reducible refine kept_ite ?_ ?_) | split | (refine (kept_foldl _ _ _ ?_).trans ?_)
                 | (refine (kept_foldl_snd _ _ _ ?_).trans ?_) | intro _ | (with_reducible rfl))
@[simp] theorem snowCfgOp_kept (a0) (a1) (a2) (a3) : (snowCfgOp a0 a1 a2 a3).kept = a0.kept := by unfold snowCfgOp; simp
@[simp] theorem snowStatOp_kept (a0) (a1) (a2) (a3) : (snowStatOp a0 a1 a2 a3).kept = a0.kept := by
  unfold snowStatOp
  simp [apply_ite State.kept, apply_ite Prod.snd]
@[simp] theorem measOp_kept (a0) (a1) (a2) : (measOp a0 a1 a2).kept = a0.kept := by
  unfold measOp
  try dsimp only
  repeat' (first | assumption | (simp; done) | (with_reducible refine kept_ite ?_ ?_) | split | (refine (kept_foldl _ _ _ ?_).trans ?_)
                 | (refine (kept_foldl_snd _ _ _ ?_).trans ?_) | intro _ | (with_reducible rfl))
@[simp] theorem partWrite_kept (a0) (a1) (a2) (a3) : (partWrite a0 a1 a2 a3).kept = a0.kept := by
  unfold partWrite
  try dsimp only
  repeat' (first | assumption | (simp; done) | (with_reducible refine kept_ite ?_ ?_) | split | (refine (kept_foldl _ _ _ ?_).trans ?_)
                 | (refine (kept_foldl_snd _ _ _ ?_).trans ?_) | intro _ | (with_reducible rfl))
@[simp] theorem memRegWrite_kept (a0) (a1) (a2) : (memRegWrite a0 a1 a2).kept = a0.kept := by
  unfold memRegWrite
  simp [apply_ite State.kept, apply_ite Prod.snd]
@[simp] theorem ctlCmd_kept (a0) (a1) : (ctlCmd a0 a1).kept = a0.kept := by
  unfold ctlCmd
  simp [apply_ite State.kept]
@[simp] theorem unitCmdWrite_kept (a0) (a1) (a2) : (unitCmdWrite a0 a1 a2).kept = a0.kept := by
  unfold unitCmdWrite
  try dsimp only
  repeat' (first | assumption | (simp; done) | (with_reducible refine kept_ite ?_ ?_) | split | (refine (kept_foldl _ _ _ ?_).trans ?_)
                 | (refine (kept_foldl_snd _ _ _ ?_).trans ?_) | intro _ | (with_reducible rfl))
@[simp] theorem aqSizeOp_kept (a0) (a1) (a2) : (aqSizeOp a0 a1 a2).kept = a0.kept := by
  unfold aqSizeOp
  simp [apply_ite State.kept, apply_ite Prod.snd]
@[simp] theorem pfWrite_kept (a0) (a1) (a2) (a3) : (pfWrite a0 a1 a2 a3).kept = a0.kept := by
  unfold pfWrite
  simp [apply_ite State.kept, apply_ite Prod.snd]
@[simp] theorem fnWrite_kept (a0) (a1) (a2) (a3) : (fnWrite a0 a1 a2 a3).kept = a0.kept := by
  unfold fnWrite
  try dsimp only
  repeat' (first | rfl | assumption | (simp; done) | split | (refine (kept_foldl _ _ _ ?_).trans ?_) | intro _ | simp)
@[simp] theorem errWrite_kept (a0) (a1) (a2) : (errWrite a0 a1 a2).kept = a0.kept := by
  unfold errWrite
  simp [apply_ite State.kept, apply_ite Prod.snd]
@[simp] theorem secWrite_kept (a0) (a1) (a2) (a3) : (secWrite a0 a1 a2 a3).kept = a0.kept := by
  unfold secWrite
  simp [apply_ite State.kept, apply_ite Prod.snd]
@[simp] theorem bar0Write_kept (a0) (a1) (a2) (a3) : (bar0Write a0 a1 a2 a3).kept = a0.kept := by
  unfold bar0Write
  try dsimp only
  repeat' (first | assumption | (simp; done) | (with_reducible refine kept_ite ?_ ?_) | split | (refine (kept_foldl _ _ _ ?_).trans ?_)
                 | (refine (kept_foldl_snd _ _ _ ?_).trans ?_) | intro _ | (with_reducible rfl))
@[simp] theorem finishOp_kept (a0) (a1) (a2) : (finishOp a0 a1 a2).kept = a0.kept := rfl
@[simp] theorem finishEmpty_kept (a0) (a1) (a2) : (finishEmpty a0 a1 a2).kept = a0.kept := by
  unfold finishEmpty
  try dsimp only
  repeat' (first | assumption | (simp; done) | (with_reducible refine kept_ite ?_ ?_) | split | (refine (kept_foldl _ _ _ ?_).trans ?_)
                 | (refine (kept_foldl_snd _ _ _ ?_).trans ?_) | intro _ | (with_reducible rfl))
@[simp] theorem sweepEmpty_kept (a0) (a1) (a2) : (sweepEmpty a0 a1 a2).kept = a1.kept := by
  fun_induction sweepEmpty <;> simp_all
@[simp] theorem fenceTile_kept (a0) (a1) (a2) (a3) (a4) : (fenceTile a0 a1 a2 a3 a4).kept = a0.kept := by
  unfold fenceTile
  try dsimp only
  repeat' (first | assumption | (simp; done) | (with_reducible refine kept_ite ?_ ?_) | split | (refine (kept_foldl _ _ _ ?_).trans ?_)
                 | (refine (kept_foldl_snd _ _ _ ?_).trans ?_) | intro _ | (with_reducible rfl))
@[simp] theorem cacheReads_kept (a0) (a1) (a2) (a3) : (cacheReads a0 a1 a2 a3).kept = a0.kept := by
  unfold cacheReads
  try dsimp only
  repeat' (first | assumption | (simp; done) | (with_reducible refine kept_ite ?_ ?_) | split | (refine (kept_foldl _ _ _ ?_).trans ?_)
                 | (refine (kept_foldl_snd _ _ _ ?_).trans ?_) | intro _ | (with_reducible rfl))
@[simp] theorem stepReads_kept (a0) (a1) (a2) (a3) (a4) (a5) : (stepReads a0 a1 a2 a3 a4 a5).kept = a0.kept := by
  unfold stepReads
  try dsimp only
  repeat' (first | assumption | (simp; done) | (with_reducible refine kept_ite ?_ ?_) | split | (refine (kept_foldl _ _ _ ?_).trans ?_)
                 | (refine (kept_foldl_snd _ _ _ ?_).trans ?_) | intro _ | (with_reducible rfl))
@[simp] theorem writeStep_kept (a0) (a1) (a2) (a3) (a4) : (writeStep a0 a1 a2 a3 a4).1.kept = a0.kept := by
  unfold writeStep
  try dsimp only
  repeat' (first | assumption | (simp; done) | (with_reducible refine kept_ite ?_ ?_) | split | (refine (kept_foldl _ _ _ ?_).trans ?_)
                 | (refine (kept_foldl_snd _ _ _ ?_).trans ?_) | intro _ | (with_reducible rfl))
@[simp] theorem lsError_kept (a0) (a1) (a2) (a3) : (lsError a0 a1 a2 a3).kept = a0.kept := by
  unfold lsError
  try dsimp only
  repeat' (first | assumption | (simp; done) | (with_reducible refine kept_ite ?_ ?_) | split | (refine (kept_foldl _ _ _ ?_).trans ?_)
                 | (refine (kept_foldl_snd _ _ _ ?_).trans ?_) | intro _ | (with_reducible rfl))
@[simp] theorem lsRead_kept (a0) (a1) (a2) (a3) : (lsRead a0 a1 a2 a3).1.kept = a0.kept := by
  unfold lsRead
  try dsimp only
  repeat' (first | assumption | (simp; done) | (with_reducible refine kept_ite ?_ ?_) | split | (refine (kept_foldl _ _ _ ?_).trans ?_)
                 | (refine (kept_foldl_snd _ _ _ ?_).trans ?_) | intro _ | (with_reducible rfl))
@[simp] theorem runTld_kept (a0) (a1) (a2) (a3) (a4) (a5) (a6) (a7) : (runTld a0 a1 a2 a3 a4 a5 a6 a7).kept = a0.kept := by
  unfold runTld
  simp [apply_ite State.kept, apply_ite Prod.snd]
@[simp] theorem runTldc_kept (a0) (a1) (a2) (a3) (a4) (a5) (a6) (a7) (a8) : (runTldc a0 a1 a2 a3 a4 a5 a6 a7 a8).kept = a0.kept := by
  unfold runTldc
  simp [apply_ite State.kept, apply_ite Prod.snd]
theorem tstRow_kept (a0) (a1) (a2) (a3) (a4) (a5) (a6 : State × MeOp) (a7) : (tstRow a0 a1 a2 a3 a4 a5 a6 a7).1.kept = a6.1.kept := by
  obtain ⟨s, o⟩ := a6
  unfold tstRow; dsimp only
  split <;> (try split) <;> simp [apply_ite State.kept]
@[simp] theorem tstRows_kept (a0) (a1) (a2) (a3) (a4) (a5) (a6) (a7) (a8) : (tstRows a0 a1 a2 a3 a4 a5 a6 a7 a8).1.kept = a0.kept := by
  unfold tstRows; dsimp only
  rw [stampUes_kept]
  generalize List.map _ _ = l
  generalize hp : (a0, a2) = p
  have h : ∀ (l : List Nat) (p : State × MeOp), (l.foldl (tstRow a3 a4 a5 a6 a7 a1) p).1.kept = p.1.kept := by
    intro l
    induction l with
    | nil => intro p; rfl
    | cons r l ih => intro p; rw [List.foldl_cons, ih, tstRow_kept]
  rw [h, ← hp]
@[simp] theorem runTst_kept (a0) (a1) (a2) (a3) (a4) (a5) (a6) (a7) : (runTst a0 a1 a2 a3 a4 a5 a6 a7).1.kept = a0.kept := by unfold runTst; simp
@[simp] theorem lsTick_kept (a0) (a1) : (lsTick a0 a1).kept = a0.kept := by
  unfold lsTick
  try dsimp only
  repeat' (first | assumption | (simp; done) | (with_reducible refine kept_ite ?_ ?_) | split | (refine (kept_foldl _ _ _ ?_).trans ?_)
                 | (refine (kept_foldl_snd _ _ _ ?_).trans ?_) | intro _ | (with_reducible rfl))
@[simp] theorem runSave_kept (a0) (a1) (a2) (a3) : (runSave a0 a1 a2 a3).kept = a0.kept := by
  unfold runSave
  try dsimp only
  repeat' (first | assumption | (simp; done) | (with_reducible refine kept_ite ?_ ?_) | split | (refine (kept_foldl _ _ _ ?_).trans ?_)
                 | (refine (kept_foldl_snd _ _ _ ?_).trans ?_) | intro _ | (with_reducible rfl))
@[simp] theorem lmReadFree_kept (a0) (a1) (a2) (a3) : (lmReadFree a0 a1 a2 a3).2.kept = a0.kept := by
  unfold lmReadFree
  try dsimp only
  repeat' (first | assumption | (simp; done) | (with_reducible refine kept_ite ?_ ?_) | split | (refine (kept_foldl _ _ _ ?_).trans ?_)
                 | (refine (kept_foldl_snd _ _ _ ?_).trans ?_) | intro _ | (with_reducible rfl))
@[simp] theorem restTile_kept (a0) (a1) (a2) (a3) (a4) (a5) : (restTile a0 a1 a2 a3 a4 a5).kept = a4.kept := by
  unfold restTile
  simp [apply_ite State.kept, apply_ite Prod.snd]
@[simp] theorem runRest_kept (a0) (a1) (a2) (a3) : (runRest a0 a1 a2 a3).kept = a0.kept := by
  unfold runRest
  try dsimp only
  repeat' (first | assumption | (simp; done) | (with_reducible refine kept_ite ?_ ?_) | split | (refine (kept_foldl _ _ _ ?_).trans ?_)
                 | (refine (kept_foldl_snd _ _ _ ?_).trans ?_) | intro _ | (with_reducible rfl))
@[simp] theorem runLs_kept (a0) (a1) (a2) : (runLs a0 a1 a2).1.kept = a0.kept := by
  unfold runLs
  try dsimp only
  repeat' (first | assumption | (simp; done) | (with_reducible refine kept_ite ?_ ?_) | split | (refine (kept_foldl _ _ _ ?_).trans ?_)
                 | (refine (kept_foldl_snd _ _ _ ?_).trans ?_) | intro _ | (with_reducible rfl))

@[simp] theorem coreTick_kept (a0) (a1) : (coreTick a0 a1).kept = a0.kept := by
  unfold coreTick
  try dsimp only
  repeat' (first | assumption | (simp; done) | (with_reducible refine kept_ite ?_ ?_) | split | (refine (kept_foldl _ _ _ ?_).trans ?_)
                 | (refine (kept_foldl_snd _ _ _ ?_).trans ?_) | intro _ | (with_reducible rfl))
@[simp] theorem tick_kept (a0) : (tick a0).kept = a0.kept := by
  unfold tick
  try dsimp only
  repeat' (first | assumption | (simp; done) | (with_reducible refine kept_ite ?_ ?_) | split | (refine (kept_foldl _ _ _ ?_).trans ?_)
                 | (refine (kept_foldl_snd _ _ _ ?_).trans ?_) | intro _ | (with_reducible rfl))

end Sys2Proof.Machine
end

