-- ==== Sys2Proof/Laws/Answers.lean ====
section
/-! SUPPORT. What every meaning answers: a next state with the same commands waiting and package time not run back. One lemma per shared
operation, then one per command. -/

namespace Sys2Proof.Machine

set_option linter.all false

/-- What every meaning answers: a next state that keeps the waiting commands and in which package time has not run back, or, for a command
whose core does not exist, the fault that says so. -/
def Answers (ok : Bool) (s : State) (r : Res) : Prop :=
  match r with
  | .next t => t.pending = s.pending ∧ s.time.toNat ≤ t.time.toNat
  | .fault f => f = .noSuchCore ∧ ok = false
  | .refused _ => False
/-- An instruction's answer at issue keeps the queue and package time. -/
def IssKept (s : State) (r : IssRes) : Prop :=
  match r with
  | .done t _ _ => t.kept = s.kept
  | .wait t _ => t.kept = s.kept
  | .faultAt t _ _ => t.kept = s.kept
  | _ => True
theorem State.kept_pending {s t : State} (h : t.kept = s.kept) : t.pending = s.pending := congrArg Prod.fst h
theorem State.kept_time {s t : State} (h : t.kept = s.kept) : t.time = s.time := congrArg Prod.snd h
theorem State.atTime_pending (s : State) (n : W64) : (s.atTime n).pending = s.pending := by
  unfold State.atTime; split <;> rfl
theorem State.atTime_time (s : State) (n : W64) : s.time.toNat ≤ (s.atTime n).time.toNat := by
  unfold State.atTime; split
  · exact Nat.le_of_lt ‹_›
  · exact Nat.le_refl _
theorem answers_kept {b : Bool} {s t : State} (h : t.kept = s.kept) : Answers b s (.next t) :=
  ⟨State.kept_pending h, Nat.le_of_eq (by rw [State.kept_time h])⟩
theorem answers_same {b : Bool} {s : State} : Answers b s (.next s) := answers_kept rfl
theorem answers_atTime {b : Bool} {s t : State} (n : W64) (h : t.kept = (s.atTime n).kept) : Answers b s (.next t) :=
  ⟨(State.kept_pending h).trans (s.atTime_pending n), by rw [State.kept_time h]; exact s.atTime_time n⟩
theorem answers_trans_time {b : Bool} {s : State} (n : W64) {r : Res} (h : Answers b (s.atTime n) r) : Answers b s r := by
  cases r with
  | next t => exact ⟨h.1.trans (s.atTime_pending n), Nat.le_trans (s.atTime_time n) h.2⟩
  | fault f => exact h
  | refused r => exact h
theorem answers_fault {s : State} : Answers false s (.fault .noSuchCore) := ⟨rfl, rfl⟩
theorem answers_ite {b : Bool} {s : State} {c : Prop} [Decidable c] {x y : Res} (hx : Answers b s x) (hy : Answers b s y) :
    Answers b s (if c then x else y) := by
  split <;> assumption
/-- A meaning that faults where its core does not exist. -/
theorem answers_core {c : CoreId} {s : State} {x : Res} (hx : Answers true s x) :
    Answers (isCore c) s (if !isCore c then .fault .noSuchCore else x) := by
  cases h : isCore c
  · exact answers_fault
  · exact hx
theorem issue_answers (s : State) (i : Site) (op : Nat) (ops : List Byte) (imm : W32) (body : Iss → IssRes)
    (h : ∀ x, x.s.kept = s.kept → IssKept s (body x)) : Answers (isCore i.core) s (issue s i op ops imm body) := by
  unfold issue
  refine answers_core ?_
  dsimp only
  refine answers_ite answers_same (answers_ite (answers_kept (by simp)) (answers_ite (answers_kept (kept_ite (by simp) rfl))
    (answers_ite (answers_kept (kept_ite (by simp) rfl)) (answers_ite answers_same ?_))))
  have hk := h { issCtx s i op imm with s := (fetchBytes s i.core (issCtx s i op imm).pc.toNat (issCtx s i op imm).len).2 }
    (fetchBytes_kept ..)
  revert hk
  generalize body _ = r
  intro hk
  cases r
  · exact answers_kept (kept_ite (by simp; exact hk) rfl)
  · exact answers_kept (by simp; exact hk)
  · exact answers_same
  · exact answers_kept (kept_ite (by simp) rfl)
  · exact answers_kept (kept_ite (by simp; exact hk) rfl)
theorem withOpsV_kept {s : State} (x : Iss) (e) (l) (d) (r) (body) (hx : x.s.kept = s.kept) (h : ∀ k vs ds, IssKept s (body k vs ds)) :
    IssKept s (withOpsV x e l d r body) := by
  unfold withOpsV; dsimp only
  generalize (e ++ List.flatMap (dstFaults x.k x.t) d ++ srcFaults x.k x.t r ++ _ : List (Nat × W64)) = fs
  split; · trivial
  split; · exact hx
  split; · exact hx
  exact h ..
theorem withOpsF_kept {s : State} (x : Iss) (e) (d) (r) (body) (hx : x.s.kept = s.kept) (h : ∀ k vs ds, IssKept s (body k vs ds)) :
    IssKept s (withOpsF x e d r body) := withOpsV_kept _ _ _ _ _ _ hx h
theorem withOps_kept {s : State} (x : Iss) (d) (r) (body) (hx : x.s.kept = s.kept) (h : ∀ k vs ds, IssKept s (body k vs ds)) :
    IssKept s (withOps x d r body) := withOpsF_kept _ _ _ _ _ hx h
theorem issKept_ite {s : State} {c : Prop} [Decidable c] {x y : IssRes} (hx : IssKept s x) (hy : IssKept s y) :
    IssKept s (if c then x else y) := by
  split <;> assumption
theorem onCore_answers (s : State) (c : CoreId) (f : State → State) (h : ∀ s, (f s).kept = s.kept ∨ ∃ n, (f s).kept = (s.atTime n).kept) :
    Answers (isCore c) s (onCore s c f) := by
  unfold onCore
  refine answers_core (answers_ite answers_same ?_)
  rcases h s with h | ⟨n, h⟩
  · exact answers_kept h
  · exact answers_atTime n h
theorem onMemory_answers (s : State) (id : Nat) (act : Packet → State → State) (h : ∀ p s, (act p s).kept = s.kept) :
    Answers true s (onMemory s id act) := by
  unfold onMemory
  refine answers_ite answers_same ?_
  split
  · exact answers_same
  · exact answers_ite (answers_kept (by simp)) (answers_kept (h _ _))
theorem onArrival_answers (s : State) (id : Nat) (act : Packet → CoreId → State → State) (h : ∀ p c s, (act p c s).kept = s.kept) :
    Answers true s (onArrival s id act) := by
  unfold onArrival
  refine answers_ite answers_same ?_
  split
  · exact answers_same
  · split
    · exact answers_ite (answers_kept (by simp)) (answers_kept (h _ _ _))
    · exact answers_same
theorem mgmtEntry_answers (self : Instr) (r : Requester) (act : State → State) (s : State)
    (h : ∀ s, (act s).kept = s.kept ∨ ∃ n, (act s).kept = (s.atTime n).kept) : Answers true s (mgmtEntry self r act s) := by
  unfold mgmtEntry
  refine answers_ite answers_same (answers_ite (answers_kept (by simp)) (answers_ite (answers_kept (by simp)) ?_))
  rcases h s with h | ⟨n, h⟩
  · exact answers_kept h
  · exact answers_atTime n h
theorem checkedEntry_kept (h : HostCmd) (u : Uses) (act : State → State) (s : State) (ha : ∀ s, (act s).kept = s.kept) :
    (checkedEntry h u act s).kept = s.kept := by
  unfold checkedEntry; repeat' (first | (simp; done) | exact ha _ | split)
theorem hostEntry_answers (self : Instr) (h : HostCmd) (u : Uses) (act : State → State) (s : State) (ha : ∀ s, (act s).kept = s.kept) :
    Answers true s (hostEntry self h u act s) := by
  unfold hostEntry; dsimp only
  refine answers_ite answers_same (answers_ite (answers_atTime h.now (by simp)) (answers_ite (answers_atTime h.now (by simp))
    (answers_atTime h.now ?_)))
  rw [checkedEntry_kept]
  · simp
  · intro s; refine kept_ite (by simp) (kept_ite (by simp) (kept_ite (by simp) (ha s)))
theorem ctlEntry_answers (self : Instr) (r : Requester) (act : State → State) (s : State) (ha : ∀ s, (act s).kept = s.kept) :
    Answers true s (ctlEntry self r act s) := by
  unfold ctlEntry
  exact answers_ite (answers_kept (by simp)) (answers_ite (answers_kept (by simp)) (answers_kept (ha s)))
theorem spdmPlain_answers (self : Instr) (r : Requester) (act : State → State) (s : State) (ha : ∀ s, (act s).kept = s.kept) :
    Answers true s (spdmPlain self r act s) := by
  unfold spdmPlain; exact answers_ite (ctlEntry_answers _ _ _ _ ha) answers_same
theorem spdmDraw_answers (self : Instr) (r : Requester) (act : State → State) (s : State) (ha : ∀ s, (act s).kept = s.kept) :
    Answers true s (spdmDraw self r act s) := by
  unfold spdmDraw; exact spdmPlain_answers _ _ _ _ (fun s => drawAct_kept _ _ s ha)
theorem firmwareEntry_answers (self : Instr) (act : State → State) (s : State) (ha : ∀ s, (act s).kept = s.kept) :
    Answers true s (firmwareEntry self act s) := by
  unfold firmwareEntry; exact answers_ite (ctlEntry_answers _ _ _ _ ha) answers_same
theorem scalarRes_kept {s : State} (x : Iss) (lat d srcs f) (hx : x.s.kept = s.kept) : IssKept s (scalarRes x lat d srcs f) := by
  unfold scalarRes
  exact withOps_kept _ _ _ _ hx (fun k vs ds => by simp [IssKept, hx])
theorem meIssue_kept {s : State} (x : Iss) (k fs kind) (hx : x.s.kept = s.kept) : IssKept s (meIssue x k fs kind) := by
  unfold meIssue; repeat' (first | trivial | (simp [IssKept, hx]; done) | split)
theorem fcIssue_kept {s : State} (x : Iss) (k fs kind) (hx : x.s.kept = s.kept) : IssKept s (fcIssue x k fs kind) := by
  unfold fcIssue; repeat' (first | trivial | (simp [IssKept, hx]; done) | split)
theorem transferIssue_kept {s : State} (x : Iss) (o1 o2 imm kind) (hx : x.s.kept = s.kept) : IssKept s (transferIssue x o1 o2 imm kind) := by
  unfold transferIssue; dsimp only; repeat' (first | trivial | exact meIssue_kept _ _ _ _ hx | (simp [IssKept, hx]; done) | split)
theorem mmaIssue_kept {s : State} (x : Iss) (o1 o2 o3 z) (hx : x.s.kept = s.kept) : IssKept s (mmaIssue x o1 o2 o3 z) := by
  unfold mmaIssue; repeat' (first | trivial | exact meIssue_kept _ _ _ _ hx | split)
theorem branchTo_kept {s : State} (t) (s') (ws) (hx : s'.kept = s.kept) : IssKept s (branchTo t s' ws) := by
  unfold branchTo; split <;> first | trivial | exact hx
theorem postStore_kept {s : State} (x : Iss) (k a bs cnt) (hx : x.s.kept = s.kept) : IssKept s (postStore x k a bs cnt) := by
  unfold postStore; dsimp only; repeat' (first | trivial | (simp [IssKept, hx]; done) | split)
theorem storeAt_kept {s : State} (x : Iss) (k a bs) (hx : x.s.kept = s.kept) : IssKept s (storeAt x k a bs) := by
  unfold storeAt; split
  · simp only [IssKept]; refine kept_ite ?_ ?_ <;> simp [hx]
  · exact postStore_kept _ _ _ _ _ hx
theorem routeSend_kept {s : State} (x : Iss) (k q ta) (hx : x.s.kept = s.kept) : IssKept s (routeSend x k q ta) := by
  unfold routeSend; dsimp only; split; · trivial
  split; · simp [IssKept, hx]
  have h := routeTable_kept (lmRead (x.s.setCore x.c k) x.c q.rowAddr (64 * q.rowLen)).2.2 x.c ta.toNat
  generalize routeTable (lmRead (x.s.setCore x.c k) x.c q.rowAddr (64 * q.rowLen)).2.2 x.c ta.toNat = r at h ⊢
  obtain ⟨l | r, s'⟩ := r
  · simp [IssKept, hx]
  · simp at h; simp [IssKept, h, hx]
theorem startFar_kept {s : State} (x : Iss) (a kind body) (hx : x.s.kept = s.kept) : IssKept s (blocking.startFar x a kind body) := by
  unfold blocking.startFar; split; · trivial
  simp [IssKept, hx]
theorem blocking_kept {s : State} (x : Iss) (a kind body done) (hx : x.s.kept = s.kept) (h : ∀ v, IssKept s (done v)) :
    IssKept s (blocking x a kind body done) := by
  unfold blocking; split
  · exact issKept_ite (issKept_ite hx (issKept_ite trivial (h _))) (startFar_kept _ _ _ _ hx)
  · exact startFar_kept _ _ _ _ hx
theorem sendOn_kept {s : State} (x : Iss) (a b c d e f) (hx : x.s.kept = s.kept) : IssKept s (sendOn x a b c d e f) := by
  unfold sendOn
  refine withOpsF_kept _ _ _ _ _ hx (fun k vs ds => ?_)
  refine issKept_ite hx (issKept_ite trivial ?_)
  simp [IssKept, hx]
theorem intOp_answers (s : State) (i op lat o1 o2 o3 f) : Answers (isCore i.core) s (intOp s i op lat o1 o2 o3 f) :=
  issue_answers _ _ _ _ _ _ (fun _ hx => scalarRes_kept _ _ _ _ _ hx)
theorem immOp_answers (s : State) (i op lat o1 o2 imm f) : Answers (isCore i.core) s (immOp s i op lat o1 o2 imm f) :=
  issue_answers _ _ _ _ _ _ (fun _ hx => scalarRes_kept _ _ _ _ _ hx)
theorem unOp_answers (s : State) (i op o1 o2 f) : Answers (isCore i.core) s (unOp s i op o1 o2 f) :=
  issue_answers _ _ _ _ _ _ (fun _ hx => scalarRes_kept _ _ _ _ _ hx)
theorem cmpOp_answers (s : State) (i op o1 o2 o3 f) : Answers (isCore i.core) s (cmpOp s i op o1 o2 o3 f) :=
  issue_answers _ _ _ _ _ _ (fun _ hx => scalarRes_kept _ _ _ _ _ hx)
theorem cmpImm_answers (s : State) (i op o1 o2 imm f) : Answers (isCore i.core) s (cmpImm s i op o1 o2 imm f) :=
  issue_answers _ _ _ _ _ _ (fun _ hx => scalarRes_kept _ _ _ _ _ hx)
theorem predOp_answers (s : State) (i op o1 srcs f) : Answers (isCore i.core) s (predOp s i op o1 srcs f) :=
  issue_answers _ _ _ _ _ _ (fun _ hx => hx)
theorem fracOp_answers (s : State) (i op lat o1 o2 o3 f d) : Answers (isCore i.core) s (fracOp s i op lat o1 o2 o3 f d) :=
  issue_answers _ _ _ _ _ _ (fun _ hx => withOps_kept _ _ _ _ hx (fun k vs ds => by simp [IssKept, hx]))
theorem vecIssue_answers (s : State) (i op lat ops o1 f) : Answers (isCore i.core) s (vecIssue s i op lat ops o1 f) := by
  unfold vecIssue
  refine issue_answers _ _ _ _ _ _ (fun x hx => ?_)
  dsimp only; repeat' (first | trivial | exact hx | (simp [IssKept, hx]; done) | refine withOps_kept _ _ _ _ hx (fun k vs ds => ?_) | split)
theorem laneOp_answers (s : State) (i op lat ty ops srcs f) : Answers (isCore i.core) s (laneOp s i op lat ty ops srcs f) := by
  unfold laneOp; exact vecIssue_answers ..
theorem plainOp_answers (s : State) (i op lat ty ops srcs f) : Answers (isCore i.core) s (plainOp s i op lat ty ops srcs f) := by
  unfold plainOp; exact laneOp_answers ..
theorem loadOp_answers (s : State) (i op sz sg o1 o2 imm) : Answers (isCore i.core) s (loadOp s i op sz sg o1 o2 imm) := by
  unfold loadOp
  refine issue_answers _ _ _ _ _ _ (fun x hx => ?_)
  dsimp only; repeat' (first | trivial | exact hx | (simp [IssKept, hx]; done) | refine withOpsF_kept _ _ _ _ _ hx (fun k vs ds => ?_)
                             | refine withOps_kept _ _ _ _ hx (fun k vs ds => ?_) | refine blocking_kept _ _ _ _ _ hx (fun v => ?_) | split)
theorem storeOp_answers (s : State) (i op sz o1 o2 imm) : Answers (isCore i.core) s (storeOp s i op sz o1 o2 imm) := by
  unfold storeOp
  refine issue_answers _ _ _ _ _ _ (fun x hx => ?_)
  dsimp only; repeat' (first | trivial | exact hx | exact storeAt_kept _ _ _ _ hx | (simp [IssKept, hx]; done)
                             | refine withOpsF_kept _ _ _ _ _ hx (fun k vs ds => ?_) | refine withOps_kept _ _ _ _ hx (fun k vs ds => ?_)
                             | refine blocking_kept _ _ _ _ _ hx (fun v => ?_) | split)
theorem atomicOp_answers (s : State) (i op code o1 o2 o3) : Answers (isCore i.core) s (atomicOp s i op code o1 o2 o3) := by
  unfold atomicOp
  refine issue_answers _ _ _ _ _ _ (fun x hx => ?_)
  dsimp only; repeat' (first | trivial | exact hx | (simp [IssKept, hx]; done) | refine withOpsF_kept _ _ _ _ _ hx (fun k vs ds => ?_)
                             | refine withOps_kept _ _ _ _ hx (fun k vs ds => ?_) | refine blocking_kept _ _ _ _ _ hx (fun v => ?_) | split)

/-! ## One lemma per command -/

theorem ringHead_kept' (s : State) (c r b) : (ringHead s c r b).2.kept = s.kept := by simp
theorem execNop_answers (a0) (a1) : Answers (isCore a0.core) a1 (execNop a0 a1) := by
  unfold execNop
  with_reducible refine issue_answers _ _ _ _ _ _ (fun x hx => ?_)
  exact hx
theorem execUndecodable_answers (a0) (a1) (a2) (a3) : Answers (isCore a0) a3 (execUndecodable a0 a1 a2 a3) := by
  unfold execUndecodable
  repeat' (first | with_reducible refine answers_core ?_ | with_reducible refine answers_ite ?_ ?_
                 | (refine answers_kept ?_; simp [apply_ite State.kept]; done))
theorem execAdd_answers (a0) (a1) (a2) (a3) (a4) : Answers (isCore a0.core) a4 (execAdd a0 a1 a2 a3 a4) := by
  unfold execAdd; with_reducible exact intOp_answers ..
theorem execSub_answers (a0) (a1) (a2) (a3) (a4) : Answers (isCore a0.core) a4 (execSub a0 a1 a2 a3 a4) := by
  unfold execSub; with_reducible exact intOp_answers ..
theorem execAnd_answers (a0) (a1) (a2) (a3) (a4) : Answers (isCore a0.core) a4 (execAnd a0 a1 a2 a3 a4) := by
  unfold execAnd; with_reducible exact intOp_answers ..
theorem execOr_answers (a0) (a1) (a2) (a3) (a4) : Answers (isCore a0.core) a4 (execOr a0 a1 a2 a3 a4) := by
  unfold execOr; with_reducible exact intOp_answers ..
theorem execXor_answers (a0) (a1) (a2) (a3) (a4) : Answers (isCore a0.core) a4 (execXor a0 a1 a2 a3 a4) := by
  unfold execXor; with_reducible exact intOp_answers ..
theorem execShl_answers (a0) (a1) (a2) (a3) (a4) : Answers (isCore a0.core) a4 (execShl a0 a1 a2 a3 a4) := by
  unfold execShl; with_reducible exact intOp_answers ..
theorem execShr_answers (a0) (a1) (a2) (a3) (a4) : Answers (isCore a0.core) a4 (execShr a0 a1 a2 a3 a4) := by
  unfold execShr; with_reducible exact intOp_answers ..
theorem execSar_answers (a0) (a1) (a2) (a3) (a4) : Answers (isCore a0.core) a4 (execSar a0 a1 a2 a3 a4) := by
  unfold execSar; with_reducible exact intOp_answers ..
theorem execMin_answers (a0) (a1) (a2) (a3) (a4) : Answers (isCore a0.core) a4 (execMin a0 a1 a2 a3 a4) := by
  unfold execMin; with_reducible exact intOp_answers ..
theorem execMax_answers (a0) (a1) (a2) (a3) (a4) : Answers (isCore a0.core) a4 (execMax a0 a1 a2 a3 a4) := by
  unfold execMax; with_reducible exact intOp_answers ..
theorem execMul_answers (a0) (a1) (a2) (a3) (a4) : Answers (isCore a0.core) a4 (execMul a0 a1 a2 a3 a4) := by
  unfold execMul; with_reducible exact intOp_answers ..
theorem execMulh_answers (a0) (a1) (a2) (a3) (a4) : Answers (isCore a0.core) a4 (execMulh a0 a1 a2 a3 a4) := by
  unfold execMulh; with_reducible exact intOp_answers ..
theorem execFmul_answers (a0) (a1) (a2) (a3) (a4) : Answers (isCore a0.core) a4 (execFmul a0 a1 a2 a3 a4) := by
  unfold execFmul; with_reducible exact fracOp_answers ..
theorem execFadd_answers (a0) (a1) (a2) (a3) (a4) : Answers (isCore a0.core) a4 (execFadd a0 a1 a2 a3 a4) := by
  unfold execFadd; with_reducible exact fracOp_answers ..
theorem execFsub_answers (a0) (a1) (a2) (a3) (a4) : Answers (isCore a0.core) a4 (execFsub a0 a1 a2 a3 a4) := by
  unfold execFsub; with_reducible exact fracOp_answers ..
theorem execAddi_answers (a0) (a1) (a2) (a3) (a4) : Answers (isCore a0.core) a4 (execAddi a0 a1 a2 a3 a4) := by
  unfold execAddi; with_reducible exact immOp_answers ..
theorem execAndi_answers (a0) (a1) (a2) (a3) (a4) : Answers (isCore a0.core) a4 (execAndi a0 a1 a2 a3 a4) := by
  unfold execAndi; with_reducible exact immOp_answers ..
theorem execOri_answers (a0) (a1) (a2) (a3) (a4) : Answers (isCore a0.core) a4 (execOri a0 a1 a2 a3 a4) := by
  unfold execOri; with_reducible exact immOp_answers ..
theorem execXori_answers (a0) (a1) (a2) (a3) (a4) : Answers (isCore a0.core) a4 (execXori a0 a1 a2 a3 a4) := by
  unfold execXori; with_reducible exact immOp_answers ..
theorem execShli_answers (a0) (a1) (a2) (a3) (a4) : Answers (isCore a0.core) a4 (execShli a0 a1 a2 a3 a4) := by
  unfold execShli; with_reducible exact immOp_answers ..
theorem execShri_answers (a0) (a1) (a2) (a3) (a4) : Answers (isCore a0.core) a4 (execShri a0 a1 a2 a3 a4) := by
  unfold execShri; with_reducible exact immOp_answers ..
theorem execSari_answers (a0) (a1) (a2) (a3) (a4) : Answers (isCore a0.core) a4 (execSari a0 a1 a2 a3 a4) := by
  unfold execSari; with_reducible exact immOp_answers ..
theorem execMuli_answers (a0) (a1) (a2) (a3) (a4) : Answers (isCore a0.core) a4 (execMuli a0 a1 a2 a3 a4) := by
  unfold execMuli; with_reducible exact immOp_answers ..
theorem execLi_answers (a0) (a1) (a2) (a3) : Answers (isCore a0.core) a3 (execLi a0 a1 a2 a3) := by
  unfold execLi
  with_reducible refine issue_answers _ _ _ _ _ _ (fun x hx => ?_)
  exact scalarRes_kept _ _ _ _ _ hx
theorem execLih_answers (a0) (a1) (a2) (a3) : Answers (isCore a0.core) a3 (execLih a0 a1 a2 a3) := by
  unfold execLih
  with_reducible refine issue_answers _ _ _ _ _ _ (fun x hx => ?_)
  exact scalarRes_kept _ _ _ _ _ hx
theorem execMov_answers (a0) (a1) (a2) (a3) : Answers (isCore a0.core) a3 (execMov a0 a1 a2 a3) := by
  unfold execMov; with_reducible exact unOp_answers ..
theorem execClz_answers (a0) (a1) (a2) (a3) : Answers (isCore a0.core) a3 (execClz a0 a1 a2 a3) := by
  unfold execClz; with_reducible exact unOp_answers ..
theorem execPopc_answers (a0) (a1) (a2) (a3) : Answers (isCore a0.core) a3 (execPopc a0 a1 a2 a3) := by
  unfold execPopc; with_reducible exact unOp_answers ..
theorem execCmpeq_answers (a0) (a1) (a2) (a3) (a4) : Answers (isCore a0.core) a4 (execCmpeq a0 a1 a2 a3 a4) := by
  unfold execCmpeq; with_reducible exact cmpOp_answers ..
theorem execCmpne_answers (a0) (a1) (a2) (a3) (a4) : Answers (isCore a0.core) a4 (execCmpne a0 a1 a2 a3 a4) := by
  unfold execCmpne; with_reducible exact cmpOp_answers ..
theorem execCmplt_answers (a0) (a1) (a2) (a3) (a4) : Answers (isCore a0.core) a4 (execCmplt a0 a1 a2 a3 a4) := by
  unfold execCmplt; with_reducible exact cmpOp_answers ..
theorem execCmpltu_answers (a0) (a1) (a2) (a3) (a4) : Answers (isCore a0.core) a4 (execCmpltu a0 a1 a2 a3 a4) := by
  unfold execCmpltu; with_reducible exact cmpOp_answers ..
theorem execCmple_answers (a0) (a1) (a2) (a3) (a4) : Answers (isCore a0.core) a4 (execCmple a0 a1 a2 a3 a4) := by
  unfold execCmple; with_reducible exact cmpOp_answers ..
theorem execCmpleu_answers (a0) (a1) (a2) (a3) (a4) : Answers (isCore a0.core) a4 (execCmpleu a0 a1 a2 a3 a4) := by
  unfold execCmpleu; with_reducible exact cmpOp_answers ..
theorem execCmpeqi_answers (a0) (a1) (a2) (a3) (a4) : Answers (isCore a0.core) a4 (execCmpeqi a0 a1 a2 a3 a4) := by
  unfold execCmpeqi; with_reducible exact cmpImm_answers ..
theorem execCmpnei_answers (a0) (a1) (a2) (a3) (a4) : Answers (isCore a0.core) a4 (execCmpnei a0 a1 a2 a3 a4) := by
  unfold execCmpnei; with_reducible exact cmpImm_answers ..
theorem execCmplti_answers (a0) (a1) (a2) (a3) (a4) : Answers (isCore a0.core) a4 (execCmplti a0 a1 a2 a3 a4) := by
  unfold execCmplti; with_reducible exact cmpImm_answers ..
theorem execCmpltui_answers (a0) (a1) (a2) (a3) (a4) : Answers (isCore a0.core) a4 (execCmpltui a0 a1 a2 a3 a4) := by
  unfold execCmpltui; with_reducible exact cmpImm_answers ..
theorem execCmplei_answers (a0) (a1) (a2) (a3) (a4) : Answers (isCore a0.core) a4 (execCmplei a0 a1 a2 a3 a4) := by
  unfold execCmplei; with_reducible exact cmpImm_answers ..
theorem execCmpleui_answers (a0) (a1) (a2) (a3) (a4) : Answers (isCore a0.core) a4 (execCmpleui a0 a1 a2 a3 a4) := by
  unfold execCmpleui; with_reducible exact cmpImm_answers ..
theorem execPand_answers (a0) (a1) (a2) (a3) (a4) : Answers (isCore a0.core) a4 (execPand a0 a1 a2 a3 a4) := by
  unfold execPand; with_reducible exact predOp_answers ..
theorem execPor_answers (a0) (a1) (a2) (a3) (a4) : Answers (isCore a0.core) a4 (execPor a0 a1 a2 a3 a4) := by
  unfold execPor; with_reducible exact predOp_answers ..
theorem execPxor_answers (a0) (a1) (a2) (a3) (a4) : Answers (isCore a0.core) a4 (execPxor a0 a1 a2 a3 a4) := by
  unfold execPxor; with_reducible exact predOp_answers ..
theorem execPnot_answers (a0) (a1) (a2) (a3) : Answers (isCore a0.core) a3 (execPnot a0 a1 a2 a3) := by
  unfold execPnot; with_reducible exact predOp_answers ..
theorem execBr_answers (a0) (a1) (a2) : Answers (isCore a0.core) a2 (execBr a0 a1 a2) := by
  unfold execBr
  with_reducible refine issue_answers _ _ _ _ _ _ (fun x hx => ?_)
  exact branchTo_kept _ _ _ hx
theorem execBrl_answers (a0) (a1) (a2) (a3) : Answers (isCore a0.core) a3 (execBrl a0 a1 a2 a3) := by
  unfold execBrl
  with_reducible refine issue_answers _ _ _ _ _ _ (fun x hx => ?_)
  repeat' (first | refine withOps_kept _ _ _ _ hx (fun k vs ds => ?_) | exact branchTo_kept _ _ _ hx)
theorem execJr_answers (a0) (a1) (a2) (a3) : Answers (isCore a0.core) a3 (execJr a0 a1 a2 a3) := by
  unfold execJr
  with_reducible refine issue_answers _ _ _ _ _ _ (fun x hx => ?_)
  repeat' (first | refine withOps_kept _ _ _ _ hx (fun k vs ds => ?_) | exact branchTo_kept _ _ _ hx)
theorem execLoop_answers (a0) (a1) (a2) (a3) (a4) : Answers (isCore a0.core) a4 (execLoop a0 a1 a2 a3 a4) := by
  unfold execLoop
  with_reducible refine issue_answers _ _ _ _ _ _ (fun x hx => ?_)
  repeat' (first | (simp [IssKept, hx]; done) | refine withOps_kept _ _ _ _ hx (fun k vs ds => ?_) | refine issKept_ite ?_ ?_)
theorem execLoopt_answers (a0) (a1) (a2) (a3) (a4) : Answers (isCore a0.core) a4 (execLoopt a0 a1 a2 a3 a4) := by
  unfold execLoopt
  with_reducible refine issue_answers _ _ _ _ _ _ (fun x hx => ?_)
  repeat' (first | (simp [IssKept, hx]; done) | refine withOps_kept _ _ _ _ hx (fun k vs ds => ?_) | refine issKept_ite ?_ ?_)
theorem execEndT_answers (a0) (a1) : Answers (isCore a0.core) a1 (execEndT a0 a1) := by
  unfold execEndT
  with_reducible refine issue_answers _ _ _ _ _ _ (fun x hx => ?_)
  exact hx
theorem execVadd_answers (a0) (a1) (a2) (a3) (a4) (a5) : Answers (isCore a0.core) a5 (execVadd a0 a1 a2 a3 a4 a5) := by
  unfold execVadd; with_reducible exact laneOp_answers ..
theorem execVsub_answers (a0) (a1) (a2) (a3) (a4) (a5) : Answers (isCore a0.core) a5 (execVsub a0 a1 a2 a3 a4 a5) := by
  unfold execVsub; with_reducible exact laneOp_answers ..
theorem execVmul_answers (a0) (a1) (a2) (a3) (a4) (a5) : Answers (isCore a0.core) a5 (execVmul a0 a1 a2 a3 a4 a5) := by
  unfold execVmul; with_reducible exact laneOp_answers ..
theorem execVfma_answers (a0) (a1) (a2) (a3) (a4) (a5) : Answers (isCore a0.core) a5 (execVfma a0 a1 a2 a3 a4 a5) := by
  unfold execVfma; with_reducible exact laneOp_answers ..
theorem execVmax_answers (a0) (a1) (a2) (a3) (a4) (a5) : Answers (isCore a0.core) a5 (execVmax a0 a1 a2 a3 a4 a5) := by
  unfold execVmax; with_reducible exact plainOp_answers ..
theorem execVmin_answers (a0) (a1) (a2) (a3) (a4) (a5) : Answers (isCore a0.core) a5 (execVmin a0 a1 a2 a3 a4 a5) := by
  unfold execVmin; with_reducible exact plainOp_answers ..
theorem execVand_answers (a0) (a1) (a2) (a3) (a4) (a5) : Answers (isCore a0.core) a5 (execVand a0 a1 a2 a3 a4 a5) := by
  unfold execVand; with_reducible exact plainOp_answers ..
theorem execVor_answers (a0) (a1) (a2) (a3) (a4) (a5) : Answers (isCore a0.core) a5 (execVor a0 a1 a2 a3 a4 a5) := by
  unfold execVor; with_reducible exact plainOp_answers ..
theorem execVxor_answers (a0) (a1) (a2) (a3) (a4) (a5) : Answers (isCore a0.core) a5 (execVxor a0 a1 a2 a3 a4 a5) := by
  unfold execVxor; with_reducible exact plainOp_answers ..
theorem execVshl_answers (a0) (a1) (a2) (a3) (a4) (a5) : Answers (isCore a0.core) a5 (execVshl a0 a1 a2 a3 a4 a5) := by
  unfold execVshl; with_reducible exact plainOp_answers ..
theorem execVshr_answers (a0) (a1) (a2) (a3) (a4) (a5) : Answers (isCore a0.core) a5 (execVshr a0 a1 a2 a3 a4 a5) := by
  unfold execVshr; with_reducible exact plainOp_answers ..
theorem execVcmplt_answers (a0) (a1) (a2) (a3) (a4) (a5) : Answers (isCore a0.core) a5 (execVcmplt a0 a1 a2 a3 a4 a5) := by
  unfold execVcmplt; with_reducible exact plainOp_answers ..
theorem execVcmpeq_answers (a0) (a1) (a2) (a3) (a4) (a5) : Answers (isCore a0.core) a5 (execVcmpeq a0 a1 a2 a3 a4 a5) := by
  unfold execVcmpeq; with_reducible exact plainOp_answers ..
theorem execVsel_answers (a0) (a1) (a2) (a3) (a4) (a5) : Answers (isCore a0.core) a5 (execVsel a0 a1 a2 a3 a4 a5) := by
  unfold execVsel; with_reducible exact plainOp_answers ..
theorem execVexp2_answers (a0) (a1) (a2) (a3) (a4) : Answers (isCore a0.core) a4 (execVexp2 a0 a1 a2 a3 a4) := by
  unfold execVexp2; with_reducible exact plainOp_answers ..
theorem execVlog2_answers (a0) (a1) (a2) (a3) (a4) : Answers (isCore a0.core) a4 (execVlog2 a0 a1 a2 a3 a4) := by
  unfold execVlog2; with_reducible exact plainOp_answers ..
theorem execVrcp_answers (a0) (a1) (a2) (a3) (a4) : Answers (isCore a0.core) a4 (execVrcp a0 a1 a2 a3 a4) := by
  unfold execVrcp; with_reducible exact plainOp_answers ..
theorem execVrsqrt_answers (a0) (a1) (a2) (a3) (a4) : Answers (isCore a0.core) a4 (execVrsqrt a0 a1 a2 a3 a4) := by
  unfold execVrsqrt; with_reducible exact plainOp_answers ..
theorem execVtanh_answers (a0) (a1) (a2) (a3) (a4) : Answers (isCore a0.core) a4 (execVtanh a0 a1 a2 a3 a4) := by
  unfold execVtanh; with_reducible exact plainOp_answers ..
theorem execVsigm_answers (a0) (a1) (a2) (a3) (a4) : Answers (isCore a0.core) a4 (execVsigm a0 a1 a2 a3 a4) := by
  unfold execVsigm; with_reducible exact plainOp_answers ..
theorem execVcvt_answers (a0) (a1) (a2) (a3) (a4) (a5) : Answers (isCore a0.core) a5 (execVcvt a0 a1 a2 a3 a4 a5) := by
  unfold execVcvt
  with_reducible refine issue_answers _ _ _ _ _ _ (fun x hx => ?_)
  exact hx
theorem execVbcast_answers (a0) (a1) (a2) (a3) (a4) : Answers (isCore a0.core) a4 (execVbcast a0 a1 a2 a3 a4) := by
  unfold execVbcast
  with_reducible refine issue_answers _ _ _ _ _ _ (fun x hx => ?_)
  repeat' (first | (simp [IssKept, hx]; done) | refine withOps_kept _ _ _ _ hx (fun k vs ds => ?_))
theorem execVextr_answers (a0) (a1) (a2) (a3) (a4) (a5) : Answers (isCore a0.core) a5 (execVextr a0 a1 a2 a3 a4 a5) := by
  unfold execVextr
  with_reducible refine issue_answers _ _ _ _ _ _ (fun x hx => ?_)
  exact scalarRes_kept _ _ _ _ _ hx
theorem execVperm_answers (a0) (a1) (a2) (a3) (a4) (a5) : Answers (isCore a0.core) a5 (execVperm a0 a1 a2 a3 a4 a5) := by
  unfold execVperm; with_reducible exact vecIssue_answers ..
theorem execVredsum_answers (a0) (a1) (a2) (a3) (a4) : Answers (isCore a0.core) a4 (execVredsum a0 a1 a2 a3 a4) := by
  unfold execVredsum; with_reducible exact vecIssue_answers ..
theorem execVredmax_answers (a0) (a1) (a2) (a3) (a4) : Answers (isCore a0.core) a4 (execVredmax a0 a1 a2 a3 a4) := by
  unfold execVredmax; with_reducible exact vecIssue_answers ..
theorem execVrand_answers (a0) (a1) (a2) : Answers (isCore a0.core) a2 (execVrand a0 a1 a2) := by
  unfold execVrand; with_reducible exact vecIssue_answers ..
theorem execVtopk_answers (a0) (a1) (a2) (a3) (a4) (a5) : Answers (isCore a0.core) a5 (execVtopk a0 a1 a2 a3 a4 a5) := by
  unfold execVtopk
  with_reducible refine issue_answers _ _ _ _ _ _ (fun x hx => ?_)
  exact hx
theorem execVsample_answers (a0) (a1) (a2) (a3) (a4) (a5) : Answers (isCore a0.core) a5 (execVsample a0 a1 a2 a3 a4 a5) := by
  unfold execVsample; with_reducible exact vecIssue_answers ..
theorem execGate_answers (a0) (a1) (a2) (a3) (a4) (a5) : Answers (isCore a0.core) a5 (execGate a0 a1 a2 a3 a4 a5) := by
  unfold execGate
  with_reducible refine issue_answers _ _ _ _ _ _ (fun x hx => ?_)
  exact hx
theorem execTcfg_answers (a0) (a1) (a2) (a3) : Answers (isCore a0.core) a3 (execTcfg a0 a1 a2 a3) := by
  unfold execTcfg
  with_reducible refine issue_answers _ _ _ _ _ _ (fun x hx => ?_)
  repeat' (first | refine withOps_kept _ _ _ _ hx (fun k vs ds => ?_) | exact meIssue_kept _ _ _ _ hx)
theorem execTfree_answers (a0) (a1) (a2) : Answers (isCore a0.core) a2 (execTfree a0 a1 a2) := by
  unfold execTfree
  with_reducible refine issue_answers _ _ _ _ _ _ (fun x hx => ?_)
  exact meIssue_kept _ _ _ _ hx
theorem execTld_answers (a0) (a1) (a2) (a3) (a4) : Answers (isCore a0.core) a4 (execTld a0 a1 a2 a3 a4) := by
  unfold execTld
  with_reducible refine issue_answers _ _ _ _ _ _ (fun x hx => ?_)
  exact transferIssue_kept _ _ _ _ _ hx
theorem execTldc_answers (a0) (a1) (a2) (a3) (a4) : Answers (isCore a0.core) a4 (execTldc a0 a1 a2 a3 a4) := by
  unfold execTldc
  with_reducible refine issue_answers _ _ _ _ _ _ (fun x hx => ?_)
  repeat' (first | refine withOpsF_kept _ _ _ _ _ hx (fun k vs ds => ?_) | exact meIssue_kept _ _ _ _ hx)
theorem execTst_answers (a0) (a1) (a2) (a3) (a4) : Answers (isCore a0.core) a4 (execTst a0 a1 a2 a3 a4) := by
  unfold execTst
  with_reducible refine issue_answers _ _ _ _ _ _ (fun x hx => ?_)
  exact transferIssue_kept _ _ _ _ _ hx
theorem execMma_answers (a0) (a1) (a2) (a3) (a4) : Answers (isCore a0.core) a4 (execMma a0 a1 a2 a3 a4) := by
  unfold execMma
  with_reducible refine issue_answers _ _ _ _ _ _ (fun x hx => ?_)
  exact meIssue_kept _ _ _ _ hx
theorem execMmaz_answers (a0) (a1) (a2) (a3) (a4) : Answers (isCore a0.core) a4 (execMmaz a0 a1 a2 a3 a4) := by
  unfold execMmaz
  with_reducible refine issue_answers _ _ _ _ _ _ (fun x hx => ?_)
  exact meIssue_kept _ _ _ _ hx
theorem execSavetiles_answers (a0) (a1) (a2) (a3) : Answers (isCore a0.core) a3 (execSavetiles a0 a1 a2 a3) := by
  unfold execSavetiles
  with_reducible refine issue_answers _ _ _ _ _ _ (fun x hx => ?_)
  exact meIssue_kept _ _ _ _ hx
theorem execResttiles_answers (a0) (a1) (a2) (a3) : Answers (isCore a0.core) a3 (execResttiles a0 a1 a2 a3) := by
  unfold execResttiles
  with_reducible refine issue_answers _ _ _ _ _ _ (fun x hx => ?_)
  exact meIssue_kept _ _ _ _ hx
theorem execTrdv_answers (a0) (a1) (a2) (a3) (a4) : Answers (isCore a0.core) a4 (execTrdv a0 a1 a2 a3 a4) := by
  unfold execTrdv
  with_reducible refine issue_answers _ _ _ _ _ _ (fun x hx => ?_)
  exact meIssue_kept _ _ _ _ hx
theorem execTwrv_answers (a0) (a1) (a2) (a3) (a4) : Answers (isCore a0.core) a4 (execTwrv a0 a1 a2 a3 a4) := by
  unfold execTwrv
  with_reducible refine issue_answers _ _ _ _ _ _ (fun x hx => ?_)
  exact meIssue_kept _ _ _ _ hx
theorem execMeOpStart_answers (a0) (a1) : Answers (isCore a0) a1 (execMeOpStart a0 a1) := by
  unfold execMeOpStart
  dsimp only
  repeat' (first | with_reducible refine answers_core ?_ | (refine answers_kept ?_; simp [apply_ite State.kept]; done) | split)
theorem execMmaStep_answers (a0) (a1) : Answers (isCore a0) a1 (execMmaStep a0 a1) := by
  unfold execMmaStep
  dsimp only
  repeat' (first | with_reducible refine answers_core ?_ | (refine answers_kept ?_; simp [apply_ite State.kept]; done) | split)
theorem execMmaStepCheck_answers (a0) (a1) (a2) : Answers (isCore a0) a2 (execMmaStepCheck a0 a1 a2) := by
  unfold execMmaStepCheck
  dsimp only
  repeat' (first | with_reducible refine answers_core ?_ | (refine answers_kept ?_; simp [apply_ite State.kept]; done) | split)
theorem execLsOpComplete_answers (a0) (a1) : Answers (isCore a0) a1 (execLsOpComplete a0 a1) := by
  unfold execLsOpComplete
  dsimp only
  repeat' (first | with_reducible refine answers_core ?_ | (refine answers_kept ?_; simp [apply_ite State.kept]; done) | split)
theorem execLatentCheckerTest_answers (a0) (a1) (a2) (a3) : Answers (isCore a0) a3 (execLatentCheckerTest a0 a1 a2 a3) := by
  unfold execLatentCheckerTest
  repeat' (first | with_reducible refine answers_core ?_ | (refine answers_kept ?_; simp [apply_ite State.kept]; done)
                 | (refine answers_atTime a2 ?_; simp [apply_ite State.kept]; done) | split)
theorem execAsyncFaultDelivery_answers (a0) (a1) (a2) (a3) : Answers (isCore a0) a3 (execAsyncFaultDelivery a0 a1 a2 a3) := by
  unfold execAsyncFaultDelivery
  with_reducible refine onCore_answers _ _ _ (fun s => .inl ?_)
  repeat' (first | (simp [kept_foldl, apply_ite State.kept]; done) | split)
theorem execLd8_answers (a0) (a1) (a2) (a3) (a4) : Answers (isCore a0.core) a4 (execLd8 a0 a1 a2 a3 a4) := by
  unfold execLd8; with_reducible exact loadOp_answers ..
theorem execLd16_answers (a0) (a1) (a2) (a3) (a4) : Answers (isCore a0.core) a4 (execLd16 a0 a1 a2 a3 a4) := by
  unfold execLd16; with_reducible exact loadOp_answers ..
theorem execLd32_answers (a0) (a1) (a2) (a3) (a4) : Answers (isCore a0.core) a4 (execLd32 a0 a1 a2 a3 a4) := by
  unfold execLd32; with_reducible exact loadOp_answers ..
theorem execLd64_answers (a0) (a1) (a2) (a3) (a4) : Answers (isCore a0.core) a4 (execLd64 a0 a1 a2 a3 a4) := by
  unfold execLd64; with_reducible exact loadOp_answers ..
theorem execLds8_answers (a0) (a1) (a2) (a3) (a4) : Answers (isCore a0.core) a4 (execLds8 a0 a1 a2 a3 a4) := by
  unfold execLds8; with_reducible exact loadOp_answers ..
theorem execLds16_answers (a0) (a1) (a2) (a3) (a4) : Answers (isCore a0.core) a4 (execLds16 a0 a1 a2 a3 a4) := by
  unfold execLds16; with_reducible exact loadOp_answers ..
theorem execLds32_answers (a0) (a1) (a2) (a3) (a4) : Answers (isCore a0.core) a4 (execLds32 a0 a1 a2 a3 a4) := by
  unfold execLds32; with_reducible exact loadOp_answers ..
theorem execLdv_answers (a0) (a1) (a2) (a3) (a4) : Answers (isCore a0.core) a4 (execLdv a0 a1 a2 a3 a4) := by
  unfold execLdv; with_reducible exact loadOp_answers ..
theorem execSt8_answers (a0) (a1) (a2) (a3) (a4) : Answers (isCore a0.core) a4 (execSt8 a0 a1 a2 a3 a4) := by
  unfold execSt8; with_reducible exact storeOp_answers ..
theorem execSt16_answers (a0) (a1) (a2) (a3) (a4) : Answers (isCore a0.core) a4 (execSt16 a0 a1 a2 a3 a4) := by
  unfold execSt16; with_reducible exact storeOp_answers ..
theorem execSt32_answers (a0) (a1) (a2) (a3) (a4) : Answers (isCore a0.core) a4 (execSt32 a0 a1 a2 a3 a4) := by
  unfold execSt32; with_reducible exact storeOp_answers ..
theorem execSt64_answers (a0) (a1) (a2) (a3) (a4) : Answers (isCore a0.core) a4 (execSt64 a0 a1 a2 a3 a4) := by
  unfold execSt64; with_reducible exact storeOp_answers ..
theorem execStv_answers (a0 a1 a2 a3) (s : State) : Answers (isCore a0.core) s (execStv a0 a1 a2 a3 s) := by
  unfold execStv
  exact issue_answers _ _ _ _ _ _ (fun x hx => withOpsF_kept _ _ _ _ _ hx (fun k vs ds => storeAt_kept _ _ _ _ hx))
theorem execRst_answers (a0) (a1) (a2) (a3) (a4) : Answers (isCore a0.core) a4 (execRst a0 a1 a2 a3 a4) := by
  unfold execRst
  with_reducible refine issue_answers _ _ _ _ _ _ (fun x hx => ?_)
  try dsimp only
  repeat' (first | with_reducible exact hx | with_reducible trivial | (simp [IssKept, hx]; done)
                 | refine withOpsF_kept _ _ _ _ _ hx (fun k vs ds => ?_) | exact postStore_kept _ _ _ _ _ hx)
theorem execCst_answers (a0 a1 a2 a3) (s : State) : Answers (isCore a0.core) s (execCst a0 a1 a2 a3 s) := by
  unfold execCst
  refine issue_answers _ _ _ _ _ _ (fun x hx => withOpsV_kept _ _ _ _ _ _ hx (fun k vs ds => ?_))
  dsimp only
  split
  · refine issKept_ite trivial ?_
    simp [IssKept, hx]
  · trivial
theorem execAadd_answers (a0) (a1) (a2) (a3) (a4) : Answers (isCore a0.core) a4 (execAadd a0 a1 a2 a3 a4) := by
  unfold execAadd; with_reducible exact atomicOp_answers ..
theorem execAmin_answers (a0) (a1) (a2) (a3) (a4) : Answers (isCore a0.core) a4 (execAmin a0 a1 a2 a3 a4) := by
  unfold execAmin; with_reducible exact atomicOp_answers ..
theorem execAmax_answers (a0) (a1) (a2) (a3) (a4) : Answers (isCore a0.core) a4 (execAmax a0 a1 a2 a3 a4) := by
  unfold execAmax; with_reducible exact atomicOp_answers ..
theorem execAswap_answers (a0) (a1) (a2) (a3) (a4) : Answers (isCore a0.core) a4 (execAswap a0 a1 a2 a3 a4) := by
  unfold execAswap; with_reducible exact atomicOp_answers ..
theorem execRsend_answers (a0 a1 a2) (s : State) : Answers (isCore a0.core) s (execRsend a0 a1 a2 s) := by
  unfold execRsend
  refine issue_answers _ _ _ _ _ _ (fun x hx => ?_)
  dsimp only
  split <;> exact sendOn_kept _ _ _ _ _ _ _ hx
theorem execRsendt_answers (a0 a1) (s : State) : Answers (isCore a0.core) s (execRsendt a0 a1 s) := by
  unfold execRsendt
  exact issue_answers _ _ _ _ _ _ (fun x hx => sendOn_kept _ _ _ _ _ _ _ hx)
theorem execRrd_answers (a0 a1 a2 a3) (s : State) : Answers (isCore a0.core) s (execRrd a0 a1 a2 a3 s) := by
  unfold execRrd
  refine issue_answers _ _ _ _ _ _ (fun x hx => ?_)
  dsimp only
  refine withOpsF_kept _ _ _ _ _ hx (fun k vs ds => issKept_ite (by exact hx) ?_)
  have h := ringHead_kept' (x.s.setCore x.c k) x.c (x.k.ring (rawImm x.px a3 % 64)) (fileOf a1 == 1)
  revert h; generalize ringHead (x.s.setCore x.c k) _ _ _ = z; intro h
  obtain ⟨l | ⟨b, cd, bs⟩, s'⟩ := z
  · simp [IssKept, hx]
  · simp at h; simp [IssKept, h, hx, kept_ite, apply_ite State.kept]
theorem execRoute_answers (a0 a1 a2 a3) (s : State) : Answers (isCore a0.core) s (execRoute a0 a1 a2 a3 s) := by
  unfold execRoute
  refine issue_answers _ _ _ _ _ _ (fun x hx => withOps_kept _ _ _ _ hx (fun k vs ds => ?_))
  dsimp only
  generalize hw : (match x.th.wait with | some w => w.kind == 10 | none => false) = waiting
  refine issKept_ite (issKept_ite (by exact hx) (routeSend_kept _ _ _ _ hx)) (issKept_ite trivial ?_)
  have h := routeTable_kept x.s x.c (vs.getD 0 0).toNat
  revert h; generalize routeTable x.s x.c (vs.getD 0 0).toNat = z; intro h
  obtain ⟨l | t, s'⟩ := z
  · simp at h
    dsimp only
    split
    · exact h.trans hx
    · trivial
  · dsimp only at h ⊢
    have h2 := routeClaims_kept x.c x.th.priv (vs.getD 0 0).toNat t.count (routeRecs (x.th.readV (indexOf a2))) s'
    revert h2; generalize routeClaims x.c x.th.priv (vs.getD 0 0).toNat t.count (routeRecs (x.th.readV (indexOf a2))) s' = z2; intro h2
    obtain ⟨⟨fs, cs⟩, s2⟩ := z2
    dsimp only at h2 ⊢
    split
    · simp [IssKept, h2, h, hx]
    · refine issKept_ite ?_ ?_ <;> simp [IssKept, h2, h, hx]
theorem execFill_answers (a0) (a1) (a2) (a3) (a4) : Answers (isCore a0.core) a4 (execFill a0 a1 a2 a3 a4) := by
  unfold execFill
  with_reducible refine issue_answers _ _ _ _ _ _ (fun x hx => ?_)
  try dsimp only
  repeat' (first | with_reducible exact hx | with_reducible trivial | (simp [IssKept, hx]; done)
                 | refine withOpsF_kept _ _ _ _ _ hx (fun k vs ds => ?_) | refine issKept_ite ?_ ?_)
theorem execCopy_answers (a0) (a1) (a2) (a3) (a4) : Answers (isCore a0.core) a4 (execCopy a0 a1 a2 a3 a4) := by
  unfold execCopy
  with_reducible refine issue_answers _ _ _ _ _ _ (fun x hx => ?_)
  exact fcIssue_kept _ _ _ _ hx
theorem execInp_answers (a0) (a1) (a2) (a3) : Answers (isCore a0.core) a3 (execInp a0 a1 a2 a3) := by
  unfold execInp
  with_reducible refine issue_answers _ _ _ _ _ _ (fun x hx => ?_)
  try dsimp only
  repeat' (first | with_reducible exact hx | with_reducible trivial | (simp [IssKept, hx]; done)
                 | refine withOpsF_kept _ _ _ _ _ hx (fun k vs ds => ?_))
theorem execOutp_answers (a0 a1 a2) (s : State) : Answers (isCore a0.core) s (execOutp a0 a1 a2 s) := by
  unfold execOutp
  refine issue_answers _ _ _ _ _ _ (fun x hx => withOpsF_kept _ _ _ _ _ hx (fun k vs ds => ?_))
  simp [IssKept, hx]
theorem execIload_answers (a0) (a1) (a2) (a3) (a4) : Answers (isCore a0.core) a4 (execIload a0 a1 a2 a3 a4) := by
  unfold execIload
  with_reducible refine issue_answers _ _ _ _ _ _ (fun x hx => ?_)
  exact fcIssue_kept _ _ _ _ hx
theorem execIverify_answers (a0) (a1) (a2) (a3) : Answers (isCore a0.core) a3 (execIverify a0 a1 a2 a3) := by
  unfold execIverify
  with_reducible refine issue_answers _ _ _ _ _ _ (fun x hx => ?_)
  exact fcIssue_kept _ _ _ _ hx
theorem execFcOpComplete_answers (a0) (a1) : Answers (isCore a0) a1 (execFcOpComplete a0 a1) := by
  unfold execFcOpComplete
  dsimp only
  repeat' (first | with_reducible refine answers_core ?_ | (refine answers_kept ?_; simp [apply_ite State.kept]; done) | split)
theorem execWait_answers (a0) (a1) (a2) (a3) : Answers (isCore a0.core) a3 (execWait a0 a1 a2 a3) := by
  unfold execWait
  with_reducible refine issue_answers _ _ _ _ _ _ (fun x hx => ?_)
  repeat' (first | (simp [IssKept, hx]; done) | refine withOps_kept _ _ _ _ hx (fun k vs ds => ?_) | refine issKept_ite ?_ ?_)
theorem execMsync_answers (a0) (a1) (a2) (a3) : Answers (isCore a0.core) a3 (execMsync a0 a1 a2 a3) := by
  unfold execMsync
  with_reducible refine issue_answers _ _ _ _ _ _ (fun x hx => ?_)
  repeat' (first | (simp [IssKept, hx]; done) | refine withOps_kept _ _ _ _ hx (fun k vs ds => ?_) | refine issKept_ite ?_ ?_)
theorem execDsync_answers (a0) (a1) (a2) : Answers (isCore a0.core) a2 (execDsync a0 a1 a2) := by
  unfold execDsync
  with_reducible refine issue_answers _ _ _ _ _ _ (fun x hx => ?_)
  repeat' (first | (simp [IssKept, hx]; done) | refine withOps_kept _ _ _ _ hx (fun k vs ds => ?_) | split)
theorem execBar_answers (a0) (a1) (a2) : Answers (isCore a0.core) a2 (execBar a0 a1 a2) := by
  unfold execBar
  with_reducible refine issue_answers _ _ _ _ _ _ (fun x hx => ?_)
  repeat' (first | (simp [IssKept, hx]; done) | split)
theorem execWaitTimeout_answers (a0) (a1) (a2) (a3) : Answers (isCore a0) a3 (execWaitTimeout a0 a1 a2 a3) := by
  unfold execWaitTimeout
  with_reducible refine onCore_answers _ _ _ (fun s => .inr ⟨a2, ?_⟩)
  dsimp only
  repeat' (first | (simp [kept_foldl, apply_ite State.kept]; done) | split)
theorem execThrStart_answers (a0) (a1) (a2) (a3) : Answers (isCore a0) a3 (execThrStart a0 a1 a2 a3) := by
  unfold execThrStart; with_reducible exact onCore_answers _ _ _ (fun s => .inl (by simp))
theorem execThrPark_answers (a0) (a1) (a2) : Answers (isCore a0) a2 (execThrPark a0 a1 a2) := by
  unfold execThrPark; with_reducible exact onCore_answers _ _ _ (fun s => .inl (by simp))
theorem execThrUnpark_answers (a0) (a1) (a2) : Answers (isCore a0) a2 (execThrUnpark a0 a1 a2) := by
  unfold execThrUnpark; with_reducible exact onCore_answers _ _ _ (fun s => .inl (by simp))
theorem execThrStop_answers (a0) (a1) (a2) : Answers (isCore a0) a2 (execThrStop a0 a1 a2) := by
  unfold execThrStop; with_reducible exact onCore_answers _ _ _ (fun s => .inl (by simp))
theorem execCoreQcfgWrite_answers (a0) (a1) (a2) : Answers (isCore a0) a2 (execCoreQcfgWrite a0 a1 a2) := by
  unfold execCoreQcfgWrite; with_reducible exact onCore_answers _ _ _ (fun s => .inl (by simp))
theorem execThrWaittoWrite_answers (a0) (a1) (a2) (a3) : Answers (isCore a0) a3 (execThrWaittoWrite a0 a1 a2 a3) := by
  unfold execThrWaittoWrite; with_reducible exact onCore_answers _ _ _ (fun s => .inl (by simp))
theorem execThrRngWrite_answers (a0) (a1) (a2) (a3) (a4) : Answers (isCore a0) a4 (execThrRngWrite a0 a1 a2 a3 a4) := by
  unfold execThrRngWrite; with_reducible exact onCore_answers _ _ _ (fun s => .inl (by simp))
theorem execRegisterWrite_answers (a0) (a1) (a2) :
    Answers (match a0 with | .io c _ _ => isCore c | .bar0 _ _ => true) a2 (execRegisterWrite a0 a1 a2) := by
  unfold execRegisterWrite
  cases a0
  · exact onCore_answers _ _ _ (fun s => .inl (kept_ite (by simp) rfl))
  · exact answers_kept (by simp)
theorem execDmaStart_answers (a0) (a1) (a2) (a3) : Answers (isCore a0) a3 (execDmaStart a0 a1 a2 a3) := by
  unfold execDmaStart; with_reducible exact onCore_answers _ _ _ (fun s => .inl (by simp))
theorem execDmaStop_answers (a0) (a1) (a2) : Answers (isCore a0) a2 (execDmaStop a0 a1 a2) := by
  unfold execDmaStop; with_reducible exact onCore_answers _ _ _ (fun s => .inl (by simp))
theorem execDmaResume_answers (a0) (a1) (a2) : Answers (isCore a0) a2 (execDmaResume a0 a1 a2) := by
  unfold execDmaResume; with_reducible exact onCore_answers _ _ _ (fun s => .inl (by simp))
theorem execDmaAbort_answers (a0) (a1) (a2) : Answers (isCore a0) a2 (execDmaAbort a0 a1 a2) := by
  unfold execDmaAbort; with_reducible exact onCore_answers _ _ _ (fun s => .inl (by simp))
theorem execDmaPacket_answers (a0) (a1) (a2) (a3) : Answers (isCore a0) a3 (execDmaPacket a0 a1 a2 a3) := by
  unfold execDmaPacket
  with_reducible refine onCore_answers _ _ _ (fun s => .inl ?_)
  repeat' (first | (simp [kept_foldl, apply_ite State.kept]; done) | with_reducible refine kept_ite ?_ ?_ | split)
theorem execDmaPacketError_answers (a0) (a1) (a2) : Answers (isCore a0) a2 (execDmaPacketError a0 a1 a2) := by
  unfold execDmaPacketError
  with_reducible refine onCore_answers _ _ _ (fun s => .inl ?_)
  dsimp only
  repeat' (first | (simp [kept_foldl, apply_ite State.kept]; done) | split)
theorem execDmaDescriptorComplete_answers (a0) (a1) (a2) : Answers (isCore a0) a2 (execDmaDescriptorComplete a0 a1 a2) := by
  unfold execDmaDescriptorComplete
  with_reducible refine onCore_answers _ _ _ (fun s => .inl ?_)
  (simp [kept_foldl, apply_ite State.kept]; done)
theorem execDmaStopDrained_answers (a0) (a1) (a2) : Answers (isCore a0) a2 (execDmaStopDrained a0 a1 a2) := by
  unfold execDmaStopDrained
  with_reducible refine onCore_answers _ _ _ (fun s => .inl ?_)
  (simp [kept_foldl, apply_ite State.kept]; done)
theorem execWriteAckArrive_answers (a0) (a1) : Answers true a1 (execWriteAckArrive a0 a1) := by
  unfold execWriteAckArrive
  with_reducible refine onArrival_answers _ _ _ (fun p c s => ?_)
  repeat' (first | (simp [kept_foldl, apply_ite State.kept]; done) | split)
theorem execRemoteWriteArrive_answers (a0) (a1) : Answers true a1 (execRemoteWriteArrive a0 a1) := by
  unfold execRemoteWriteArrive; with_reducible exact onArrival_answers _ _ _ (fun p c s => by simp)
theorem execRingMessageArrive_answers (a0) (a1) (a2) : Answers true a2 (execRingMessageArrive a0 a1 a2) := by
  unfold execRingMessageArrive
  with_reducible refine onArrival_answers _ _ _ (fun p c s => ?_)
  repeat' (first | (simp [kept_foldl, apply_ite State.kept]; done) | split)
theorem execBindRequestArrive_answers (a0) (a1) : Answers true a1 (execBindRequestArrive a0 a1) := by
  unfold execBindRequestArrive
  with_reducible refine onArrival_answers _ _ _ (fun p c s => ?_)
  dsimp only
  repeat' (first | (simp [kept_foldl, apply_ite State.kept]; done) | split)
theorem execBindAnswerArrive_answers (a0) (a1) : Answers true a1 (execBindAnswerArrive a0 a1) := by
  unfold execBindAnswerArrive
  with_reducible refine onArrival_answers _ _ _ (fun p c s => ?_)
  dsimp only
  repeat' (first | (simp [kept_foldl, apply_ite State.kept]; done) | split)
theorem execUnbindArrive_answers (a0) (a1) : Answers true a1 (execUnbindArrive a0 a1) := by
  unfold execUnbindArrive
  with_reducible refine onArrival_answers _ _ _ (fun p c s => ?_)
  repeat' (first | (simp [kept_foldl, apply_ite State.kept]; done) | split)
theorem execCreditReturnArrive_answers (a0) (a1) : Answers true a1 (execCreditReturnArrive a0 a1) := by
  unfold execCreditReturnArrive
  with_reducible refine onArrival_answers _ _ _ (fun p c s => ?_)
  repeat' (first | (simp [kept_foldl, apply_ite State.kept]; done) | split)
theorem execRouteClaimArrive_answers (a0) (a1) : Answers true a1 (execRouteClaimArrive a0 a1) := by
  unfold execRouteClaimArrive
  with_reducible refine onArrival_answers _ _ _ (fun p c s => ?_)
  repeat' (first | (simp [kept_foldl, apply_ite State.kept]; done) | split)
theorem execRouteClaimAnswer_answers (a0) (a1) : Answers true a1 (execRouteClaimAnswer a0 a1) := by
  unfold execRouteClaimAnswer
  with_reducible refine onArrival_answers _ _ _ (fun p c s => ?_)
  dsimp only
  repeat' (first | (simp [kept_foldl, apply_ite State.kept]; done) | split)
theorem execCommonsRequestArrive_answers (a0) (a1) : Answers true a1 (execCommonsRequestArrive a0 a1) := by
  unfold execCommonsRequestArrive
  with_reducible refine onMemory_answers _ _ _ (fun p s => ?_)
  repeat' (first | (simp [kept_foldl, apply_ite State.kept]; done) | split)
theorem execHbmRequestArrive_answers (a0) (a1) : Answers true a1 (execHbmRequestArrive a0 a1) := by
  unfold execHbmRequestArrive
  with_reducible refine onMemory_answers _ _ _ (fun p s => ?_)
  repeat' (first | (simp [kept_foldl, apply_ite State.kept]; done) | split)
theorem execFarResponseArrive_answers (a0) (a1) : Answers true a1 (execFarResponseArrive a0 a1) := by
  unfold execFarResponseArrive
  with_reducible refine onArrival_answers _ _ _ (fun p c s => ?_)
  repeat' (first | (simp [kept_foldl, apply_ite State.kept]; done) | split)
theorem execFencedAnswerArrive_answers (a0) (a1) : Answers true a1 (execFencedAnswerArrive a0 a1) := by
  unfold execFencedAnswerArrive
  with_reducible refine onArrival_answers _ _ _ (fun p c s => ?_)
  dsimp only
  repeat' (first | (simp [kept_foldl, apply_ite State.kept]; done) | split)
theorem execMeshFlitForward_answers (a0) (a1) (a2) (a3) : Answers (isCore a0) a3 (execMeshFlitForward a0 a1 a2 a3) := by
  unfold execMeshFlitForward
  dsimp only
  repeat' (first | with_reducible refine answers_core ?_ | (refine answers_kept ?_; simp [apply_ite State.kept]; done) | split)
theorem execFlitCrcFail_answers (a0) (a1) (a2) : Answers (isCore a0) a2 (execFlitCrcFail a0 a1 a2) := by
  unfold execFlitCrcFail
  repeat' (first | with_reducible refine answers_core ?_ | with_reducible refine answers_ite ?_ ?_
                 | (refine answers_kept ?_; simp [apply_ite State.kept]; done) | split)
theorem execBridgeSpareSwitch_answers (a0) (a1) (a2) : Answers (isCore a0) a2 (execBridgeSpareSwitch a0 a1 a2) := by
  unfold execBridgeSpareSwitch
  repeat' (first | with_reducible refine answers_core ?_ | with_reducible refine answers_ite ?_ ?_
                 | (refine answers_kept ?_; simp [apply_ite State.kept]; done) | split)
theorem execCairnHoldExpiry_answers (a0) (a1) : Answers true a1 (execCairnHoldExpiry a0 a1) := by
  unfold execCairnHoldExpiry
  repeat' (first | (refine answers_kept ?_; simp [apply_ite State.kept]; done) | split)
theorem execCairnFinalCombine_answers (a0) (a1) (a2) : Answers true a2 (execCairnFinalCombine a0 a1 a2) := by
  unfold execCairnFinalCombine
  with_reducible refine onArrival_answers _ _ _ (fun p c s => ?_)
  repeat' (first | (simp [kept_foldl, apply_ite State.kept]; done) | split)
theorem execRingCtlWrite_answers (a0) (a1) (a2) (a3) : Answers (isCore a0) a3 (execRingCtlWrite a0 a1 a2 a3) := by
  unfold execRingCtlWrite
  repeat' (first | with_reducible refine answers_core ?_ | (refine answers_kept ?_; simp [apply_ite State.kept]; done))
theorem execChanBindWrite_answers (a0) (a1) (a2) (a3) : Answers (isCore a0) a3 (execChanBindWrite a0 a1 a2 a3) := by
  unfold execChanBindWrite
  repeat' (first | with_reducible refine answers_core ?_ | (refine answers_kept ?_; simp [apply_ite State.kept]; done))
theorem execRouteCapWrite_answers (a0) (a1) (a2) (a3) : Answers (isCore a0) a3 (execRouteCapWrite a0 a1 a2 a3) := by
  unfold execRouteCapWrite
  repeat' (first | with_reducible refine answers_core ?_ | (refine answers_kept ?_; simp [apply_ite State.kept]; done))
theorem execBarThrmaskWrite_answers (a0) (a1) (a2) (a3) : Answers (isCore a0) a3 (execBarThrmaskWrite a0 a1 a2 a3) := by
  unfold execBarThrmaskWrite; with_reducible exact onCore_answers _ _ _ (fun s => .inl (by simp))
theorem execBarrierArrival_answers (a0) (a1) (a2) : Answers (isCore a0) a2 (execBarrierArrival a0 a1 a2) := by
  unfold execBarrierArrival
  with_reducible refine onCore_answers _ _ _ (fun s => .inl ?_)
  (simp [kept_foldl, apply_ite State.kept]; done)
theorem execBarrierRelease_answers (a0) (a1) (a2) : Answers true a2 (execBarrierRelease a0 a1 a2) := by
  unfold execBarrierRelease
  repeat' (first | with_reducible exact answers_same | with_reducible refine answers_ite ?_ ?_)
  exact answers_kept (kept_foldl _ _ _ (fun s c => releaseBar_kept ..))
theorem execAlarmFire_answers (a0) (a1) (a2) (a3) : Answers (isCore a0) a3 (execAlarmFire a0 a1 a2 a3) := by
  unfold execAlarmFire; with_reducible exact onCore_answers _ _ _ (fun s => .inr ⟨a2, by simp⟩)
theorem execIntLogclr_answers (a0) (a1) : Answers (memRefOk a0) a1 (execIntLogclr a0 a1) := by
  unfold execIntLogclr
  cases memRefOk a0
  · exact answers_fault
  · exact answers_kept (by simp)
theorem execWriteRaw_answers (a0) (a1) : Answers (memRefOk a0) a1 (execWriteRaw a0 a1) := by
  unfold execWriteRaw
  cases memRefOk a0
  · exact answers_fault
  · exact answers_kept (by simp)
theorem execReadRaw_answers (a0) (a1) : Answers (memRefOk a0) a1 (execReadRaw a0 a1) := by
  unfold execReadRaw
  cases memRefOk a0
  · exact answers_fault
  · exact answers_kept (by simp)
theorem execRawAccessComplete_answers (a0) (a1) : Answers (memRefOk a0) a1 (execRawAccessComplete a0 a1) := by
  unfold execRawAccessComplete
  cases memRefOk a0
  · exact answers_fault
  · exact answers_kept (by simp)
theorem execIntRemapWrite_answers (a0) (a1) (a2) (a3) : Answers (memRefOk a0) a3 (execIntRemapWrite a0 a1 a2 a3) := by
  unfold execIntRemapWrite
  cases memRefOk a0
  · exact answers_fault
  · exact answers_kept (by simp)
theorem execScrubRead_answers (a0) (a1) (a2) : Answers (memRefOk a0) a2 (execScrubRead a0 a1 a2) := by
  unfold execScrubRead
  cases memRefOk a0
  · exact answers_fault
  · exact answers_kept (by simp)
theorem execEccWriteback_answers (a0) (a1) (a2) : Answers (memRefOk a0) a2 (execEccWriteback a0 a1 a2) := by
  unfold execEccWriteback
  cases memRefOk a0
  · exact answers_fault
  · exact answers_kept (by simp)
theorem execSubmit_answers (a0) (a1) : Answers true a1 (execSubmit a0 a1) := by
  unfold execSubmit; with_reducible exact hostEntry_answers _ _ _ _ _ (fun s => by simp)
theorem execCancel_answers (a0) (a1) : Answers true a1 (execCancel a0 a1) := by
  unfold execCancel; with_reducible exact hostEntry_answers _ _ _ _ _ (fun s => by simp)
theorem execHold_answers (a0) (a1) : Answers true a1 (execHold a0 a1) := by
  unfold execHold; with_reducible exact hostEntry_answers _ _ _ _ _ (fun s => by simp)
theorem execRelease_answers (a0) (a1) : Answers true a1 (execRelease a0 a1) := by
  unfold execRelease; with_reducible exact hostEntry_answers _ _ _ _ _ (fun s => by simp)
theorem execReadCtx_answers (a0) (a1) : Answers true a1 (execReadCtx a0 a1) := by
  unfold execReadCtx; with_reducible exact hostEntry_answers _ _ _ _ _ (fun s => by simp)
theorem execRun_answers (a0) (a1) : Answers true a1 (execRun a0 a1) := by
  unfold execRun; with_reducible exact hostEntry_answers _ _ _ _ _ (fun s => by simp)
theorem execCast_answers (a0) (a1) : Answers true a1 (execCast a0 a1) := by
  unfold execCast; with_reducible exact hostEntry_answers _ _ _ _ _ (fun s => by simp)
theorem execReadCast_answers (a0) (a1) : Answers true a1 (execReadCast a0 a1) := by
  unfold execReadCast; with_reducible exact hostEntry_answers _ _ _ _ _ (fun s => by simp)
theorem execCreateQp_answers (a0) (a1) : Answers true a1 (execCreateQp a0 a1) := by
  unfold execCreateQp; with_reducible exact hostEntry_answers _ _ _ _ _ (fun s => by simp)
theorem execDeleteQp_answers (a0) (a1) : Answers true a1 (execDeleteQp a0 a1) := by
  unfold execDeleteQp; with_reducible exact hostEntry_answers _ _ _ _ _ (fun s => by simp)
theorem execCfgWrite_answers (a0) (a1) : Answers true a1 (execCfgWrite a0 a1) := by
  unfold execCfgWrite; with_reducible exact hostEntry_answers _ _ _ _ _ (fun s => by simp)
theorem execCfgRead_answers (a0) (a1) : Answers true a1 (execCfgRead a0 a1) := by
  unfold execCfgRead; with_reducible exact hostEntry_answers _ _ _ _ _ (fun s => by simp)
theorem execSlotLoad_answers (a0) (a1) : Answers true a1 (execSlotLoad a0 a1) := by
  unfold execSlotLoad; with_reducible exact hostEntry_answers _ _ _ _ _ (fun s => by simp)
theorem execSlotUnload_answers (a0) (a1) : Answers true a1 (execSlotUnload a0 a1) := by
  unfold execSlotUnload; with_reducible exact hostEntry_answers _ _ _ _ _ (fun s => by simp)
theorem execPlaceCreate_answers (a0) (a1) : Answers true a1 (execPlaceCreate a0 a1) := by
  unfold execPlaceCreate; with_reducible exact hostEntry_answers _ _ _ _ _ (fun s => by simp)
theorem execPlaceDestroy_answers (a0) (a1) : Answers true a1 (execPlaceDestroy a0 a1) := by
  unfold execPlaceDestroy; with_reducible exact hostEntry_answers _ _ _ _ _ (fun s => by simp)
theorem execZeroRange_answers (a0) (a1) : Answers true a1 (execZeroRange a0 a1) := by
  unfold execZeroRange; with_reducible exact hostEntry_answers _ _ _ _ _ (fun s => by simp)
theorem execZeroRangeComplete_answers (a0) (a1) : Answers true a1 (execZeroRangeComplete a0 a1) := by
  unfold execZeroRangeComplete
  repeat' (first | (refine answers_kept ?_; simp [apply_ite State.kept]; done) | split)
theorem execSqTailDoorbell_answers (a0) (a1) (a2) (a3) : Answers true a3 (execSqTailDoorbell a0 a1 a2 a3) := by
  unfold execSqTailDoorbell
  repeat' (first | with_reducible refine answers_ite ?_ ?_ | (refine answers_kept ?_; simp [apply_ite State.kept]; done) | split)
theorem execCqHeadDoorbell_answers (a0) (a1) (a2) (a3) : Answers true a3 (execCqHeadDoorbell a0 a1 a2 a3) := by
  unfold execCqHeadDoorbell
  repeat' (first | with_reducible refine answers_ite ?_ ?_ | (refine answers_kept ?_; simp [apply_ite State.kept]; done) | split)
theorem execBar4Read_answers (a0) (a1) (a2) (a3) : Answers true a3 (execBar4Read a0 a1 a2 a3) := by
  unfold execBar4Read
  repeat' (first | (with_reducible refine answers_kept ?_; first | rfl | (simp; done) | (simp [kept_foldl]; done) | (simp [kept_foldl, apply_ite State.kept]; done)) | split)
theorem execBar4Write_answers (a0) (a1) (a2) (a3) : Answers true a3 (execBar4Write a0 a1 a2 a3) := by
  unfold execBar4Write
  repeat' (first | (with_reducible refine answers_kept ?_; first | rfl | (simp; done) | (simp [kept_foldl]; done) | (simp [kept_foldl, apply_ite State.kept]; done)) | split)
theorem execHstAqenWrite_answers (a0) (a1) (a2) : Answers true a2 (execHstAqenWrite a0 a1 a2) := by
  unfold execHstAqenWrite
  repeat' (first | (refine answers_kept ?_; simp [apply_ite State.kept]; done) | split)
theorem execMsixCoalesceTimer_answers (a0) (a1) (a2) : Answers true a2 (execMsixCoalesceTimer a0 a1 a2) := by
  unfold execMsixCoalesceTimer
  dsimp only
  repeat' (first | (refine answers_atTime a1 ?_; simp [apply_ite State.kept]; done) | split)
theorem execStepCommandComplete_answers (a0) (a1) (a2) (a3) : Answers true a3 (execStepCommandComplete a0 a1 a2 a3) := by
  unfold execStepCommandComplete
  repeat' (first | with_reducible refine answers_ite ?_ ?_ | (refine answers_kept ?_; simp [apply_ite State.kept]; done)
                 | (refine answers_atTime a2 ?_; simp [apply_ite State.kept]; done) | split)
theorem execStepFormation_answers (a0) (a1) (a2) (a3) : Answers true a3 (execStepFormation a0 a1 a2 a3) := by
  unfold execStepFormation
  refine answers_atTime a2 ?_; simp [apply_ite State.kept]
theorem execStepLimitExpiry_answers (a0) (a1) (a2) (a3) : Answers true a3 (execStepLimitExpiry a0 a1 a2 a3) := by
  unfold execStepLimitExpiry
  dsimp only
  repeat' (first | (refine answers_atTime a2 ?_; simp [apply_ite State.kept]; done) | split)
theorem execDeferExpiry_answers (a0) (a1) (a2) : Answers true a2 (execDeferExpiry a0 a1 a2) := by
  unfold execDeferExpiry
  repeat' (first | with_reducible refine answers_ite ?_ ?_ | (refine answers_atTime a1 ?_; simp [apply_ite State.kept]; done))
theorem execBucketRefill_answers (a0) (a1) (a2) : Answers true a2 (execBucketRefill a0 a1 a2) := by
  unfold execBucketRefill
  repeat' (first | with_reducible refine answers_ite ?_ ?_ | (refine answers_kept ?_; simp [apply_ite State.kept]; done))
theorem execTokenSeal_answers (a0) (a1) (a2) (a3) : Answers true a3 (execTokenSeal a0 a1 a2 a3) := by
  unfold execTokenSeal
  refine answers_trans_time a2 ?_
  dsimp only
  refine answers_ite answers_same (answers_ite (answers_kept ?_) (answers_ite (answers_kept ?_) (answers_kept ?_)))
  · rw [settleSnow_kept, failRequest_kept]
  · simp
  · rw [settleSnow_kept, writeOutput_kept, popSeal_kept]
theorem execContextFree_answers (a0) (a1) (a2) : Answers true a2 (execContextFree a0 a1 a2) := by
  unfold execContextFree
  refine answers_trans_time a1 (answers_ite answers_same (answers_kept ?_))
  rw [settleSnow_kept, admissionPass_kept, State.setCtx_kept, writeBackCtx_kept]
theorem execSchSnowCfgWrite_answers (a0) (a1) (a2) (a3) : Answers true a3 (execSchSnowCfgWrite a0 a1 a2 a3) := by
  unfold execSchSnowCfgWrite
  repeat' (first | (refine answers_kept ?_; simp [apply_ite State.kept]; done) | split)
theorem execSchSnowStatWrite_answers (a0) (a1) (a2) (a3) : Answers true a3 (execSchSnowStatWrite a0 a1 a2 a3) := by
  unfold execSchSnowStatWrite
  repeat' (first | (refine answers_kept ?_; simp [apply_ite State.kept]; done) | split)
theorem execSchMeasGo_answers (a0) (a1) (a2) : Answers true a2 (execSchMeasGo a0 a1 a2) := by
  unfold execSchMeasGo
  repeat' (first | (refine answers_kept ?_; simp [apply_ite State.kept]; done) | split)
theorem execSchMeasSnapshotDone_answers (a0) (a1) : Answers true a1 (execSchMeasSnapshotDone a0 a1) := by
  unfold execSchMeasSnapshotDone
  exact answers_kept (by simp)
theorem execCommandEnd_answers (a0) (a1) (a2) : Answers true a2 (execCommandEnd a0 a1 a2) := by
  unfold execCommandEnd
  dsimp only
  repeat' (first | (refine answers_atTime a1 ?_; simp [apply_ite State.kept]; done) | split)
theorem execRealignment_answers (a0) (a1) (a2) : Answers true a2 (execRealignment a0 a1 a2) := by
  unfold execRealignment; dsimp only
  split
  · exact answers_atTime a1 rfl
  have h : ∀ d, (((compareAll ((a2.atTime a1).placeCores a0) (performAll (a2.atTime a1))).1.foldl (fun s a => recordAlign s a.1 a.2 d)
      (compareAll ((a2.atTime a1).placeCores a0) (performAll (a2.atTime a1))).2)).kept = (a2.atTime a1).kept := by
    intro d; rw [kept_foldl _ _ _ (fun s c => recordAlign_kept ..)]; simp
  have h := h ((compareAll ((a2.atTime a1).placeCores a0) (performAll (a2.atTime a1))).1.any fun a => a.2.bad)
  revert h; generalize List.foldl _ _ _ = z; intro h
  repeat' (first | (with_reducible refine answers_atTime a1 ?_; first | rfl | (simp; done) | (simp [h]; done)) | split)
theorem execCastComplete_answers (a0) (a1) (a2) : Answers true a2 (execCastComplete a0 a1 a2) := by
  unfold execCastComplete; dsimp only
  repeat' (first | (with_reducible refine answers_atTime a1 ?_; first | rfl | (simp; done) | (simp [kept_foldl]; done) | (simp [kept_foldl, apply_ite State.kept]; done)) | split)
theorem execCmdLimitExpiry_answers (a0) (a1) (a2) : Answers true a2 (execCmdLimitExpiry a0 a1 a2) := by
  unfold execCmdLimitExpiry
  dsimp only
  repeat' (first | (refine answers_atTime a1 ?_; simp [apply_ite State.kept]; done) | split)
theorem execDrain_answers (a0) (a1) : Answers true a1 (execDrain a0 a1) := by
  unfold execDrain
  exact answers_kept (by simp)
theorem execDrainComplete_answers (a0) (a1) : Answers true a1 (execDrainComplete a0 a1) := by
  unfold execDrainComplete
  exact answers_kept (by rw [settleSets_kept]; exact kept_ite (by simp) rfl)
theorem execRestore_answers (a0) (a1) : Answers true a1 (execRestore a0 a1) := by
  unfold execRestore; dsimp only
  repeat' (first | (with_reducible refine answers_kept ?_; first | rfl | (simp; done) | (simp [kept_foldl]; done) | (simp [kept_foldl, apply_ite State.kept]; done)) | split)
theorem execFaultReport_answers (a0) (a1) (a2) : Answers true a2 (execFaultReport a0 a1 a2) := by
  unfold execFaultReport
  refine answers_atTime a1 ?_; simp [apply_ite State.kept]
theorem execStepCancel_answers (a0) (a1) (a2) (a3) : Answers true a3 (execStepCancel a0 a1 a2 a3) := by
  unfold execStepCancel
  repeat' (first | (refine answers_atTime a2 ?_; simp [apply_ite State.kept]; done) | split)
theorem execErrUnitSet_answers (a0) (a1) (a2) (a3) (a4) (a5) : Answers true a5 (execErrUnitSet a0 a1 a2 a3 a4 a5) := by
  unfold execErrUnitSet; with_reducible exact mgmtEntry_answers _ _ _ _ (fun s => .inr ⟨a4, by simp⟩)
theorem execErrUnitReconcile_answers (a0) (a1) (a2) (a3) (a4) (a5) : Answers true a5 (execErrUnitReconcile a0 a1 a2 a3 a4 a5) := by
  unfold execErrUnitReconcile; with_reducible exact mgmtEntry_answers _ _ _ _ (fun s => .inr ⟨a4, by simp⟩)
theorem execErrPolicyWrite_answers (a0) (a1) (a2) : Answers true a2 (execErrPolicyWrite a0 a1 a2) := by
  unfold execErrPolicyWrite; with_reducible exact mgmtEntry_answers _ _ _ _ (fun s => .inl (by simp))
theorem execSecHpkeRotate_answers (a0) (a1) (a2) (a3) : Answers true a3 (execSecHpkeRotate a0 a1 a2 a3) := by
  unfold execSecHpkeRotate
  repeat' (first | with_reducible refine answers_ite ?_ ?_ | (refine answers_atTime a2 ?_; simp [apply_ite State.kept]; done))
theorem execHpkeAutoRotate_answers (a0) (a1) (a2) : Answers true a2 (execHpkeAutoRotate a0 a1 a2) := by
  unfold execHpkeAutoRotate
  dsimp only
  repeat' (first | (refine answers_atTime a1 ?_; simp [apply_ite State.kept]; done) | split)
theorem execChallenge_answers (a0) (a1) (a2) : Answers true a2 (execChallenge a0 a1 a2) := by
  unfold execChallenge; with_reducible exact spdmDraw_answers _ _ _ _ (fun s => by simp)
theorem execGetMeasurements_answers (a0) (a1) (a2) (a3) : Answers true a3 (execGetMeasurements a0 a1 a2 a3) := by
  unfold execGetMeasurements; with_reducible exact spdmDraw_answers _ _ _ _ (fun s => by simp)
theorem execKeyExchange_answers (a0) (a1) (a2) : Answers true a2 (execKeyExchange a0 a1 a2) := by
  unfold execKeyExchange; with_reducible exact spdmDraw_answers _ _ _ _ (fun s => by simp)
theorem execPldmFirmwareUpdate_answers (a0) (a1) : Answers true a1 (execPldmFirmwareUpdate a0 a1) := by
  unfold execPldmFirmwareUpdate; with_reducible exact firmwareEntry_answers _ _ _ (fun s => by simp)
theorem execPldmActivate_answers (a0) (a1) : Answers true a1 (execPldmActivate a0 a1) := by
  unfold execPldmActivate; with_reducible exact firmwareEntry_answers _ _ _ (fun s => by simp)
theorem execNvStore_answers (a0) (a1) (a2) : Answers true a2 (execNvStore a0 a1 a2) := by
  unfold execNvStore; with_reducible exact mgmtEntry_answers _ _ _ _ (fun s => .inr ⟨a1, by simp⟩)
theorem execPwrCapWrite_answers (a0) (a1) (a2) : Answers true a2 (execPwrCapWrite a0 a1 a2) := by
  unfold execPwrCapWrite; with_reducible exact mgmtEntry_answers _ _ _ _ (fun s => .inl (by simp))
theorem execPwrDieCtlWrite_answers (a0) (a1) (a2) (a3) : Answers true a3 (execPwrDieCtlWrite a0 a1 a2 a3) := by
  unfold execPwrDieCtlWrite; with_reducible exact mgmtEntry_answers _ _ _ _ (fun s => .inl (by simp))
theorem execReservedOpcode_answers (a0) (a1) (a2) : Answers (isCore a0.core) a2 (execReservedOpcode a0 a1 a2) := by
  unfold execReservedOpcode
  exact answers_ite answers_same (issue_answers _ _ _ _ _ _ (fun x hx => hx))
theorem execFenceNotice_answers (a0) (a1) (a2) : Answers (isCore a1) a2 (execFenceNotice a0 a1 a2) := by
  unfold execFenceNotice
  repeat' (first | with_reducible refine answers_core ?_ | (refine answers_kept ?_; simp [apply_ite State.kept]; done) | split)
theorem execLostAnswerTimeout_answers (a0) (a1) (a2) (a3) : Answers (isCore a0) a3 (execLostAnswerTimeout a0 a1 a2 a3) := by
  unfold execLostAnswerTimeout
  dsimp only
  repeat' (first | with_reducible refine answers_core ?_ | (refine answers_atTime a2 ?_; simp [apply_ite State.kept]; done) | split)
theorem execRouterSilentTimeout_answers (a0) (a1) (a2) : Answers (isCore a0) a2 (execRouterSilentTimeout a0 a1 a2) := by
  unfold execRouterSilentTimeout; with_reducible exact onCore_answers _ _ _ (fun s => .inr ⟨a1, by simp⟩)
theorem execEngineWatchdog_answers (a0) (a1) (a2) : Answers (isCore a0) a2 (execEngineWatchdog a0 a1 a2) := by
  unfold execEngineWatchdog
  with_reducible refine onCore_answers _ _ _ (fun s => .inr ⟨a1, ?_⟩)
  (simp [kept_foldl, apply_ite State.kept]; done)
theorem execHeartbeatTimeout_answers (a0) (a1) (a2) : Answers true a2 (execHeartbeatTimeout a0 a1 a2) := by
  unfold execHeartbeatTimeout
  repeat' (first | (refine answers_atTime a1 ?_; simp [apply_ite State.kept]; done) | split)
theorem execSelfTestComplete_answers (a0) (a1) (a2) (a3) : Answers true a3 (execSelfTestComplete a0 a1 a2 a3) := by
  unfold execSelfTestComplete
  repeat' (first | with_reducible refine answers_ite ?_ ?_ | (refine answers_atTime a2 ?_; simp [apply_ite State.kept]; done))
theorem execSpareSubstitution_answers (a0) (a1) (a2) : Answers (isCore a0) a2 (execSpareSubstitution a0 a1 a2) := by
  unfold execSpareSubstitution
  with_reducible refine onCore_answers _ _ _ (fun s => .inr ⟨a1, ?_⟩)
  (simp [kept_foldl, apply_ite State.kept]; done)
theorem execSpareSubstitutionComplete_answers (a0) (a1) (a2) : Answers (isCore a0) a2 (execSpareSubstitutionComplete a0 a1 a2) := by
  unfold execSpareSubstitutionComplete
  with_reducible refine onCore_answers _ _ _ (fun s => .inr ⟨a1, ?_⟩)
  dsimp only
  repeat' (first | (simp [kept_foldl, apply_ite State.kept]; done) | split)
theorem execLockstepMismatch_answers (a0) (a1) : Answers true a1 (execLockstepMismatch a0 a1) := by
  unfold execLockstepMismatch
  repeat' (first | (refine answers_kept ?_; simp [apply_ite State.kept]; done) | (refine answers_atTime a0 ?_; simp [apply_ite State.kept]; done)
                 | split)
theorem execSchedulerMismatch_answers (a0) (a1) : Answers true a1 (execSchedulerMismatch a0 a1) := by
  unfold execSchedulerMismatch
  refine answers_atTime a0 ?_; simp [apply_ite State.kept]
theorem comparatorTest_kept (s n d) : (comparatorTest s n d).kept = s.kept := by
  unfold comparatorTest
  split <;> simp
theorem execLockstepCheckerTest_answers (a0) (a1) (a2) : Answers true a2 (execLockstepCheckerTest a0 a1 a2) := by
  unfold execLockstepCheckerTest
  refine answers_atTime a1 ?_
  rw [comparatorTest_kept, comparatorTest_kept]
theorem execControllerWatchdog_answers (a0) (a1) : Answers true a1 (execControllerWatchdog a0 a1) := by
  unfold execControllerWatchdog
  repeat' (first | (refine answers_kept ?_; simp [apply_ite State.kept]; done) | (refine answers_atTime a0 ?_; simp [apply_ite State.kept]; done)
                 | split)
theorem execCapacityLoss_answers (a0) (a1) (a2) : Answers true a2 (execCapacityLoss a0 a1 a2) := by
  unfold execCapacityLoss
  refine answers_atTime a1 ?_; simp [apply_ite State.kept]
theorem execAltPlacementTimeout_answers (a0) (a1) (a2) (a3) : Answers true a3 (execAltPlacementTimeout a0 a1 a2 a3) := by
  unfold execAltPlacementTimeout; dsimp only
  repeat' (first | (with_reducible refine answers_atTime a2 ?_; first | rfl | (simp; done) | (simp [kept_foldl]; done) | (simp [kept_foldl, apply_ite State.kept]; done)) | split)
theorem execEntropyFailTimeout_answers (a0) (a1) : Answers true a1 (execEntropyFailTimeout a0 a1) := by
  unfold execEntropyFailTimeout
  dsimp only
  repeat' (first | (refine answers_atTime a0 ?_; simp [apply_ite State.kept]; done) | split)
theorem execEntropyHealthTestFail_answers (a0) (a1) : Answers true a1 (execEntropyHealthTestFail a0 a1) := by
  unfold execEntropyHealthTestFail
  repeat' (first | with_reducible refine answers_ite ?_ ?_ | (refine answers_atTime a0 ?_; simp [apply_ite State.kept]; done))
theorem execEntropyHealthTestPass_answers (a0) (a1) : Answers true a1 (execEntropyHealthTestPass a0 a1) := by
  unfold execEntropyHealthTestPass
  (with_reducible refine answers_atTime a0 ?_; first | rfl | (simp; done) | (simp [kept_foldl]; done) | (simp [kept_foldl, apply_ite State.kept]; done))
theorem execTdiLeaveRun_answers (a0) (a1) (a2) : Answers true a2 (execTdiLeaveRun a0 a1 a2) := by
  unfold execTdiLeaveRun
  dsimp only
  repeat' (first | (refine answers_atTime a1 ?_; simp [apply_ite State.kept]; done) | split)
theorem execTdiEnterRun_answers (a0) (a1) (a2) : Answers true a2 (execTdiEnterRun a0 a1 a2) := by
  unfold execTdiEnterRun
  refine answers_atTime a1 ?_; simp [apply_ite State.kept]
theorem execIdeTlpReceive_answers (a0) (a1) (a2) (a3) (a4) : Answers true a4 (execIdeTlpReceive a0 a1 a2 a3 a4) := by
  unfold execIdeTlpReceive
  repeat' (first | with_reducible refine answers_ite ?_ ?_ | (refine answers_kept ?_; simp [apply_ite State.kept]; done))
theorem execTdiConfigLock_answers (a0) (a1) (a2) : Answers true a2 (execTdiConfigLock a0 a1 a2) := by
  unfold execTdiConfigLock
  exact answers_kept (by simp)
theorem execIdeKmKeyProgramming_answers (a0) (a1) (a2) (a3) : Answers true a3 (execIdeKmKeyProgramming a0 a1 a2 a3) := by
  unfold execIdeKmKeyProgramming
  repeat' (first | (refine answers_kept ?_; simp [apply_ite State.kept]; done) | split)
theorem execGetVersion_answers (a0) (a1) : Answers true a1 (execGetVersion a0 a1) := by
  unfold execGetVersion; exact spdmPlain_answers _ _ _ _ (fun s => by simp)
theorem execGetCapabilities_answers (a0) (a1) : Answers true a1 (execGetCapabilities a0 a1) := by
  unfold execGetCapabilities; exact spdmPlain_answers _ _ _ _ (fun s => by simp)
theorem execNegotiateAlgorithms_answers (a0) (a1) : Answers true a1 (execNegotiateAlgorithms a0 a1) := by
  unfold execNegotiateAlgorithms; exact spdmPlain_answers _ _ _ _ (fun s => by simp)
theorem execGetDigests_answers (a0) (a1) : Answers true a1 (execGetDigests a0 a1) := by
  unfold execGetDigests; exact spdmPlain_answers _ _ _ _ (fun s => by simp)
theorem execGetCertificate_answers (a0) (a1) (a2) : Answers true a2 (execGetCertificate a0 a1 a2) := by
  unfold execGetCertificate; exact spdmPlain_answers _ _ _ _ (fun s => by simp)
theorem execFinish_answers (a0) (a1) (a2) : Answers true a2 (execFinish a0 a1 a2) := by
  unfold execFinish
  exact spdmPlain_answers _ _ _ _ (fun s => by simp)
theorem execEndSession_answers (a0) (a1) : Answers true a1 (execEndSession a0 a1) := by
  unfold execEndSession
  exact spdmPlain_answers _ _ _ _ (fun s => by simp)
theorem execPqSign_answers (a0) (a1) (a2) : Answers true a2 (execPqSign a0 a1 a2) := by
  unfold execPqSign
  exact spdmPlain_answers _ _ _ _ (fun s => by simp)
theorem execDebugUnlock_answers (a0) (a1) (a2) : Answers true a2 (execDebugUnlock a0 a1 a2) := by
  unfold execDebugUnlock
  exact answers_trans_time a1 (spdmPlain_answers _ _ _ _ (fun s => by simp))
theorem execLifecycleTransition_answers (a0) (a1) (a2) (a3) : Answers true a3 (execLifecycleTransition a0 a1 a2 a3) := by
  unfold execLifecycleTransition
  exact answers_trans_time a2 (spdmPlain_answers _ _ _ _ (fun s => by simp))
theorem execMctpControl_answers (a0) (a1) : Answers true a1 (execMctpControl a0 a1) := by
  unfold execMctpControl
  exact firmwareEntry_answers _ _ _ (fun s => by simp)
theorem execI3cAddressTimeout_answers (a0) (a1) : Answers true a1 (execI3cAddressTimeout a0 a1) := by
  unfold execI3cAddressTimeout
  repeat' (first | with_reducible refine answers_ite ?_ ?_ | (refine answers_atTime a0 ?_; simp [apply_ite State.kept]; done))
theorem execDynamicAddressAssignment_answers (a0) (a1) : Answers true a1 (execDynamicAddressAssignment a0 a1) := by
  unfold execDynamicAddressAssignment
  repeat' (first | (refine answers_kept ?_; simp [apply_ite State.kept]; done) | split)
theorem execNvStoreComplete_answers (a0) (a1) : Answers true a1 (execNvStoreComplete a0 a1) := by
  unfold execNvStoreComplete
  repeat' (first | with_reducible refine answers_ite ?_ ?_ | (refine answers_kept ?_; simp [apply_ite State.kept]; done) | split)
theorem execNvStoreWindowExpiry_answers (a0) (a1) : Answers true a1 (execNvStoreWindowExpiry a0 a1) := by
  unfold execNvStoreWindowExpiry
  refine answers_atTime a0 ?_; simp [apply_ite State.kept]
theorem execPowerEvaluation_answers (a0) (a1) (a2) (a3) : Answers true a3 (execPowerEvaluation a0 a1 a2 a3) := by
  unfold execPowerEvaluation
  repeat' (first | with_reducible refine answers_ite ?_ ?_ | (refine answers_atTime a2 ?_; simp [apply_ite State.kept]; done))
theorem execFrequencySwitch_answers (a0) (a1) : Answers true a1 (execFrequencySwitch a0 a1) := by
  unfold execFrequencySwitch
  repeat' (first | (refine answers_kept ?_; simp [apply_ite State.kept]; done) | split)
theorem execCoolantOutOfRange_answers (a0) (a1) : Answers true a1 (execCoolantOutOfRange a0 a1) := by
  unfold execCoolantOutOfRange
  dsimp only
  repeat' (first | (refine answers_atTime a0 ?_; simp [apply_ite State.kept]; done) | split)
theorem execCoolantRecovered_answers (a0) (a1) : Answers true a1 (execCoolantRecovered a0 a1) := by
  unfold execCoolantRecovered
  dsimp only
  repeat' (first | (refine answers_atTime a0 ?_; simp [apply_ite State.kept]; done) | split)
theorem execTelemetryRefresh_answers (a0) (a1) (a2) : Answers true a2 (execTelemetryRefresh a0 a1 a2) := by
  unfold execTelemetryRefresh
  repeat' (first | with_reducible refine answers_ite ?_ ?_ | (refine answers_atTime a1 ?_; simp [apply_ite State.kept]; done))
theorem execPackageTimeResync_answers (a0) (a1) : Answers true a1 (execPackageTimeResync a0 a1) := by
  unfold execPackageTimeResync
  repeat' (first | (refine answers_kept ?_; simp [apply_ite State.kept]; done) | (refine answers_atTime a0 ?_; simp [apply_ite State.kept]; done)
                 | split)
theorem rebooted_kept (s : State) : (rebooted s).kept = s.kept := rfl
theorem execColdReset_answers (a0) (a1) : Answers true a1 (execColdReset a0 a1) := by
  unfold execColdReset
  exact answers_ite (answers_atTime a0 (rebooted_kept _)) answers_same
theorem execWarmReset_answers (a0) (a1) : Answers true a1 (execWarmReset a0 a1) := by
  unfold execWarmReset
  refine answers_ite (answers_atTime a0 ?_) answers_same
  exact (withRemaps_kept (a1.atTime a0) (rebooted (a1.atTime a0))).trans (rebooted_kept _)
theorem execPortReset_answers (a0) (a1) : Answers true a1 (execPortReset a0 a1) := by
  unfold execPortReset
  repeat' (first | (with_reducible refine answers_kept ?_; first | rfl | (simp; done) | (simp [kept_foldl]; done) | (simp [kept_foldl, apply_ite State.kept]; done)) | split)
theorem execFlr_answers (a0) (a1) : Answers true a1 (execFlr a0 a1) := by
  unfold execFlr
  repeat' (first | (refine answers_kept ?_; simp [apply_ite State.kept]; done) | split)
theorem execBootStageComplete_answers (a0) (a1) (a2) : Answers true a2 (execBootStageComplete a0 a1 a2) := by
  unfold execBootStageComplete; dsimp only
  repeat' (first | (with_reducible refine answers_atTime a1 ?_; first | rfl | (simp; done) | (simp [kept_foldl]; done) | (simp [kept_foldl, apply_ite State.kept]; done)) | split)
theorem execPerstDeassertion_answers (a0) (a1) : Answers true a1 (execPerstDeassertion a0 a1) := by
  unfold execPerstDeassertion
  exact answers_kept (by simp)
theorem execCurrentStretch_answers (a0) : Answers true a0 (execCurrentStretch a0) := by
  unfold execCurrentStretch
  repeat' (first | (refine answers_kept ?_; simp [apply_ite State.kept]; done) | split)
theorem execThermtrip_answers (a0) : Answers true a0 (execThermtrip a0) := by
  unfold execThermtrip
  repeat' (first | (refine answers_kept ?_; simp [apply_ite State.kept]; done) | split)
theorem execEmergencyStop_answers (a0) : Answers true a0 (execEmergencyStop a0) := by
  unfold execEmergencyStop
  repeat' (first | (refine answers_kept ?_; simp [apply_ite State.kept]; done) | split)
theorem execVddAonApplied_pending (s : State) : ∃ t, execVddAonApplied s = .next t ∧ t.pending = s.pending := by
  unfold execVddAonApplied
  split <;> exact ⟨_, rfl, rfl⟩
theorem execVddAonRemoved_answers (a0) : Answers true a0 (execVddAonRemoved a0) := by
  unfold execVddAonRemoved
  exact answers_kept (by simp)
theorem execControllerRestartDone_answers (a0) : Answers true a0 (execControllerRestartDone a0) := by
  unfold execControllerRestartDone
  repeat' (first | (with_reducible refine answers_kept ?_; first | rfl | (simp; done) | (simp [kept_foldl]; done) | (simp [kept_foldl, apply_ite State.kept]; done)) | split)
theorem execSchedulerReloadComplete_answers (a0) : Answers true a0 (execSchedulerReloadComplete a0) := by
  unfold execSchedulerReloadComplete
  repeat' (first | (with_reducible refine answers_kept ?_; first | rfl | (simp; done) | (simp [kept_foldl]; done) | (simp [kept_foldl, apply_ite State.kept]; done)) | split)

end Sys2Proof.Machine
end

