-- ==== Sys2Proof/Laws/Tab.lean ====
section
/-! SUPPORT. The laws of finite tables and of memories: a read after a write, writes that leave other keys alone, and the canonical form
that every write keeps. -/

namespace Sys2Proof.Machine

variable {α : Type}

theorem tabLook_tabPut_same (t : Tab α) (k : Nat) (v : α) : tabLook (tabPut t k v) k = some v := by
  induction t with
  | nil => simp [tabPut, tabLook]
  | cons e r ih =>
    obtain ⟨k', v'⟩ := e
    unfold tabPut
    split
    · simp [tabLook]
    · split
      · simp [tabLook]
      · rename_i h1 h2
        simp only [tabLook, if_neg (show ¬ k' = k from fun h => h2 h.symm), ih]

theorem tabLook_tabPut_ne (t : Tab α) {k j : Nat} (v : α) (h : j ≠ k) : tabLook (tabPut t k v) j = tabLook t j := by
  induction t with
  | nil => simp [tabPut, tabLook, Ne.symm h]
  | cons e r ih =>
    obtain ⟨k', v'⟩ := e
    unfold tabPut
    split
    · simp [tabLook, Ne.symm h]
    · split
      · rename_i h1 h2
        subst h2
        simp [tabLook, Ne.symm h]
      · simp only [tabLook, ih]

@[simp] theorem tabGet_tabPut_same (d : α) (t : Tab α) (k : Nat) (v : α) : tabGet d (tabPut t k v) k = v := by
  simp [tabGet, tabLook_tabPut_same]

theorem tabGet_tabPut_ne (d : α) (t : Tab α) {k j : Nat} (v : α) (h : j ≠ k) : tabGet d (tabPut t k v) j = tabGet d t j := by
  simp [tabGet, tabLook_tabPut_ne t v h]

theorem tabGet_tabPut (d : α) (t : Tab α) (k j : Nat) (v : α) : tabGet d (tabPut t k v) j = if j = k then v else tabGet d t j := by
  split
  · rename_i h; subst h; simp
  · rename_i h; exact tabGet_tabPut_ne d t v h

@[simp] theorem tabGet_nil (d : α) (k : Nat) : tabGet d [] k = d := rfl

/-! ## Rising keys -/

theorem tabRising_mono {lo lo' : Nat} {t : Tab α} (h : lo' ≤ lo) (ht : tabRising lo t = true) : tabRising lo' t = true := by
  cases t with
  | nil => rfl
  | cons e r =>
    simp only [tabRising, Bool.and_eq_true, decide_eq_true_eq] at ht ⊢
    exact ⟨by omega, ht.2⟩

theorem tabLook_below {lo k : Nat} {t : Tab α} (ht : tabRising lo t = true) (h : k < lo) : tabLook t k = none := by
  induction t generalizing lo with
  | nil => rfl
  | cons e r ih =>
    obtain ⟨k', v'⟩ := e
    simp only [tabRising, Bool.and_eq_true, decide_eq_true_eq] at ht
    simp only [tabLook, if_neg (show ¬ k' = k by omega)]
    exact ih ht.2 (by omega)

theorem tabRising_tabPut {lo k : Nat} {t : Tab α} (v : α) (ht : tabRising lo t = true) (h : lo ≤ k) :
    tabRising lo (tabPut t k v) = true := by
  induction t generalizing lo with
  | nil => simp [tabPut, tabRising, h]
  | cons e r ih =>
    obtain ⟨k', v'⟩ := e
    simp only [tabRising, Bool.and_eq_true, decide_eq_true_eq] at ht
    unfold tabPut
    split
    · simp only [tabRising, Bool.and_eq_true, decide_eq_true_eq]
      exact ⟨h, by omega, ht.2⟩
    · split
      · rename_i h2
        subst h2
        simp only [tabRising, Bool.and_eq_true, decide_eq_true_eq]
        exact ⟨h, ht.2⟩
      · simp only [tabRising, Bool.and_eq_true, decide_eq_true_eq]
        exact ⟨ht.1, ih ht.2 (by omega)⟩

theorem tabRising_tabDel {lo k : Nat} {t : Tab α} (ht : tabRising lo t = true) : tabRising lo (tabDel t k) = true := by
  induction t generalizing lo with
  | nil => rfl
  | cons e r ih =>
    obtain ⟨k', v'⟩ := e
    simp only [tabRising, Bool.and_eq_true, decide_eq_true_eq] at ht
    unfold tabDel
    split
    · exact tabRising_mono (by omega) ht.2
    · simp only [tabRising, Bool.and_eq_true, decide_eq_true_eq]
      exact ⟨ht.1, ih ht.2⟩

theorem tabLook_tabDel_same {lo k : Nat} {t : Tab α} (ht : tabRising lo t = true) : tabLook (tabDel t k) k = none := by
  induction t generalizing lo with
  | nil => rfl
  | cons e r ih =>
    obtain ⟨k', v'⟩ := e
    simp only [tabRising, Bool.and_eq_true, decide_eq_true_eq] at ht
    unfold tabDel
    split
    · rename_i h; subst h; exact tabLook_below ht.2 (by omega)
    · rename_i h
      simp only [tabLook, if_neg h]
      exact ih ht.2

theorem tabLook_tabDel_ne {k j : Nat} (t : Tab α) (h : j ≠ k) : tabLook (tabDel t k) j = tabLook t j := by
  induction t with
  | nil => rfl
  | cons e r ih =>
    obtain ⟨k', v'⟩ := e
    unfold tabDel
    split
    · rename_i h2
      subst h2
      simp [tabLook, Ne.symm h]
    · simp only [tabLook, ih]

theorem all_tabPut {p : Nat × α → Bool} {t : Tab α} {k : Nat} {v : α} (h : t.all p = true) (hv : p (k, v) = true) :
    (tabPut t k v).all p = true := by
  induction t with
  | nil => simp [tabPut, hv]
  | cons e r ih =>
    obtain ⟨k', v'⟩ := e
    simp only [List.all_cons, Bool.and_eq_true] at h
    unfold tabPut
    split
    · simp only [List.all_cons, Bool.and_eq_true]; exact ⟨hv, h⟩
    · split
      · simp only [List.all_cons, Bool.and_eq_true]; exact ⟨hv, h.2⟩
      · simp only [List.all_cons, Bool.and_eq_true]; exact ⟨h.1, ih h.2⟩

theorem all_tabDel {p : Nat × α → Bool} {t : Tab α} (k : Nat) (h : t.all p = true) : (tabDel t k).all p = true := by
  induction t with
  | nil => rfl
  | cons e r ih =>
    obtain ⟨k', v'⟩ := e
    simp only [List.all_cons, Bool.and_eq_true] at h
    unfold tabDel
    split
    · exact h.2
    · simp only [List.all_cons, Bool.and_eq_true]; exact ⟨h.1, ih h.2⟩

/-! ## Memories: writes that list no default value -/

variable [DecidableEq α]

theorem tabGet_tabSet_ne (d : α) (t : Tab α) {k j : Nat} (v : α) (h : j ≠ k) : tabGet d (tabSet d t k v) j = tabGet d t j := by
  unfold tabSet
  split
  · simp [tabGet, tabLook_tabDel_ne t h]
  · exact tabGet_tabPut_ne d t v h

theorem tabGet_tabSet_same {d : α} {t : Tab α} (k : Nat) (v : α) (ht : tabRising 0 t = true) : tabGet d (tabSet d t k v) k = v := by
  unfold tabSet
  split
  · rename_i h; simp [tabGet, tabLook_tabDel_same ht, h]
  · simp

/-- A write keeps the canonical form. -/
theorem tabWf_tabSet {d : α} {t : Tab α} (k : Nat) (v : α) (h : tabWf d t = true) : tabWf d (tabSet d t k v) = true := by
  simp only [tabWf, Bool.and_eq_true] at h ⊢
  unfold tabSet
  split
  · exact ⟨tabRising_tabDel h.1, all_tabDel k h.2⟩
  · rename_i hv; exact ⟨tabRising_tabPut v h.1 (Nat.zero_le _), all_tabPut h.2 (by simpa using hv)⟩

theorem tabWf_nil (d : α) : tabWf d ([] : Tab α) = true := rfl

theorem tabWf_filter {d : α} {t : Tab α} (p : Nat × α → Bool) (h : tabWf d t = true) : tabWf d (t.filter p) = true := by
  simp only [tabWf, Bool.and_eq_true] at h ⊢
  refine ⟨?_, ?_⟩
  · have : ∀ (t : Tab α) (lo : Nat), tabRising lo t = true → tabRising lo (t.filter p) = true := by
      intro t
      induction t with
      | nil => intro lo _; rfl
      | cons e r ih =>
        intro lo ht
        simp only [tabRising, Bool.and_eq_true, decide_eq_true_eq] at ht
        rw [List.filter_cons]
        split
        · simp only [tabRising, Bool.and_eq_true, decide_eq_true_eq]
          exact ⟨ht.1, ih _ ht.2⟩
        · exact tabRising_mono (by omega) (ih _ ht.2)
    exact this t 0 h.1
  · rw [List.all_eq_true] at *
    intro e he
    exact h.2 e (List.mem_filter.1 he).1

/-- Clearing a range keeps the canonical form. -/
theorem tabWf_tabClear {d : α} {t : Tab α} (lo hi : Nat) (h : tabWf d t = true) : tabWf d (tabClear lo hi t) = true := tabWf_filter _ h

/-- Writing bytes keeps the canonical form. -/
theorem tabWf_putBytes {d : Byte} {m : Tab Byte} (a : Nat) (bs : List Byte) (h : tabWf d m = true) : tabWf d (putBytes d m a bs) = true := by
  induction bs generalizing m a with
  | nil => exact h
  | cons b bs ih => exact ih _ (tabWf_tabSet a b h)

/-- Bytes outside a written range read as before. -/
theorem tabGet_putBytes_out {d : Byte} {m : Tab Byte} {a j : Nat} (bs : List Byte) (h : j < a ∨ a + bs.length ≤ j) :
    tabGet d (putBytes d m a bs) j = tabGet d m j := by
  induction bs generalizing m a with
  | nil => rfl
  | cons b bs ih =>
    simp only [List.length_cons] at h
    rw [putBytes, ih (by omega), tabGet_tabSet_ne d m b (by omega)]

/-- Written bytes read back. -/
theorem getBytes_putBytes {d : Byte} {m : Tab Byte} (a : Nat) (bs : List Byte) (h : tabWf d m = true) :
    getBytes d (putBytes d m a bs) a bs.length = bs := by
  induction bs generalizing m a with
  | nil => rfl
  | cons b bs ih =>
    have hw := tabWf_tabSet a b h
    simp only [tabWf, Bool.and_eq_true] at h
    rw [List.length_cons, getBytes, putBytes, tabGet_putBytes_out bs (by omega), tabGet_tabSet_same a b h.1, ih _ hw]

end Sys2Proof.Machine
end

