-- ==== Sys2Proof/Laws/State.lean ====
section
/-! SUPPORT. The fields of the state under each named update: what an update does not name stays as it was, and what it names reads back. -/

namespace Sys2Proof.Machine

/-! ## Reading back -/

@[simp] theorem State.core_setCore (s : State) (c : CoreId) (k : Core) : (s.setCore c k).core c = k := tabGet_tabPut_same ..
theorem State.core_setCore_ne (s : State) (k : Core) {c c' : CoreId} (h : c' ≠ c) : (s.setCore c k).core c' = s.core c' :=
  tabGet_tabPut_ne _ _ _ (fun e => h (BitVec.eq_of_toNat_eq e))
@[simp] theorem Core.thread_setThread (k : Core) (t : BitVec 2) (x : Thread) : (k.setThread t x).thread t = x := tabGet_tabPut_same ..
theorem Core.thread_setThread_ne (k : Core) (x : Thread) {t t' : BitVec 2} (h : t' ≠ t) : (k.setThread t x).thread t' = k.thread t' :=
  tabGet_tabPut_ne _ _ _ (fun e => h (BitVec.eq_of_toNat_eq e))
@[simp] theorem State.unit_setUnit (s : State) (u : W32) (x : Unit) : (s.setUnit u x).unit u = x := tabGet_tabPut_same ..
theorem State.unit_setUnit_ne (s : State) (x : Unit) {u u' : W32} (h : u' ≠ u) : (s.setUnit u x).unit u' = s.unit u' :=
  tabGet_tabPut_ne _ _ _ (fun e => h (BitVec.eq_of_toNat_eq e))
@[simp] theorem State.place_setPlace (s : State) (n : Nat) (x : Place) : (s.setPlace n x).place n = x := tabGet_tabPut_same ..
@[simp] theorem State.mslot_setMslot (s : State) (n : Nat) (x : Slot) : (s.setMslot n x).mslot n = x := tabGet_tabPut_same ..
@[simp] theorem State.contract_setContract (s : State) (n : Nat) (x : Contract) : (s.setContract n x).contract n = x :=
  tabGet_tabPut_same ..
@[simp] theorem State.ctx_setCtx (s : State) (n : Nat) (x : Ctx) : (s.setCtx n x).ctx n = x := tabGet_tabPut_same ..
theorem State.qp_setQp (s : State) (q : QRef) (x : Qp) : (s.setQp q x).qp? q = if s.present q.fn then some x else none := by
  show (if s.present q.fn then tabLook (tabPut s.qps (qpKey q) x) (qpKey q) else none) = _
  rw [tabLook_tabPut_same]
@[simp] theorem Core.chan_setChan (k : Core) (n : Nat) (x : Chan) : (k.setChan n x).chan n = x := tabGet_tabPut_same ..
@[simp] theorem Core.inst_setInst (k : Core) (n : Nat) (i : Inst) : (k.setInst n i).inst n = i := tabGet_tabPut_same ..
@[simp] theorem State.core_report (s : State) (r : FaultRep) (c : CoreId) : (s.report r).core c = s.core c := rfl
@[simp] theorem State.core_emit (s : State) (o : Out) (c : CoreId) : (s.emit o).core c = s.core c := rfl
@[simp] theorem State.unit_setCore (s : State) (c : CoreId) (k : Core) (u : W32) : (s.setCore c k).unit u = s.unit u := rfl
@[simp] theorem State.unit_emit (s : State) (o : Out) (u : W32) : (s.emit o).unit u = s.unit u := rfl

/-! ## What an update leaves alone -/

/-! `State.setCore` changes `cores` only. -/
@[simp] theorem State.setCore_pending (s : State) (c : CoreId) (k : Core) : (s.setCore c k).pending = s.pending := rfl
@[simp] theorem State.setCore_freeCtr (s : State) (c : CoreId) (k : Core) : (s.setCore c k).freeCtr = s.freeCtr := rfl
@[simp] theorem State.setCore_pktCtr (s : State) (c : CoreId) (k : Core) : (s.setCore c k).pktCtr = s.pktCtr := rfl
@[simp] theorem State.setCore_part384 (s : State) (c : CoreId) (k : Core) : (s.setCore c k).part384 = s.part384 := rfl
@[simp] theorem State.setCore_phase (s : State) (c : CoreId) (k : Core) : (s.setCore c k).phase = s.phase := rfl
@[simp] theorem State.setCore_stage (s : State) (c : CoreId) (k : Core) : (s.setCore c k).stage = s.stage := rfl
@[simp] theorem State.setCore_warm (s : State) (c : CoreId) (k : Core) : (s.setCore c k).warm = s.warm := rfl
@[simp] theorem State.setCore_aon (s : State) (c : CoreId) (k : Core) : (s.setCore c k).aon = s.aon := rfl
@[simp] theorem State.setCore_time (s : State) (c : CoreId) (k : Core) : (s.setCore c k).time = s.time := rfl
@[simp] theorem State.setCore_net (s : State) (c : CoreId) (k : Core) : (s.setCore c k).net = s.net := rfl
@[simp] theorem State.setCore_commons (s : State) (c : CoreId) (k : Core) : (s.setCore c k).commons = s.commons := rfl
@[simp] theorem State.setCore_sliceInst (s : State) (c : CoreId) (k : Core) : (s.setCore c k).sliceInst = s.sliceInst := rfl
@[simp] theorem State.setCore_hbm (s : State) (c : CoreId) (k : Core) : (s.setCore c k).hbm = s.hbm := rfl
@[simp] theorem State.setCore_hbmInst (s : State) (c : CoreId) (k : Core) : (s.setCore c k).hbmInst = s.hbmInst := rfl
@[simp] theorem State.setCore_writeQ (s : State) (c : CoreId) (k : Core) : (s.setCore c k).writeQ = s.writeQ := rfl
@[simp] theorem State.setCore_set (s : State) (c : CoreId) (k : Core) : (s.setCore c k).set = s.set := rfl
@[simp] theorem State.setCore_parts (s : State) (c : CoreId) (k : Core) : (s.setCore c k).parts = s.parts := rfl
@[simp] theorem State.setCore_places (s : State) (c : CoreId) (k : Core) : (s.setCore c k).places = s.places := rfl
@[simp] theorem State.setCore_slots (s : State) (c : CoreId) (k : Core) : (s.setCore c k).slots = s.slots := rfl
@[simp] theorem State.setCore_contracts (s : State) (c : CoreId) (k : Core) : (s.setCore c k).contracts = s.contracts := rfl
@[simp] theorem State.setCore_ctxs (s : State) (c : CoreId) (k : Core) : (s.setCore c k).ctxs = s.ctxs := rfl
@[simp] theorem State.setCore_hists (s : State) (c : CoreId) (k : Core) : (s.setCore c k).hists = s.hists := rfl
@[simp] theorem State.setCore_zeroJobs (s : State) (c : CoreId) (k : Core) : (s.setCore c k).zeroJobs = s.zeroJobs := rfl
@[simp] theorem State.setCore_jobCtr (s : State) (c : CoreId) (k : Core) : (s.setCore c k).jobCtr = s.jobCtr := rfl
@[simp] theorem State.setCore_fns (s : State) (c : CoreId) (k : Core) : (s.setCore c k).fns = s.fns := rfl
@[simp] theorem State.setCore_qps (s : State) (c : CoreId) (k : Core) : (s.setCore c k).qps = s.qps := rfl
@[simp] theorem State.setCore_hostMem (s : State) (c : CoreId) (k : Core) : (s.setCore c k).hostMem = s.hostMem := rfl
@[simp] theorem State.setCore_out (s : State) (c : CoreId) (k : Core) : (s.setCore c k).out = s.out := rfl
@[simp] theorem State.setCore_err (s : State) (c : CoreId) (k : Core) : (s.setCore c k).err = s.err := rfl
@[simp] theorem State.setCore_sec (s : State) (c : CoreId) (k : Core) : (s.setCore c k).sec = s.sec := rfl
@[simp] theorem State.setCore_pwr (s : State) (c : CoreId) (k : Core) : (s.setCore c k).pwr = s.pwr := rfl
@[simp] theorem State.setCore_nv (s : State) (c : CoreId) (k : Core) : (s.setCore c k).nv = s.nv := rfl
@[simp] theorem State.setCore_spares (s : State) (c : CoreId) (k : Core) : (s.setCore c k).spares = s.spares := rfl
@[simp] theorem State.setCore_bypass (s : State) (c : CoreId) (k : Core) : (s.setCore c k).bypass = s.bypass := rfl
@[simp] theorem State.setCore_links (s : State) (c : CoreId) (k : Core) : (s.setCore c k).links = s.links := rfl
@[simp] theorem State.setCore_linkHold (s : State) (c : CoreId) (k : Core) : (s.setCore c k).linkHold = s.linkHold := rfl
@[simp] theorem State.setCore_i3cAddr (s : State) (c : CoreId) (k : Core) : (s.setCore c k).i3cAddr = s.i3cAddr := rfl
@[simp] theorem State.setCore_smbus (s : State) (c : CoreId) (k : Core) : (s.setCore c k).smbus = s.smbus := rfl
@[simp] theorem State.setCore_eid (s : State) (c : CoreId) (k : Core) : (s.setCore c k).eid = s.eid := rfl
@[simp] theorem State.setCore_perst (s : State) (c : CoreId) (k : Core) : (s.setCore c k).perst = s.perst := rfl
@[simp] theorem State.setCore_ctrEff (s : State) (c : CoreId) (k : Core) : (s.setCore c k).ctrEff = s.ctrEff := rfl
@[simp] theorem State.setCore_fuseSpares (s : State) (c : CoreId) (k : Core) : (s.setCore c k).fuseSpares = s.fuseSpares := rfl
@[simp] theorem State.setCore_fuseCells (s : State) (c : CoreId) (k : Core) : (s.setCore c k).fuseCells = s.fuseCells := rfl
@[simp] theorem State.setCore_cells (s : State) (c : CoreId) (k : Core) : (s.setCore c k).cells = s.cells := rfl

/-! `State.setUnit` changes `err` only. -/
@[simp] theorem State.setUnit_pending (s : State) (u : W32) (x : Unit) : (s.setUnit u x).pending = s.pending := rfl
@[simp] theorem State.setUnit_freeCtr (s : State) (u : W32) (x : Unit) : (s.setUnit u x).freeCtr = s.freeCtr := rfl
@[simp] theorem State.setUnit_pktCtr (s : State) (u : W32) (x : Unit) : (s.setUnit u x).pktCtr = s.pktCtr := rfl
@[simp] theorem State.setUnit_part384 (s : State) (u : W32) (x : Unit) : (s.setUnit u x).part384 = s.part384 := rfl
@[simp] theorem State.setUnit_phase (s : State) (u : W32) (x : Unit) : (s.setUnit u x).phase = s.phase := rfl
@[simp] theorem State.setUnit_stage (s : State) (u : W32) (x : Unit) : (s.setUnit u x).stage = s.stage := rfl
@[simp] theorem State.setUnit_warm (s : State) (u : W32) (x : Unit) : (s.setUnit u x).warm = s.warm := rfl
@[simp] theorem State.setUnit_aon (s : State) (u : W32) (x : Unit) : (s.setUnit u x).aon = s.aon := rfl
@[simp] theorem State.setUnit_time (s : State) (u : W32) (x : Unit) : (s.setUnit u x).time = s.time := rfl
@[simp] theorem State.setUnit_cores (s : State) (u : W32) (x : Unit) : (s.setUnit u x).cores = s.cores := rfl
@[simp] theorem State.setUnit_net (s : State) (u : W32) (x : Unit) : (s.setUnit u x).net = s.net := rfl
@[simp] theorem State.setUnit_commons (s : State) (u : W32) (x : Unit) : (s.setUnit u x).commons = s.commons := rfl
@[simp] theorem State.setUnit_sliceInst (s : State) (u : W32) (x : Unit) : (s.setUnit u x).sliceInst = s.sliceInst := rfl
@[simp] theorem State.setUnit_hbm (s : State) (u : W32) (x : Unit) : (s.setUnit u x).hbm = s.hbm := rfl
@[simp] theorem State.setUnit_hbmInst (s : State) (u : W32) (x : Unit) : (s.setUnit u x).hbmInst = s.hbmInst := rfl
@[simp] theorem State.setUnit_writeQ (s : State) (u : W32) (x : Unit) : (s.setUnit u x).writeQ = s.writeQ := rfl
@[simp] theorem State.setUnit_set (s : State) (u : W32) (x : Unit) : (s.setUnit u x).set = s.set := rfl
@[simp] theorem State.setUnit_parts (s : State) (u : W32) (x : Unit) : (s.setUnit u x).parts = s.parts := rfl
@[simp] theorem State.setUnit_places (s : State) (u : W32) (x : Unit) : (s.setUnit u x).places = s.places := rfl
@[simp] theorem State.setUnit_slots (s : State) (u : W32) (x : Unit) : (s.setUnit u x).slots = s.slots := rfl
@[simp] theorem State.setUnit_contracts (s : State) (u : W32) (x : Unit) : (s.setUnit u x).contracts = s.contracts := rfl
@[simp] theorem State.setUnit_ctxs (s : State) (u : W32) (x : Unit) : (s.setUnit u x).ctxs = s.ctxs := rfl
@[simp] theorem State.setUnit_hists (s : State) (u : W32) (x : Unit) : (s.setUnit u x).hists = s.hists := rfl
@[simp] theorem State.setUnit_zeroJobs (s : State) (u : W32) (x : Unit) : (s.setUnit u x).zeroJobs = s.zeroJobs := rfl
@[simp] theorem State.setUnit_jobCtr (s : State) (u : W32) (x : Unit) : (s.setUnit u x).jobCtr = s.jobCtr := rfl
@[simp] theorem State.setUnit_fns (s : State) (u : W32) (x : Unit) : (s.setUnit u x).fns = s.fns := rfl
@[simp] theorem State.setUnit_qps (s : State) (u : W32) (x : Unit) : (s.setUnit u x).qps = s.qps := rfl
@[simp] theorem State.setUnit_hostMem (s : State) (u : W32) (x : Unit) : (s.setUnit u x).hostMem = s.hostMem := rfl
@[simp] theorem State.setUnit_out (s : State) (u : W32) (x : Unit) : (s.setUnit u x).out = s.out := rfl
@[simp] theorem State.setUnit_sec (s : State) (u : W32) (x : Unit) : (s.setUnit u x).sec = s.sec := rfl
@[simp] theorem State.setUnit_pwr (s : State) (u : W32) (x : Unit) : (s.setUnit u x).pwr = s.pwr := rfl
@[simp] theorem State.setUnit_nv (s : State) (u : W32) (x : Unit) : (s.setUnit u x).nv = s.nv := rfl
@[simp] theorem State.setUnit_spares (s : State) (u : W32) (x : Unit) : (s.setUnit u x).spares = s.spares := rfl
@[simp] theorem State.setUnit_bypass (s : State) (u : W32) (x : Unit) : (s.setUnit u x).bypass = s.bypass := rfl
@[simp] theorem State.setUnit_links (s : State) (u : W32) (x : Unit) : (s.setUnit u x).links = s.links := rfl
@[simp] theorem State.setUnit_linkHold (s : State) (u : W32) (x : Unit) : (s.setUnit u x).linkHold = s.linkHold := rfl
@[simp] theorem State.setUnit_i3cAddr (s : State) (u : W32) (x : Unit) : (s.setUnit u x).i3cAddr = s.i3cAddr := rfl
@[simp] theorem State.setUnit_smbus (s : State) (u : W32) (x : Unit) : (s.setUnit u x).smbus = s.smbus := rfl
@[simp] theorem State.setUnit_eid (s : State) (u : W32) (x : Unit) : (s.setUnit u x).eid = s.eid := rfl
@[simp] theorem State.setUnit_perst (s : State) (u : W32) (x : Unit) : (s.setUnit u x).perst = s.perst := rfl
@[simp] theorem State.setUnit_ctrEff (s : State) (u : W32) (x : Unit) : (s.setUnit u x).ctrEff = s.ctrEff := rfl
@[simp] theorem State.setUnit_fuseSpares (s : State) (u : W32) (x : Unit) : (s.setUnit u x).fuseSpares = s.fuseSpares := rfl
@[simp] theorem State.setUnit_fuseCells (s : State) (u : W32) (x : Unit) : (s.setUnit u x).fuseCells = s.fuseCells := rfl
@[simp] theorem State.setUnit_cells (s : State) (u : W32) (x : Unit) : (s.setUnit u x).cells = s.cells := rfl

/-! `State.emit` changes `out` only. -/
@[simp] theorem State.emit_pending (s : State) (o : Out) : (s.emit o).pending = s.pending := rfl
@[simp] theorem State.emit_freeCtr (s : State) (o : Out) : (s.emit o).freeCtr = s.freeCtr := rfl
@[simp] theorem State.emit_pktCtr (s : State) (o : Out) : (s.emit o).pktCtr = s.pktCtr := rfl
@[simp] theorem State.emit_part384 (s : State) (o : Out) : (s.emit o).part384 = s.part384 := rfl
@[simp] theorem State.emit_phase (s : State) (o : Out) : (s.emit o).phase = s.phase := rfl
@[simp] theorem State.emit_stage (s : State) (o : Out) : (s.emit o).stage = s.stage := rfl
@[simp] theorem State.emit_warm (s : State) (o : Out) : (s.emit o).warm = s.warm := rfl
@[simp] theorem State.emit_aon (s : State) (o : Out) : (s.emit o).aon = s.aon := rfl
@[simp] theorem State.emit_time (s : State) (o : Out) : (s.emit o).time = s.time := rfl
@[simp] theorem State.emit_cores (s : State) (o : Out) : (s.emit o).cores = s.cores := rfl
@[simp] theorem State.emit_net (s : State) (o : Out) : (s.emit o).net = s.net := rfl
@[simp] theorem State.emit_commons (s : State) (o : Out) : (s.emit o).commons = s.commons := rfl
@[simp] theorem State.emit_sliceInst (s : State) (o : Out) : (s.emit o).sliceInst = s.sliceInst := rfl
@[simp] theorem State.emit_hbm (s : State) (o : Out) : (s.emit o).hbm = s.hbm := rfl
@[simp] theorem State.emit_hbmInst (s : State) (o : Out) : (s.emit o).hbmInst = s.hbmInst := rfl
@[simp] theorem State.emit_writeQ (s : State) (o : Out) : (s.emit o).writeQ = s.writeQ := rfl
@[simp] theorem State.emit_set (s : State) (o : Out) : (s.emit o).set = s.set := rfl
@[simp] theorem State.emit_parts (s : State) (o : Out) : (s.emit o).parts = s.parts := rfl
@[simp] theorem State.emit_places (s : State) (o : Out) : (s.emit o).places = s.places := rfl
@[simp] theorem State.emit_slots (s : State) (o : Out) : (s.emit o).slots = s.slots := rfl
@[simp] theorem State.emit_contracts (s : State) (o : Out) : (s.emit o).contracts = s.contracts := rfl
@[simp] theorem State.emit_ctxs (s : State) (o : Out) : (s.emit o).ctxs = s.ctxs := rfl
@[simp] theorem State.emit_hists (s : State) (o : Out) : (s.emit o).hists = s.hists := rfl
@[simp] theorem State.emit_zeroJobs (s : State) (o : Out) : (s.emit o).zeroJobs = s.zeroJobs := rfl
@[simp] theorem State.emit_jobCtr (s : State) (o : Out) : (s.emit o).jobCtr = s.jobCtr := rfl
@[simp] theorem State.emit_fns (s : State) (o : Out) : (s.emit o).fns = s.fns := rfl
@[simp] theorem State.emit_qps (s : State) (o : Out) : (s.emit o).qps = s.qps := rfl
@[simp] theorem State.emit_hostMem (s : State) (o : Out) : (s.emit o).hostMem = s.hostMem := rfl
@[simp] theorem State.emit_err (s : State) (o : Out) : (s.emit o).err = s.err := rfl
@[simp] theorem State.emit_sec (s : State) (o : Out) : (s.emit o).sec = s.sec := rfl
@[simp] theorem State.emit_pwr (s : State) (o : Out) : (s.emit o).pwr = s.pwr := rfl
@[simp] theorem State.emit_nv (s : State) (o : Out) : (s.emit o).nv = s.nv := rfl
@[simp] theorem State.emit_spares (s : State) (o : Out) : (s.emit o).spares = s.spares := rfl
@[simp] theorem State.emit_bypass (s : State) (o : Out) : (s.emit o).bypass = s.bypass := rfl
@[simp] theorem State.emit_links (s : State) (o : Out) : (s.emit o).links = s.links := rfl
@[simp] theorem State.emit_linkHold (s : State) (o : Out) : (s.emit o).linkHold = s.linkHold := rfl
@[simp] theorem State.emit_i3cAddr (s : State) (o : Out) : (s.emit o).i3cAddr = s.i3cAddr := rfl
@[simp] theorem State.emit_smbus (s : State) (o : Out) : (s.emit o).smbus = s.smbus := rfl
@[simp] theorem State.emit_eid (s : State) (o : Out) : (s.emit o).eid = s.eid := rfl
@[simp] theorem State.emit_perst (s : State) (o : Out) : (s.emit o).perst = s.perst := rfl
@[simp] theorem State.emit_ctrEff (s : State) (o : Out) : (s.emit o).ctrEff = s.ctrEff := rfl
@[simp] theorem State.emit_fuseSpares (s : State) (o : Out) : (s.emit o).fuseSpares = s.fuseSpares := rfl
@[simp] theorem State.emit_fuseCells (s : State) (o : Out) : (s.emit o).fuseCells = s.fuseCells := rfl
@[simp] theorem State.emit_cells (s : State) (o : Out) : (s.emit o).cells = s.cells := rfl

/-! `State.report` changes `err` only. -/
@[simp] theorem State.report_pending (s : State) (r : FaultRep) : (s.report r).pending = s.pending := rfl
@[simp] theorem State.report_freeCtr (s : State) (r : FaultRep) : (s.report r).freeCtr = s.freeCtr := rfl
@[simp] theorem State.report_pktCtr (s : State) (r : FaultRep) : (s.report r).pktCtr = s.pktCtr := rfl
@[simp] theorem State.report_part384 (s : State) (r : FaultRep) : (s.report r).part384 = s.part384 := rfl
@[simp] theorem State.report_phase (s : State) (r : FaultRep) : (s.report r).phase = s.phase := rfl
@[simp] theorem State.report_stage (s : State) (r : FaultRep) : (s.report r).stage = s.stage := rfl
@[simp] theorem State.report_warm (s : State) (r : FaultRep) : (s.report r).warm = s.warm := rfl
@[simp] theorem State.report_aon (s : State) (r : FaultRep) : (s.report r).aon = s.aon := rfl
@[simp] theorem State.report_time (s : State) (r : FaultRep) : (s.report r).time = s.time := rfl
@[simp] theorem State.report_cores (s : State) (r : FaultRep) : (s.report r).cores = s.cores := rfl
@[simp] theorem State.report_net (s : State) (r : FaultRep) : (s.report r).net = s.net := rfl
@[simp] theorem State.report_commons (s : State) (r : FaultRep) : (s.report r).commons = s.commons := rfl
@[simp] theorem State.report_sliceInst (s : State) (r : FaultRep) : (s.report r).sliceInst = s.sliceInst := rfl
@[simp] theorem State.report_hbm (s : State) (r : FaultRep) : (s.report r).hbm = s.hbm := rfl
@[simp] theorem State.report_hbmInst (s : State) (r : FaultRep) : (s.report r).hbmInst = s.hbmInst := rfl
@[simp] theorem State.report_writeQ (s : State) (r : FaultRep) : (s.report r).writeQ = s.writeQ := rfl
@[simp] theorem State.report_set (s : State) (r : FaultRep) : (s.report r).set = s.set := rfl
@[simp] theorem State.report_parts (s : State) (r : FaultRep) : (s.report r).parts = s.parts := rfl
@[simp] theorem State.report_places (s : State) (r : FaultRep) : (s.report r).places = s.places := rfl
@[simp] theorem State.report_slots (s : State) (r : FaultRep) : (s.report r).slots = s.slots := rfl
@[simp] theorem State.report_contracts (s : State) (r : FaultRep) : (s.report r).contracts = s.contracts := rfl
@[simp] theorem State.report_ctxs (s : State) (r : FaultRep) : (s.report r).ctxs = s.ctxs := rfl
@[simp] theorem State.report_hists (s : State) (r : FaultRep) : (s.report r).hists = s.hists := rfl
@[simp] theorem State.report_zeroJobs (s : State) (r : FaultRep) : (s.report r).zeroJobs = s.zeroJobs := rfl
@[simp] theorem State.report_jobCtr (s : State) (r : FaultRep) : (s.report r).jobCtr = s.jobCtr := rfl
@[simp] theorem State.report_fns (s : State) (r : FaultRep) : (s.report r).fns = s.fns := rfl
@[simp] theorem State.report_qps (s : State) (r : FaultRep) : (s.report r).qps = s.qps := rfl
@[simp] theorem State.report_hostMem (s : State) (r : FaultRep) : (s.report r).hostMem = s.hostMem := rfl
@[simp] theorem State.report_out (s : State) (r : FaultRep) : (s.report r).out = s.out := rfl
@[simp] theorem State.report_sec (s : State) (r : FaultRep) : (s.report r).sec = s.sec := rfl
@[simp] theorem State.report_pwr (s : State) (r : FaultRep) : (s.report r).pwr = s.pwr := rfl
@[simp] theorem State.report_nv (s : State) (r : FaultRep) : (s.report r).nv = s.nv := rfl
@[simp] theorem State.report_spares (s : State) (r : FaultRep) : (s.report r).spares = s.spares := rfl
@[simp] theorem State.report_bypass (s : State) (r : FaultRep) : (s.report r).bypass = s.bypass := rfl
@[simp] theorem State.report_links (s : State) (r : FaultRep) : (s.report r).links = s.links := rfl
@[simp] theorem State.report_linkHold (s : State) (r : FaultRep) : (s.report r).linkHold = s.linkHold := rfl
@[simp] theorem State.report_i3cAddr (s : State) (r : FaultRep) : (s.report r).i3cAddr = s.i3cAddr := rfl
@[simp] theorem State.report_smbus (s : State) (r : FaultRep) : (s.report r).smbus = s.smbus := rfl
@[simp] theorem State.report_eid (s : State) (r : FaultRep) : (s.report r).eid = s.eid := rfl
@[simp] theorem State.report_perst (s : State) (r : FaultRep) : (s.report r).perst = s.perst := rfl
@[simp] theorem State.report_ctrEff (s : State) (r : FaultRep) : (s.report r).ctrEff = s.ctrEff := rfl
@[simp] theorem State.report_fuseSpares (s : State) (r : FaultRep) : (s.report r).fuseSpares = s.fuseSpares := rfl
@[simp] theorem State.report_fuseCells (s : State) (r : FaultRep) : (s.report r).fuseCells = s.fuseCells := rfl
@[simp] theorem State.report_cells (s : State) (r : FaultRep) : (s.report r).cells = s.cells := rfl

/-! `State.setPlace` changes `places` only. -/
@[simp] theorem State.setPlace_pending (s : State) (n : Nat) (x : Place) : (s.setPlace n x).pending = s.pending := rfl
@[simp] theorem State.setPlace_freeCtr (s : State) (n : Nat) (x : Place) : (s.setPlace n x).freeCtr = s.freeCtr := rfl
@[simp] theorem State.setPlace_pktCtr (s : State) (n : Nat) (x : Place) : (s.setPlace n x).pktCtr = s.pktCtr := rfl
@[simp] theorem State.setPlace_part384 (s : State) (n : Nat) (x : Place) : (s.setPlace n x).part384 = s.part384 := rfl
@[simp] theorem State.setPlace_phase (s : State) (n : Nat) (x : Place) : (s.setPlace n x).phase = s.phase := rfl
@[simp] theorem State.setPlace_stage (s : State) (n : Nat) (x : Place) : (s.setPlace n x).stage = s.stage := rfl
@[simp] theorem State.setPlace_warm (s : State) (n : Nat) (x : Place) : (s.setPlace n x).warm = s.warm := rfl
@[simp] theorem State.setPlace_aon (s : State) (n : Nat) (x : Place) : (s.setPlace n x).aon = s.aon := rfl
@[simp] theorem State.setPlace_time (s : State) (n : Nat) (x : Place) : (s.setPlace n x).time = s.time := rfl
@[simp] theorem State.setPlace_cores (s : State) (n : Nat) (x : Place) : (s.setPlace n x).cores = s.cores := rfl
@[simp] theorem State.setPlace_net (s : State) (n : Nat) (x : Place) : (s.setPlace n x).net = s.net := rfl
@[simp] theorem State.setPlace_commons (s : State) (n : Nat) (x : Place) : (s.setPlace n x).commons = s.commons := rfl
@[simp] theorem State.setPlace_sliceInst (s : State) (n : Nat) (x : Place) : (s.setPlace n x).sliceInst = s.sliceInst := rfl
@[simp] theorem State.setPlace_hbm (s : State) (n : Nat) (x : Place) : (s.setPlace n x).hbm = s.hbm := rfl
@[simp] theorem State.setPlace_hbmInst (s : State) (n : Nat) (x : Place) : (s.setPlace n x).hbmInst = s.hbmInst := rfl
@[simp] theorem State.setPlace_writeQ (s : State) (n : Nat) (x : Place) : (s.setPlace n x).writeQ = s.writeQ := rfl
@[simp] theorem State.setPlace_set (s : State) (n : Nat) (x : Place) : (s.setPlace n x).set = s.set := rfl
@[simp] theorem State.setPlace_parts (s : State) (n : Nat) (x : Place) : (s.setPlace n x).parts = s.parts := rfl
@[simp] theorem State.setPlace_slots (s : State) (n : Nat) (x : Place) : (s.setPlace n x).slots = s.slots := rfl
@[simp] theorem State.setPlace_contracts (s : State) (n : Nat) (x : Place) : (s.setPlace n x).contracts = s.contracts := rfl
@[simp] theorem State.setPlace_ctxs (s : State) (n : Nat) (x : Place) : (s.setPlace n x).ctxs = s.ctxs := rfl
@[simp] theorem State.setPlace_hists (s : State) (n : Nat) (x : Place) : (s.setPlace n x).hists = s.hists := rfl
@[simp] theorem State.setPlace_zeroJobs (s : State) (n : Nat) (x : Place) : (s.setPlace n x).zeroJobs = s.zeroJobs := rfl
@[simp] theorem State.setPlace_jobCtr (s : State) (n : Nat) (x : Place) : (s.setPlace n x).jobCtr = s.jobCtr := rfl
@[simp] theorem State.setPlace_fns (s : State) (n : Nat) (x : Place) : (s.setPlace n x).fns = s.fns := rfl
@[simp] theorem State.setPlace_qps (s : State) (n : Nat) (x : Place) : (s.setPlace n x).qps = s.qps := rfl
@[simp] theorem State.setPlace_hostMem (s : State) (n : Nat) (x : Place) : (s.setPlace n x).hostMem = s.hostMem := rfl
@[simp] theorem State.setPlace_out (s : State) (n : Nat) (x : Place) : (s.setPlace n x).out = s.out := rfl
@[simp] theorem State.setPlace_err (s : State) (n : Nat) (x : Place) : (s.setPlace n x).err = s.err := rfl
@[simp] theorem State.setPlace_sec (s : State) (n : Nat) (x : Place) : (s.setPlace n x).sec = s.sec := rfl
@[simp] theorem State.setPlace_pwr (s : State) (n : Nat) (x : Place) : (s.setPlace n x).pwr = s.pwr := rfl
@[simp] theorem State.setPlace_nv (s : State) (n : Nat) (x : Place) : (s.setPlace n x).nv = s.nv := rfl
@[simp] theorem State.setPlace_spares (s : State) (n : Nat) (x : Place) : (s.setPlace n x).spares = s.spares := rfl
@[simp] theorem State.setPlace_bypass (s : State) (n : Nat) (x : Place) : (s.setPlace n x).bypass = s.bypass := rfl
@[simp] theorem State.setPlace_links (s : State) (n : Nat) (x : Place) : (s.setPlace n x).links = s.links := rfl
@[simp] theorem State.setPlace_linkHold (s : State) (n : Nat) (x : Place) : (s.setPlace n x).linkHold = s.linkHold := rfl
@[simp] theorem State.setPlace_i3cAddr (s : State) (n : Nat) (x : Place) : (s.setPlace n x).i3cAddr = s.i3cAddr := rfl
@[simp] theorem State.setPlace_smbus (s : State) (n : Nat) (x : Place) : (s.setPlace n x).smbus = s.smbus := rfl
@[simp] theorem State.setPlace_eid (s : State) (n : Nat) (x : Place) : (s.setPlace n x).eid = s.eid := rfl
@[simp] theorem State.setPlace_perst (s : State) (n : Nat) (x : Place) : (s.setPlace n x).perst = s.perst := rfl
@[simp] theorem State.setPlace_ctrEff (s : State) (n : Nat) (x : Place) : (s.setPlace n x).ctrEff = s.ctrEff := rfl
@[simp] theorem State.setPlace_fuseSpares (s : State) (n : Nat) (x : Place) : (s.setPlace n x).fuseSpares = s.fuseSpares := rfl
@[simp] theorem State.setPlace_fuseCells (s : State) (n : Nat) (x : Place) : (s.setPlace n x).fuseCells = s.fuseCells := rfl
@[simp] theorem State.setPlace_cells (s : State) (n : Nat) (x : Place) : (s.setPlace n x).cells = s.cells := rfl

/-! `State.setFn` changes `fns` only. -/
@[simp] theorem State.setFn_pending (s : State) (f : FnRef) (x : Fn) : (s.setFn f x).pending = s.pending := rfl
@[simp] theorem State.setFn_freeCtr (s : State) (f : FnRef) (x : Fn) : (s.setFn f x).freeCtr = s.freeCtr := rfl
@[simp] theorem State.setFn_pktCtr (s : State) (f : FnRef) (x : Fn) : (s.setFn f x).pktCtr = s.pktCtr := rfl
@[simp] theorem State.setFn_part384 (s : State) (f : FnRef) (x : Fn) : (s.setFn f x).part384 = s.part384 := rfl
@[simp] theorem State.setFn_phase (s : State) (f : FnRef) (x : Fn) : (s.setFn f x).phase = s.phase := rfl
@[simp] theorem State.setFn_stage (s : State) (f : FnRef) (x : Fn) : (s.setFn f x).stage = s.stage := rfl
@[simp] theorem State.setFn_warm (s : State) (f : FnRef) (x : Fn) : (s.setFn f x).warm = s.warm := rfl
@[simp] theorem State.setFn_aon (s : State) (f : FnRef) (x : Fn) : (s.setFn f x).aon = s.aon := rfl
@[simp] theorem State.setFn_time (s : State) (f : FnRef) (x : Fn) : (s.setFn f x).time = s.time := rfl
@[simp] theorem State.setFn_cores (s : State) (f : FnRef) (x : Fn) : (s.setFn f x).cores = s.cores := rfl
@[simp] theorem State.setFn_net (s : State) (f : FnRef) (x : Fn) : (s.setFn f x).net = s.net := rfl
@[simp] theorem State.setFn_commons (s : State) (f : FnRef) (x : Fn) : (s.setFn f x).commons = s.commons := rfl
@[simp] theorem State.setFn_sliceInst (s : State) (f : FnRef) (x : Fn) : (s.setFn f x).sliceInst = s.sliceInst := rfl
@[simp] theorem State.setFn_hbm (s : State) (f : FnRef) (x : Fn) : (s.setFn f x).hbm = s.hbm := rfl
@[simp] theorem State.setFn_hbmInst (s : State) (f : FnRef) (x : Fn) : (s.setFn f x).hbmInst = s.hbmInst := rfl
@[simp] theorem State.setFn_writeQ (s : State) (f : FnRef) (x : Fn) : (s.setFn f x).writeQ = s.writeQ := rfl
@[simp] theorem State.setFn_set (s : State) (f : FnRef) (x : Fn) : (s.setFn f x).set = s.set := rfl
@[simp] theorem State.setFn_parts (s : State) (f : FnRef) (x : Fn) : (s.setFn f x).parts = s.parts := rfl
@[simp] theorem State.setFn_places (s : State) (f : FnRef) (x : Fn) : (s.setFn f x).places = s.places := rfl
@[simp] theorem State.setFn_slots (s : State) (f : FnRef) (x : Fn) : (s.setFn f x).slots = s.slots := rfl
@[simp] theorem State.setFn_contracts (s : State) (f : FnRef) (x : Fn) : (s.setFn f x).contracts = s.contracts := rfl
@[simp] theorem State.setFn_ctxs (s : State) (f : FnRef) (x : Fn) : (s.setFn f x).ctxs = s.ctxs := rfl
@[simp] theorem State.setFn_hists (s : State) (f : FnRef) (x : Fn) : (s.setFn f x).hists = s.hists := rfl
@[simp] theorem State.setFn_zeroJobs (s : State) (f : FnRef) (x : Fn) : (s.setFn f x).zeroJobs = s.zeroJobs := rfl
@[simp] theorem State.setFn_jobCtr (s : State) (f : FnRef) (x : Fn) : (s.setFn f x).jobCtr = s.jobCtr := rfl
@[simp] theorem State.setFn_qps (s : State) (f : FnRef) (x : Fn) : (s.setFn f x).qps = s.qps := rfl
@[simp] theorem State.setFn_hostMem (s : State) (f : FnRef) (x : Fn) : (s.setFn f x).hostMem = s.hostMem := rfl
@[simp] theorem State.setFn_out (s : State) (f : FnRef) (x : Fn) : (s.setFn f x).out = s.out := rfl
@[simp] theorem State.setFn_err (s : State) (f : FnRef) (x : Fn) : (s.setFn f x).err = s.err := rfl
@[simp] theorem State.setFn_sec (s : State) (f : FnRef) (x : Fn) : (s.setFn f x).sec = s.sec := rfl
@[simp] theorem State.setFn_pwr (s : State) (f : FnRef) (x : Fn) : (s.setFn f x).pwr = s.pwr := rfl
@[simp] theorem State.setFn_nv (s : State) (f : FnRef) (x : Fn) : (s.setFn f x).nv = s.nv := rfl
@[simp] theorem State.setFn_spares (s : State) (f : FnRef) (x : Fn) : (s.setFn f x).spares = s.spares := rfl
@[simp] theorem State.setFn_bypass (s : State) (f : FnRef) (x : Fn) : (s.setFn f x).bypass = s.bypass := rfl
@[simp] theorem State.setFn_links (s : State) (f : FnRef) (x : Fn) : (s.setFn f x).links = s.links := rfl
@[simp] theorem State.setFn_linkHold (s : State) (f : FnRef) (x : Fn) : (s.setFn f x).linkHold = s.linkHold := rfl
@[simp] theorem State.setFn_i3cAddr (s : State) (f : FnRef) (x : Fn) : (s.setFn f x).i3cAddr = s.i3cAddr := rfl
@[simp] theorem State.setFn_smbus (s : State) (f : FnRef) (x : Fn) : (s.setFn f x).smbus = s.smbus := rfl
@[simp] theorem State.setFn_eid (s : State) (f : FnRef) (x : Fn) : (s.setFn f x).eid = s.eid := rfl
@[simp] theorem State.setFn_perst (s : State) (f : FnRef) (x : Fn) : (s.setFn f x).perst = s.perst := rfl
@[simp] theorem State.setFn_ctrEff (s : State) (f : FnRef) (x : Fn) : (s.setFn f x).ctrEff = s.ctrEff := rfl
@[simp] theorem State.setFn_fuseSpares (s : State) (f : FnRef) (x : Fn) : (s.setFn f x).fuseSpares = s.fuseSpares := rfl
@[simp] theorem State.setFn_fuseCells (s : State) (f : FnRef) (x : Fn) : (s.setFn f x).fuseCells = s.fuseCells := rfl
@[simp] theorem State.setFn_cells (s : State) (f : FnRef) (x : Fn) : (s.setFn f x).cells = s.cells := rfl

/-! `State.setQp` changes `qps` only. -/
@[simp] theorem State.setQp_pending (s : State) (q : QRef) (x : Qp) : (s.setQp q x).pending = s.pending := rfl
@[simp] theorem State.setQp_freeCtr (s : State) (q : QRef) (x : Qp) : (s.setQp q x).freeCtr = s.freeCtr := rfl
@[simp] theorem State.setQp_pktCtr (s : State) (q : QRef) (x : Qp) : (s.setQp q x).pktCtr = s.pktCtr := rfl
@[simp] theorem State.setQp_part384 (s : State) (q : QRef) (x : Qp) : (s.setQp q x).part384 = s.part384 := rfl
@[simp] theorem State.setQp_phase (s : State) (q : QRef) (x : Qp) : (s.setQp q x).phase = s.phase := rfl
@[simp] theorem State.setQp_stage (s : State) (q : QRef) (x : Qp) : (s.setQp q x).stage = s.stage := rfl
@[simp] theorem State.setQp_warm (s : State) (q : QRef) (x : Qp) : (s.setQp q x).warm = s.warm := rfl
@[simp] theorem State.setQp_aon (s : State) (q : QRef) (x : Qp) : (s.setQp q x).aon = s.aon := rfl
@[simp] theorem State.setQp_time (s : State) (q : QRef) (x : Qp) : (s.setQp q x).time = s.time := rfl
@[simp] theorem State.setQp_cores (s : State) (q : QRef) (x : Qp) : (s.setQp q x).cores = s.cores := rfl
@[simp] theorem State.setQp_net (s : State) (q : QRef) (x : Qp) : (s.setQp q x).net = s.net := rfl
@[simp] theorem State.setQp_commons (s : State) (q : QRef) (x : Qp) : (s.setQp q x).commons = s.commons := rfl
@[simp] theorem State.setQp_sliceInst (s : State) (q : QRef) (x : Qp) : (s.setQp q x).sliceInst = s.sliceInst := rfl
@[simp] theorem State.setQp_hbm (s : State) (q : QRef) (x : Qp) : (s.setQp q x).hbm = s.hbm := rfl
@[simp] theorem State.setQp_hbmInst (s : State) (q : QRef) (x : Qp) : (s.setQp q x).hbmInst = s.hbmInst := rfl
@[simp] theorem State.setQp_writeQ (s : State) (q : QRef) (x : Qp) : (s.setQp q x).writeQ = s.writeQ := rfl
@[simp] theorem State.setQp_set (s : State) (q : QRef) (x : Qp) : (s.setQp q x).set = s.set := rfl
@[simp] theorem State.setQp_parts (s : State) (q : QRef) (x : Qp) : (s.setQp q x).parts = s.parts := rfl
@[simp] theorem State.setQp_places (s : State) (q : QRef) (x : Qp) : (s.setQp q x).places = s.places := rfl
@[simp] theorem State.setQp_slots (s : State) (q : QRef) (x : Qp) : (s.setQp q x).slots = s.slots := rfl
@[simp] theorem State.setQp_contracts (s : State) (q : QRef) (x : Qp) : (s.setQp q x).contracts = s.contracts := rfl
@[simp] theorem State.setQp_ctxs (s : State) (q : QRef) (x : Qp) : (s.setQp q x).ctxs = s.ctxs := rfl
@[simp] theorem State.setQp_hists (s : State) (q : QRef) (x : Qp) : (s.setQp q x).hists = s.hists := rfl
@[simp] theorem State.setQp_zeroJobs (s : State) (q : QRef) (x : Qp) : (s.setQp q x).zeroJobs = s.zeroJobs := rfl
@[simp] theorem State.setQp_jobCtr (s : State) (q : QRef) (x : Qp) : (s.setQp q x).jobCtr = s.jobCtr := rfl
@[simp] theorem State.setQp_fns (s : State) (q : QRef) (x : Qp) : (s.setQp q x).fns = s.fns := rfl
@[simp] theorem State.setQp_hostMem (s : State) (q : QRef) (x : Qp) : (s.setQp q x).hostMem = s.hostMem := rfl
@[simp] theorem State.setQp_out (s : State) (q : QRef) (x : Qp) : (s.setQp q x).out = s.out := rfl
@[simp] theorem State.setQp_err (s : State) (q : QRef) (x : Qp) : (s.setQp q x).err = s.err := rfl
@[simp] theorem State.setQp_sec (s : State) (q : QRef) (x : Qp) : (s.setQp q x).sec = s.sec := rfl
@[simp] theorem State.setQp_pwr (s : State) (q : QRef) (x : Qp) : (s.setQp q x).pwr = s.pwr := rfl
@[simp] theorem State.setQp_nv (s : State) (q : QRef) (x : Qp) : (s.setQp q x).nv = s.nv := rfl
@[simp] theorem State.setQp_spares (s : State) (q : QRef) (x : Qp) : (s.setQp q x).spares = s.spares := rfl
@[simp] theorem State.setQp_bypass (s : State) (q : QRef) (x : Qp) : (s.setQp q x).bypass = s.bypass := rfl
@[simp] theorem State.setQp_links (s : State) (q : QRef) (x : Qp) : (s.setQp q x).links = s.links := rfl
@[simp] theorem State.setQp_linkHold (s : State) (q : QRef) (x : Qp) : (s.setQp q x).linkHold = s.linkHold := rfl
@[simp] theorem State.setQp_i3cAddr (s : State) (q : QRef) (x : Qp) : (s.setQp q x).i3cAddr = s.i3cAddr := rfl
@[simp] theorem State.setQp_smbus (s : State) (q : QRef) (x : Qp) : (s.setQp q x).smbus = s.smbus := rfl
@[simp] theorem State.setQp_eid (s : State) (q : QRef) (x : Qp) : (s.setQp q x).eid = s.eid := rfl
@[simp] theorem State.setQp_perst (s : State) (q : QRef) (x : Qp) : (s.setQp q x).perst = s.perst := rfl
@[simp] theorem State.setQp_ctrEff (s : State) (q : QRef) (x : Qp) : (s.setQp q x).ctrEff = s.ctrEff := rfl
@[simp] theorem State.setQp_fuseSpares (s : State) (q : QRef) (x : Qp) : (s.setQp q x).fuseSpares = s.fuseSpares := rfl
@[simp] theorem State.setQp_fuseCells (s : State) (q : QRef) (x : Qp) : (s.setQp q x).fuseCells = s.fuseCells := rfl
@[simp] theorem State.setQp_cells (s : State) (q : QRef) (x : Qp) : (s.setQp q x).cells = s.cells := rfl

/-! `State.setMslot` changes `slots` only. -/
@[simp] theorem State.setMslot_pending (s : State) (n : Nat) (x : Slot) : (s.setMslot n x).pending = s.pending := rfl
@[simp] theorem State.setMslot_freeCtr (s : State) (n : Nat) (x : Slot) : (s.setMslot n x).freeCtr = s.freeCtr := rfl
@[simp] theorem State.setMslot_pktCtr (s : State) (n : Nat) (x : Slot) : (s.setMslot n x).pktCtr = s.pktCtr := rfl
@[simp] theorem State.setMslot_part384 (s : State) (n : Nat) (x : Slot) : (s.setMslot n x).part384 = s.part384 := rfl
@[simp] theorem State.setMslot_phase (s : State) (n : Nat) (x : Slot) : (s.setMslot n x).phase = s.phase := rfl
@[simp] theorem State.setMslot_stage (s : State) (n : Nat) (x : Slot) : (s.setMslot n x).stage = s.stage := rfl
@[simp] theorem State.setMslot_warm (s : State) (n : Nat) (x : Slot) : (s.setMslot n x).warm = s.warm := rfl
@[simp] theorem State.setMslot_aon (s : State) (n : Nat) (x : Slot) : (s.setMslot n x).aon = s.aon := rfl
@[simp] theorem State.setMslot_time (s : State) (n : Nat) (x : Slot) : (s.setMslot n x).time = s.time := rfl
@[simp] theorem State.setMslot_cores (s : State) (n : Nat) (x : Slot) : (s.setMslot n x).cores = s.cores := rfl
@[simp] theorem State.setMslot_net (s : State) (n : Nat) (x : Slot) : (s.setMslot n x).net = s.net := rfl
@[simp] theorem State.setMslot_commons (s : State) (n : Nat) (x : Slot) : (s.setMslot n x).commons = s.commons := rfl
@[simp] theorem State.setMslot_sliceInst (s : State) (n : Nat) (x : Slot) : (s.setMslot n x).sliceInst = s.sliceInst := rfl
@[simp] theorem State.setMslot_hbm (s : State) (n : Nat) (x : Slot) : (s.setMslot n x).hbm = s.hbm := rfl
@[simp] theorem State.setMslot_hbmInst (s : State) (n : Nat) (x : Slot) : (s.setMslot n x).hbmInst = s.hbmInst := rfl
@[simp] theorem State.setMslot_writeQ (s : State) (n : Nat) (x : Slot) : (s.setMslot n x).writeQ = s.writeQ := rfl
@[simp] theorem State.setMslot_set (s : State) (n : Nat) (x : Slot) : (s.setMslot n x).set = s.set := rfl
@[simp] theorem State.setMslot_parts (s : State) (n : Nat) (x : Slot) : (s.setMslot n x).parts = s.parts := rfl
@[simp] theorem State.setMslot_places (s : State) (n : Nat) (x : Slot) : (s.setMslot n x).places = s.places := rfl
@[simp] theorem State.setMslot_contracts (s : State) (n : Nat) (x : Slot) : (s.setMslot n x).contracts = s.contracts := rfl
@[simp] theorem State.setMslot_ctxs (s : State) (n : Nat) (x : Slot) : (s.setMslot n x).ctxs = s.ctxs := rfl
@[simp] theorem State.setMslot_hists (s : State) (n : Nat) (x : Slot) : (s.setMslot n x).hists = s.hists := rfl
@[simp] theorem State.setMslot_zeroJobs (s : State) (n : Nat) (x : Slot) : (s.setMslot n x).zeroJobs = s.zeroJobs := rfl
@[simp] theorem State.setMslot_jobCtr (s : State) (n : Nat) (x : Slot) : (s.setMslot n x).jobCtr = s.jobCtr := rfl
@[simp] theorem State.setMslot_fns (s : State) (n : Nat) (x : Slot) : (s.setMslot n x).fns = s.fns := rfl
@[simp] theorem State.setMslot_qps (s : State) (n : Nat) (x : Slot) : (s.setMslot n x).qps = s.qps := rfl
@[simp] theorem State.setMslot_hostMem (s : State) (n : Nat) (x : Slot) : (s.setMslot n x).hostMem = s.hostMem := rfl
@[simp] theorem State.setMslot_out (s : State) (n : Nat) (x : Slot) : (s.setMslot n x).out = s.out := rfl
@[simp] theorem State.setMslot_err (s : State) (n : Nat) (x : Slot) : (s.setMslot n x).err = s.err := rfl
@[simp] theorem State.setMslot_sec (s : State) (n : Nat) (x : Slot) : (s.setMslot n x).sec = s.sec := rfl
@[simp] theorem State.setMslot_pwr (s : State) (n : Nat) (x : Slot) : (s.setMslot n x).pwr = s.pwr := rfl
@[simp] theorem State.setMslot_nv (s : State) (n : Nat) (x : Slot) : (s.setMslot n x).nv = s.nv := rfl
@[simp] theorem State.setMslot_spares (s : State) (n : Nat) (x : Slot) : (s.setMslot n x).spares = s.spares := rfl
@[simp] theorem State.setMslot_bypass (s : State) (n : Nat) (x : Slot) : (s.setMslot n x).bypass = s.bypass := rfl
@[simp] theorem State.setMslot_links (s : State) (n : Nat) (x : Slot) : (s.setMslot n x).links = s.links := rfl
@[simp] theorem State.setMslot_linkHold (s : State) (n : Nat) (x : Slot) : (s.setMslot n x).linkHold = s.linkHold := rfl
@[simp] theorem State.setMslot_i3cAddr (s : State) (n : Nat) (x : Slot) : (s.setMslot n x).i3cAddr = s.i3cAddr := rfl
@[simp] theorem State.setMslot_smbus (s : State) (n : Nat) (x : Slot) : (s.setMslot n x).smbus = s.smbus := rfl
@[simp] theorem State.setMslot_eid (s : State) (n : Nat) (x : Slot) : (s.setMslot n x).eid = s.eid := rfl
@[simp] theorem State.setMslot_perst (s : State) (n : Nat) (x : Slot) : (s.setMslot n x).perst = s.perst := rfl
@[simp] theorem State.setMslot_ctrEff (s : State) (n : Nat) (x : Slot) : (s.setMslot n x).ctrEff = s.ctrEff := rfl
@[simp] theorem State.setMslot_fuseSpares (s : State) (n : Nat) (x : Slot) : (s.setMslot n x).fuseSpares = s.fuseSpares := rfl
@[simp] theorem State.setMslot_fuseCells (s : State) (n : Nat) (x : Slot) : (s.setMslot n x).fuseCells = s.fuseCells := rfl
@[simp] theorem State.setMslot_cells (s : State) (n : Nat) (x : Slot) : (s.setMslot n x).cells = s.cells := rfl

/-! `State.setContract` changes `contracts` only. -/
@[simp] theorem State.setContract_pending (s : State) (n : Nat) (x : Contract) : (s.setContract n x).pending = s.pending := rfl
@[simp] theorem State.setContract_freeCtr (s : State) (n : Nat) (x : Contract) : (s.setContract n x).freeCtr = s.freeCtr := rfl
@[simp] theorem State.setContract_pktCtr (s : State) (n : Nat) (x : Contract) : (s.setContract n x).pktCtr = s.pktCtr := rfl
@[simp] theorem State.setContract_part384 (s : State) (n : Nat) (x : Contract) : (s.setContract n x).part384 = s.part384 := rfl
@[simp] theorem State.setContract_phase (s : State) (n : Nat) (x : Contract) : (s.setContract n x).phase = s.phase := rfl
@[simp] theorem State.setContract_stage (s : State) (n : Nat) (x : Contract) : (s.setContract n x).stage = s.stage := rfl
@[simp] theorem State.setContract_warm (s : State) (n : Nat) (x : Contract) : (s.setContract n x).warm = s.warm := rfl
@[simp] theorem State.setContract_aon (s : State) (n : Nat) (x : Contract) : (s.setContract n x).aon = s.aon := rfl
@[simp] theorem State.setContract_time (s : State) (n : Nat) (x : Contract) : (s.setContract n x).time = s.time := rfl
@[simp] theorem State.setContract_cores (s : State) (n : Nat) (x : Contract) : (s.setContract n x).cores = s.cores := rfl
@[simp] theorem State.setContract_net (s : State) (n : Nat) (x : Contract) : (s.setContract n x).net = s.net := rfl
@[simp] theorem State.setContract_commons (s : State) (n : Nat) (x : Contract) : (s.setContract n x).commons = s.commons := rfl
@[simp] theorem State.setContract_sliceInst (s : State) (n : Nat) (x : Contract) : (s.setContract n x).sliceInst = s.sliceInst := rfl
@[simp] theorem State.setContract_hbm (s : State) (n : Nat) (x : Contract) : (s.setContract n x).hbm = s.hbm := rfl
@[simp] theorem State.setContract_hbmInst (s : State) (n : Nat) (x : Contract) : (s.setContract n x).hbmInst = s.hbmInst := rfl
@[simp] theorem State.setContract_writeQ (s : State) (n : Nat) (x : Contract) : (s.setContract n x).writeQ = s.writeQ := rfl
@[simp] theorem State.setContract_set (s : State) (n : Nat) (x : Contract) : (s.setContract n x).set = s.set := rfl
@[simp] theorem State.setContract_parts (s : State) (n : Nat) (x : Contract) : (s.setContract n x).parts = s.parts := rfl
@[simp] theorem State.setContract_places (s : State) (n : Nat) (x : Contract) : (s.setContract n x).places = s.places := rfl
@[simp] theorem State.setContract_slots (s : State) (n : Nat) (x : Contract) : (s.setContract n x).slots = s.slots := rfl
@[simp] theorem State.setContract_ctxs (s : State) (n : Nat) (x : Contract) : (s.setContract n x).ctxs = s.ctxs := rfl
@[simp] theorem State.setContract_hists (s : State) (n : Nat) (x : Contract) : (s.setContract n x).hists = s.hists := rfl
@[simp] theorem State.setContract_zeroJobs (s : State) (n : Nat) (x : Contract) : (s.setContract n x).zeroJobs = s.zeroJobs := rfl
@[simp] theorem State.setContract_jobCtr (s : State) (n : Nat) (x : Contract) : (s.setContract n x).jobCtr = s.jobCtr := rfl
@[simp] theorem State.setContract_fns (s : State) (n : Nat) (x : Contract) : (s.setContract n x).fns = s.fns := rfl
@[simp] theorem State.setContract_qps (s : State) (n : Nat) (x : Contract) : (s.setContract n x).qps = s.qps := rfl
@[simp] theorem State.setContract_hostMem (s : State) (n : Nat) (x : Contract) : (s.setContract n x).hostMem = s.hostMem := rfl
@[simp] theorem State.setContract_out (s : State) (n : Nat) (x : Contract) : (s.setContract n x).out = s.out := rfl
@[simp] theorem State.setContract_err (s : State) (n : Nat) (x : Contract) : (s.setContract n x).err = s.err := rfl
@[simp] theorem State.setContract_sec (s : State) (n : Nat) (x : Contract) : (s.setContract n x).sec = s.sec := rfl
@[simp] theorem State.setContract_pwr (s : State) (n : Nat) (x : Contract) : (s.setContract n x).pwr = s.pwr := rfl
@[simp] theorem State.setContract_nv (s : State) (n : Nat) (x : Contract) : (s.setContract n x).nv = s.nv := rfl
@[simp] theorem State.setContract_spares (s : State) (n : Nat) (x : Contract) : (s.setContract n x).spares = s.spares := rfl
@[simp] theorem State.setContract_bypass (s : State) (n : Nat) (x : Contract) : (s.setContract n x).bypass = s.bypass := rfl
@[simp] theorem State.setContract_links (s : State) (n : Nat) (x : Contract) : (s.setContract n x).links = s.links := rfl
@[simp] theorem State.setContract_linkHold (s : State) (n : Nat) (x : Contract) : (s.setContract n x).linkHold = s.linkHold := rfl
@[simp] theorem State.setContract_i3cAddr (s : State) (n : Nat) (x : Contract) : (s.setContract n x).i3cAddr = s.i3cAddr := rfl
@[simp] theorem State.setContract_smbus (s : State) (n : Nat) (x : Contract) : (s.setContract n x).smbus = s.smbus := rfl
@[simp] theorem State.setContract_eid (s : State) (n : Nat) (x : Contract) : (s.setContract n x).eid = s.eid := rfl
@[simp] theorem State.setContract_perst (s : State) (n : Nat) (x : Contract) : (s.setContract n x).perst = s.perst := rfl
@[simp] theorem State.setContract_ctrEff (s : State) (n : Nat) (x : Contract) : (s.setContract n x).ctrEff = s.ctrEff := rfl
@[simp] theorem State.setContract_fuseSpares (s : State) (n : Nat) (x : Contract) : (s.setContract n x).fuseSpares = s.fuseSpares := rfl
@[simp] theorem State.setContract_fuseCells (s : State) (n : Nat) (x : Contract) : (s.setContract n x).fuseCells = s.fuseCells := rfl
@[simp] theorem State.setContract_cells (s : State) (n : Nat) (x : Contract) : (s.setContract n x).cells = s.cells := rfl

/-! `State.setCtx` changes `ctxs` only. -/
@[simp] theorem State.setCtx_pending (s : State) (n : Nat) (x : Ctx) : (s.setCtx n x).pending = s.pending := rfl
@[simp] theorem State.setCtx_freeCtr (s : State) (n : Nat) (x : Ctx) : (s.setCtx n x).freeCtr = s.freeCtr := rfl
@[simp] theorem State.setCtx_pktCtr (s : State) (n : Nat) (x : Ctx) : (s.setCtx n x).pktCtr = s.pktCtr := rfl
@[simp] theorem State.setCtx_part384 (s : State) (n : Nat) (x : Ctx) : (s.setCtx n x).part384 = s.part384 := rfl
@[simp] theorem State.setCtx_phase (s : State) (n : Nat) (x : Ctx) : (s.setCtx n x).phase = s.phase := rfl
@[simp] theorem State.setCtx_stage (s : State) (n : Nat) (x : Ctx) : (s.setCtx n x).stage = s.stage := rfl
@[simp] theorem State.setCtx_warm (s : State) (n : Nat) (x : Ctx) : (s.setCtx n x).warm = s.warm := rfl
@[simp] theorem State.setCtx_aon (s : State) (n : Nat) (x : Ctx) : (s.setCtx n x).aon = s.aon := rfl
@[simp] theorem State.setCtx_time (s : State) (n : Nat) (x : Ctx) : (s.setCtx n x).time = s.time := rfl
@[simp] theorem State.setCtx_cores (s : State) (n : Nat) (x : Ctx) : (s.setCtx n x).cores = s.cores := rfl
@[simp] theorem State.setCtx_net (s : State) (n : Nat) (x : Ctx) : (s.setCtx n x).net = s.net := rfl
@[simp] theorem State.setCtx_commons (s : State) (n : Nat) (x : Ctx) : (s.setCtx n x).commons = s.commons := rfl
@[simp] theorem State.setCtx_sliceInst (s : State) (n : Nat) (x : Ctx) : (s.setCtx n x).sliceInst = s.sliceInst := rfl
@[simp] theorem State.setCtx_hbm (s : State) (n : Nat) (x : Ctx) : (s.setCtx n x).hbm = s.hbm := rfl
@[simp] theorem State.setCtx_hbmInst (s : State) (n : Nat) (x : Ctx) : (s.setCtx n x).hbmInst = s.hbmInst := rfl
@[simp] theorem State.setCtx_writeQ (s : State) (n : Nat) (x : Ctx) : (s.setCtx n x).writeQ = s.writeQ := rfl
@[simp] theorem State.setCtx_set (s : State) (n : Nat) (x : Ctx) : (s.setCtx n x).set = s.set := rfl
@[simp] theorem State.setCtx_parts (s : State) (n : Nat) (x : Ctx) : (s.setCtx n x).parts = s.parts := rfl
@[simp] theorem State.setCtx_places (s : State) (n : Nat) (x : Ctx) : (s.setCtx n x).places = s.places := rfl
@[simp] theorem State.setCtx_slots (s : State) (n : Nat) (x : Ctx) : (s.setCtx n x).slots = s.slots := rfl
@[simp] theorem State.setCtx_contracts (s : State) (n : Nat) (x : Ctx) : (s.setCtx n x).contracts = s.contracts := rfl
@[simp] theorem State.setCtx_hists (s : State) (n : Nat) (x : Ctx) : (s.setCtx n x).hists = s.hists := rfl
@[simp] theorem State.setCtx_zeroJobs (s : State) (n : Nat) (x : Ctx) : (s.setCtx n x).zeroJobs = s.zeroJobs := rfl
@[simp] theorem State.setCtx_jobCtr (s : State) (n : Nat) (x : Ctx) : (s.setCtx n x).jobCtr = s.jobCtr := rfl
@[simp] theorem State.setCtx_fns (s : State) (n : Nat) (x : Ctx) : (s.setCtx n x).fns = s.fns := rfl
@[simp] theorem State.setCtx_qps (s : State) (n : Nat) (x : Ctx) : (s.setCtx n x).qps = s.qps := rfl
@[simp] theorem State.setCtx_hostMem (s : State) (n : Nat) (x : Ctx) : (s.setCtx n x).hostMem = s.hostMem := rfl
@[simp] theorem State.setCtx_out (s : State) (n : Nat) (x : Ctx) : (s.setCtx n x).out = s.out := rfl
@[simp] theorem State.setCtx_err (s : State) (n : Nat) (x : Ctx) : (s.setCtx n x).err = s.err := rfl
@[simp] theorem State.setCtx_sec (s : State) (n : Nat) (x : Ctx) : (s.setCtx n x).sec = s.sec := rfl
@[simp] theorem State.setCtx_pwr (s : State) (n : Nat) (x : Ctx) : (s.setCtx n x).pwr = s.pwr := rfl
@[simp] theorem State.setCtx_nv (s : State) (n : Nat) (x : Ctx) : (s.setCtx n x).nv = s.nv := rfl
@[simp] theorem State.setCtx_spares (s : State) (n : Nat) (x : Ctx) : (s.setCtx n x).spares = s.spares := rfl
@[simp] theorem State.setCtx_bypass (s : State) (n : Nat) (x : Ctx) : (s.setCtx n x).bypass = s.bypass := rfl
@[simp] theorem State.setCtx_links (s : State) (n : Nat) (x : Ctx) : (s.setCtx n x).links = s.links := rfl
@[simp] theorem State.setCtx_linkHold (s : State) (n : Nat) (x : Ctx) : (s.setCtx n x).linkHold = s.linkHold := rfl
@[simp] theorem State.setCtx_i3cAddr (s : State) (n : Nat) (x : Ctx) : (s.setCtx n x).i3cAddr = s.i3cAddr := rfl
@[simp] theorem State.setCtx_smbus (s : State) (n : Nat) (x : Ctx) : (s.setCtx n x).smbus = s.smbus := rfl
@[simp] theorem State.setCtx_eid (s : State) (n : Nat) (x : Ctx) : (s.setCtx n x).eid = s.eid := rfl
@[simp] theorem State.setCtx_perst (s : State) (n : Nat) (x : Ctx) : (s.setCtx n x).perst = s.perst := rfl
@[simp] theorem State.setCtx_ctrEff (s : State) (n : Nat) (x : Ctx) : (s.setCtx n x).ctrEff = s.ctrEff := rfl
@[simp] theorem State.setCtx_fuseSpares (s : State) (n : Nat) (x : Ctx) : (s.setCtx n x).fuseSpares = s.fuseSpares := rfl
@[simp] theorem State.setCtx_fuseCells (s : State) (n : Nat) (x : Ctx) : (s.setCtx n x).fuseCells = s.fuseCells := rfl
@[simp] theorem State.setCtx_cells (s : State) (n : Nat) (x : Ctx) : (s.setCtx n x).cells = s.cells := rfl

/-! Drawing a free value changes `freeCtr` only. -/
@[simp] theorem State.freeVal_pending (s : State) (w : Nat) : ((s.freeVal w).2).pending = s.pending := rfl
@[simp] theorem State.freeVal_pktCtr (s : State) (w : Nat) : ((s.freeVal w).2).pktCtr = s.pktCtr := rfl
@[simp] theorem State.freeVal_part384 (s : State) (w : Nat) : ((s.freeVal w).2).part384 = s.part384 := rfl
@[simp] theorem State.freeVal_phase (s : State) (w : Nat) : ((s.freeVal w).2).phase = s.phase := rfl
@[simp] theorem State.freeVal_stage (s : State) (w : Nat) : ((s.freeVal w).2).stage = s.stage := rfl
@[simp] theorem State.freeVal_warm (s : State) (w : Nat) : ((s.freeVal w).2).warm = s.warm := rfl
@[simp] theorem State.freeVal_aon (s : State) (w : Nat) : ((s.freeVal w).2).aon = s.aon := rfl
@[simp] theorem State.freeVal_time (s : State) (w : Nat) : ((s.freeVal w).2).time = s.time := rfl
@[simp] theorem State.freeVal_cores (s : State) (w : Nat) : ((s.freeVal w).2).cores = s.cores := rfl
@[simp] theorem State.freeVal_net (s : State) (w : Nat) : ((s.freeVal w).2).net = s.net := rfl
@[simp] theorem State.freeVal_commons (s : State) (w : Nat) : ((s.freeVal w).2).commons = s.commons := rfl
@[simp] theorem State.freeVal_sliceInst (s : State) (w : Nat) : ((s.freeVal w).2).sliceInst = s.sliceInst := rfl
@[simp] theorem State.freeVal_hbm (s : State) (w : Nat) : ((s.freeVal w).2).hbm = s.hbm := rfl
@[simp] theorem State.freeVal_hbmInst (s : State) (w : Nat) : ((s.freeVal w).2).hbmInst = s.hbmInst := rfl
@[simp] theorem State.freeVal_writeQ (s : State) (w : Nat) : ((s.freeVal w).2).writeQ = s.writeQ := rfl
@[simp] theorem State.freeVal_set (s : State) (w : Nat) : ((s.freeVal w).2).set = s.set := rfl
@[simp] theorem State.freeVal_parts (s : State) (w : Nat) : ((s.freeVal w).2).parts = s.parts := rfl
@[simp] theorem State.freeVal_places (s : State) (w : Nat) : ((s.freeVal w).2).places = s.places := rfl
@[simp] theorem State.freeVal_slots (s : State) (w : Nat) : ((s.freeVal w).2).slots = s.slots := rfl
@[simp] theorem State.freeVal_contracts (s : State) (w : Nat) : ((s.freeVal w).2).contracts = s.contracts := rfl
@[simp] theorem State.freeVal_ctxs (s : State) (w : Nat) : ((s.freeVal w).2).ctxs = s.ctxs := rfl
@[simp] theorem State.freeVal_hists (s : State) (w : Nat) : ((s.freeVal w).2).hists = s.hists := rfl
@[simp] theorem State.freeVal_zeroJobs (s : State) (w : Nat) : ((s.freeVal w).2).zeroJobs = s.zeroJobs := rfl
@[simp] theorem State.freeVal_jobCtr (s : State) (w : Nat) : ((s.freeVal w).2).jobCtr = s.jobCtr := rfl
@[simp] theorem State.freeVal_fns (s : State) (w : Nat) : ((s.freeVal w).2).fns = s.fns := rfl
@[simp] theorem State.freeVal_qps (s : State) (w : Nat) : ((s.freeVal w).2).qps = s.qps := rfl
@[simp] theorem State.freeVal_hostMem (s : State) (w : Nat) : ((s.freeVal w).2).hostMem = s.hostMem := rfl
@[simp] theorem State.freeVal_out (s : State) (w : Nat) : ((s.freeVal w).2).out = s.out := rfl
@[simp] theorem State.freeVal_err (s : State) (w : Nat) : ((s.freeVal w).2).err = s.err := rfl
@[simp] theorem State.freeVal_sec (s : State) (w : Nat) : ((s.freeVal w).2).sec = s.sec := rfl
@[simp] theorem State.freeVal_pwr (s : State) (w : Nat) : ((s.freeVal w).2).pwr = s.pwr := rfl
@[simp] theorem State.freeVal_nv (s : State) (w : Nat) : ((s.freeVal w).2).nv = s.nv := rfl
@[simp] theorem State.freeVal_spares (s : State) (w : Nat) : ((s.freeVal w).2).spares = s.spares := rfl
@[simp] theorem State.freeVal_bypass (s : State) (w : Nat) : ((s.freeVal w).2).bypass = s.bypass := rfl
@[simp] theorem State.freeVal_links (s : State) (w : Nat) : ((s.freeVal w).2).links = s.links := rfl
@[simp] theorem State.freeVal_linkHold (s : State) (w : Nat) : ((s.freeVal w).2).linkHold = s.linkHold := rfl
@[simp] theorem State.freeVal_i3cAddr (s : State) (w : Nat) : ((s.freeVal w).2).i3cAddr = s.i3cAddr := rfl
@[simp] theorem State.freeVal_smbus (s : State) (w : Nat) : ((s.freeVal w).2).smbus = s.smbus := rfl
@[simp] theorem State.freeVal_eid (s : State) (w : Nat) : ((s.freeVal w).2).eid = s.eid := rfl
@[simp] theorem State.freeVal_perst (s : State) (w : Nat) : ((s.freeVal w).2).perst = s.perst := rfl
@[simp] theorem State.freeVal_ctrEff (s : State) (w : Nat) : ((s.freeVal w).2).ctrEff = s.ctrEff := rfl
@[simp] theorem State.freeVal_fuseSpares (s : State) (w : Nat) : ((s.freeVal w).2).fuseSpares = s.fuseSpares := rfl
@[simp] theorem State.freeVal_fuseCells (s : State) (w : Nat) : ((s.freeVal w).2).fuseCells = s.fuseCells := rfl
@[simp] theorem State.freeVal_cells (s : State) (w : Nat) : ((s.freeVal w).2).cells = s.cells := rfl

/-! `Core.setThread` changes `threads` only. -/
@[simp] theorem Core.setThread_place (k : Core) (t : BitVec 2) (x : Thread) : (k.setThread t x).place = k.place := rfl
@[simp] theorem Core.setThread_altitude (k : Core) (t : BitVec 2) (x : Thread) : (k.setThread t x).altitude = k.altitude := rfl
@[simp] theorem Core.setThread_part (k : Core) (t : BitVec 2) (x : Thread) : (k.setThread t x).part = k.part := rfl
@[simp] theorem Core.setThread_sh (k : Core) (t : BitVec 2) (x : Thread) : (k.setThread t x).sh = k.sh := rfl
@[simp] theorem Core.setThread_qcfg (k : Core) (t : BitVec 2) (x : Thread) : (k.setThread t x).qcfg = k.qcfg := rfl
@[simp] theorem Core.setThread_ports (k : Core) (t : BitVec 2) (x : Thread) : (k.setThread t x).ports = k.ports := rfl
@[simp] theorem Core.setThread_ticket (k : Core) (t : BitVec 2) (x : Thread) : (k.setThread t x).ticket = k.ticket := rfl
@[simp] theorem Core.setThread_istore (k : Core) (t : BitVec 2) (x : Thread) : (k.setThread t x).istore = k.istore := rfl
@[simp] theorem Core.setThread_lm (k : Core) (t : BitVec 2) (x : Thread) : (k.setThread t x).lm = k.lm := rfl
@[simp] theorem Core.setThread_ptrS (k : Core) (t : BitVec 2) (x : Thread) : (k.setThread t x).ptrS = k.ptrS := rfl
@[simp] theorem Core.setThread_ptrV (k : Core) (t : BitVec 2) (x : Thread) : (k.setThread t x).ptrV = k.ptrV := rfl
@[simp] theorem Core.setThread_ptrM (k : Core) (t : BitVec 2) (x : Thread) : (k.setThread t x).ptrM = k.ptrM := rfl
@[simp] theorem Core.setThread_ptrX (k : Core) (t : BitVec 2) (x : Thread) : (k.setThread t x).ptrX = k.ptrX := rfl
@[simp] theorem Core.setThread_me (k : Core) (t : BitVec 2) (x : Thread) : (k.setThread t x).me = k.me := rfl
@[simp] theorem Core.setThread_fcq (k : Core) (t : BitVec 2) (x : Thread) : (k.setThread t x).fcq = k.fcq := rfl
@[simp] theorem Core.setThread_chans (k : Core) (t : BitVec 2) (x : Thread) : (k.setThread t x).chans = k.chans := rfl
@[simp] theorem Core.setThread_dmaRetry (k : Core) (t : BitVec 2) (x : Thread) : (k.setThread t x).dmaRetry = k.dmaRetry := rfl
@[simp] theorem Core.setThread_sync (k : Core) (t : BitVec 2) (x : Thread) : (k.setThread t x).sync = k.sync := rfl
@[simp] theorem Core.setThread_insts (k : Core) (t : BitVec 2) (x : Thread) : (k.setThread t x).insts = k.insts := rfl
@[simp] theorem Core.setThread_e2e (k : Core) (t : BitVec 2) (x : Thread) : (k.setThread t x).e2e = k.e2e := rfl
@[simp] theorem Core.setThread_stale (k : Core) (t : BitVec 2) (x : Thread) : (k.setThread t x).stale = k.stale := rfl
@[simp] theorem Core.setThread_cycle (k : Core) (t : BitVec 2) (x : Thread) : (k.setThread t x).cycle = k.cycle := rfl
@[simp] theorem Core.setThread_perf (k : Core) (t : BitVec 2) (x : Thread) : (k.setThread t x).perf = k.perf := rfl
@[simp] theorem Core.setThread_cairnHold (k : Core) (t : BitVec 2) (x : Thread) : (k.setThread t x).cairnHold = k.cairnHold := rfl
@[simp] theorem Core.setThread_dorhal (k : Core) (t : BitVec 2) (x : Thread) : (k.setThread t x).dorhal = k.dorhal := rfl
@[simp] theorem Core.setThread_slots (k : Core) (t : BitVec 2) (x : Thread) : (k.setThread t x).slots = k.slots := rfl
@[simp] theorem Core.setThread_rotCls (k : Core) (t : BitVec 2) (x : Thread) : (k.setThread t x).rotCls = k.rotCls := rfl
@[simp] theorem Core.setThread_rotPort (k : Core) (t : BitVec 2) (x : Thread) : (k.setThread t x).rotPort = k.rotPort := rfl
@[simp] theorem Core.setThread_group (k : Core) (t : BitVec 2) (x : Thread) : (k.setThread t x).group = k.group := rfl
@[simp] theorem Core.setThread_crcFails (k : Core) (t : BitVec 2) (x : Thread) : (k.setThread t x).crcFails = k.crcFails := rfl
@[simp] theorem Core.setThread_granted (k : Core) (t : BitVec 2) (x : Thread) : (k.setThread t x).granted = k.granted := rfl
@[simp] theorem Core.setThread_replay (k : Core) (t : BitVec 2) (x : Thread) : (k.setThread t x).replay = k.replay := rfl

/-! `Core.setMe` changes `me` only. -/
@[simp] theorem Core.setMe_place (k : Core) (m : Me) : (k.setMe m).place = k.place := rfl
@[simp] theorem Core.setMe_altitude (k : Core) (m : Me) : (k.setMe m).altitude = k.altitude := rfl
@[simp] theorem Core.setMe_part (k : Core) (m : Me) : (k.setMe m).part = k.part := rfl
@[simp] theorem Core.setMe_threads (k : Core) (m : Me) : (k.setMe m).threads = k.threads := rfl
@[simp] theorem Core.setMe_sh (k : Core) (m : Me) : (k.setMe m).sh = k.sh := rfl
@[simp] theorem Core.setMe_qcfg (k : Core) (m : Me) : (k.setMe m).qcfg = k.qcfg := rfl
@[simp] theorem Core.setMe_ports (k : Core) (m : Me) : (k.setMe m).ports = k.ports := rfl
@[simp] theorem Core.setMe_ticket (k : Core) (m : Me) : (k.setMe m).ticket = k.ticket := rfl
@[simp] theorem Core.setMe_istore (k : Core) (m : Me) : (k.setMe m).istore = k.istore := rfl
@[simp] theorem Core.setMe_lm (k : Core) (m : Me) : (k.setMe m).lm = k.lm := rfl
@[simp] theorem Core.setMe_ptrS (k : Core) (m : Me) : (k.setMe m).ptrS = k.ptrS := rfl
@[simp] theorem Core.setMe_ptrV (k : Core) (m : Me) : (k.setMe m).ptrV = k.ptrV := rfl
@[simp] theorem Core.setMe_ptrM (k : Core) (m : Me) : (k.setMe m).ptrM = k.ptrM := rfl
@[simp] theorem Core.setMe_ptrX (k : Core) (m : Me) : (k.setMe m).ptrX = k.ptrX := rfl
@[simp] theorem Core.setMe_fcq (k : Core) (m : Me) : (k.setMe m).fcq = k.fcq := rfl
@[simp] theorem Core.setMe_chans (k : Core) (m : Me) : (k.setMe m).chans = k.chans := rfl
@[simp] theorem Core.setMe_dmaRetry (k : Core) (m : Me) : (k.setMe m).dmaRetry = k.dmaRetry := rfl
@[simp] theorem Core.setMe_sync (k : Core) (m : Me) : (k.setMe m).sync = k.sync := rfl
@[simp] theorem Core.setMe_insts (k : Core) (m : Me) : (k.setMe m).insts = k.insts := rfl
@[simp] theorem Core.setMe_e2e (k : Core) (m : Me) : (k.setMe m).e2e = k.e2e := rfl
@[simp] theorem Core.setMe_stale (k : Core) (m : Me) : (k.setMe m).stale = k.stale := rfl
@[simp] theorem Core.setMe_cycle (k : Core) (m : Me) : (k.setMe m).cycle = k.cycle := rfl
@[simp] theorem Core.setMe_perf (k : Core) (m : Me) : (k.setMe m).perf = k.perf := rfl
@[simp] theorem Core.setMe_cairnHold (k : Core) (m : Me) : (k.setMe m).cairnHold = k.cairnHold := rfl
@[simp] theorem Core.setMe_dorhal (k : Core) (m : Me) : (k.setMe m).dorhal = k.dorhal := rfl
@[simp] theorem Core.setMe_slots (k : Core) (m : Me) : (k.setMe m).slots = k.slots := rfl
@[simp] theorem Core.setMe_rotCls (k : Core) (m : Me) : (k.setMe m).rotCls = k.rotCls := rfl
@[simp] theorem Core.setMe_rotPort (k : Core) (m : Me) : (k.setMe m).rotPort = k.rotPort := rfl
@[simp] theorem Core.setMe_group (k : Core) (m : Me) : (k.setMe m).group = k.group := rfl
@[simp] theorem Core.setMe_crcFails (k : Core) (m : Me) : (k.setMe m).crcFails = k.crcFails := rfl
@[simp] theorem Core.setMe_granted (k : Core) (m : Me) : (k.setMe m).granted = k.granted := rfl
@[simp] theorem Core.setMe_replay (k : Core) (m : Me) : (k.setMe m).replay = k.replay := rfl

/-! `Core.setSync` changes `sync` only. -/
@[simp] theorem Core.setSync_place (k : Core) (y : Sync) : (k.setSync y).place = k.place := rfl
@[simp] theorem Core.setSync_altitude (k : Core) (y : Sync) : (k.setSync y).altitude = k.altitude := rfl
@[simp] theorem Core.setSync_part (k : Core) (y : Sync) : (k.setSync y).part = k.part := rfl
@[simp] theorem Core.setSync_threads (k : Core) (y : Sync) : (k.setSync y).threads = k.threads := rfl
@[simp] theorem Core.setSync_sh (k : Core) (y : Sync) : (k.setSync y).sh = k.sh := rfl
@[simp] theorem Core.setSync_qcfg (k : Core) (y : Sync) : (k.setSync y).qcfg = k.qcfg := rfl
@[simp] theorem Core.setSync_ports (k : Core) (y : Sync) : (k.setSync y).ports = k.ports := rfl
@[simp] theorem Core.setSync_ticket (k : Core) (y : Sync) : (k.setSync y).ticket = k.ticket := rfl
@[simp] theorem Core.setSync_istore (k : Core) (y : Sync) : (k.setSync y).istore = k.istore := rfl
@[simp] theorem Core.setSync_lm (k : Core) (y : Sync) : (k.setSync y).lm = k.lm := rfl
@[simp] theorem Core.setSync_ptrS (k : Core) (y : Sync) : (k.setSync y).ptrS = k.ptrS := rfl
@[simp] theorem Core.setSync_ptrV (k : Core) (y : Sync) : (k.setSync y).ptrV = k.ptrV := rfl
@[simp] theorem Core.setSync_ptrM (k : Core) (y : Sync) : (k.setSync y).ptrM = k.ptrM := rfl
@[simp] theorem Core.setSync_ptrX (k : Core) (y : Sync) : (k.setSync y).ptrX = k.ptrX := rfl
@[simp] theorem Core.setSync_me (k : Core) (y : Sync) : (k.setSync y).me = k.me := rfl
@[simp] theorem Core.setSync_fcq (k : Core) (y : Sync) : (k.setSync y).fcq = k.fcq := rfl
@[simp] theorem Core.setSync_chans (k : Core) (y : Sync) : (k.setSync y).chans = k.chans := rfl
@[simp] theorem Core.setSync_dmaRetry (k : Core) (y : Sync) : (k.setSync y).dmaRetry = k.dmaRetry := rfl
@[simp] theorem Core.setSync_insts (k : Core) (y : Sync) : (k.setSync y).insts = k.insts := rfl
@[simp] theorem Core.setSync_e2e (k : Core) (y : Sync) : (k.setSync y).e2e = k.e2e := rfl
@[simp] theorem Core.setSync_stale (k : Core) (y : Sync) : (k.setSync y).stale = k.stale := rfl
@[simp] theorem Core.setSync_cycle (k : Core) (y : Sync) : (k.setSync y).cycle = k.cycle := rfl
@[simp] theorem Core.setSync_perf (k : Core) (y : Sync) : (k.setSync y).perf = k.perf := rfl
@[simp] theorem Core.setSync_cairnHold (k : Core) (y : Sync) : (k.setSync y).cairnHold = k.cairnHold := rfl
@[simp] theorem Core.setSync_dorhal (k : Core) (y : Sync) : (k.setSync y).dorhal = k.dorhal := rfl
@[simp] theorem Core.setSync_slots (k : Core) (y : Sync) : (k.setSync y).slots = k.slots := rfl
@[simp] theorem Core.setSync_rotCls (k : Core) (y : Sync) : (k.setSync y).rotCls = k.rotCls := rfl
@[simp] theorem Core.setSync_rotPort (k : Core) (y : Sync) : (k.setSync y).rotPort = k.rotPort := rfl
@[simp] theorem Core.setSync_group (k : Core) (y : Sync) : (k.setSync y).group = k.group := rfl
@[simp] theorem Core.setSync_crcFails (k : Core) (y : Sync) : (k.setSync y).crcFails = k.crcFails := rfl
@[simp] theorem Core.setSync_granted (k : Core) (y : Sync) : (k.setSync y).granted = k.granted := rfl
@[simp] theorem Core.setSync_replay (k : Core) (y : Sync) : (k.setSync y).replay = k.replay := rfl

/-! `Core.setInst` changes `insts` only. -/
@[simp] theorem Core.setInst_place (k : Core) (n : Nat) (i : Inst) : (k.setInst n i).place = k.place := rfl
@[simp] theorem Core.setInst_altitude (k : Core) (n : Nat) (i : Inst) : (k.setInst n i).altitude = k.altitude := rfl
@[simp] theorem Core.setInst_part (k : Core) (n : Nat) (i : Inst) : (k.setInst n i).part = k.part := rfl
@[simp] theorem Core.setInst_threads (k : Core) (n : Nat) (i : Inst) : (k.setInst n i).threads = k.threads := rfl
@[simp] theorem Core.setInst_sh (k : Core) (n : Nat) (i : Inst) : (k.setInst n i).sh = k.sh := rfl
@[simp] theorem Core.setInst_qcfg (k : Core) (n : Nat) (i : Inst) : (k.setInst n i).qcfg = k.qcfg := rfl
@[simp] theorem Core.setInst_ports (k : Core) (n : Nat) (i : Inst) : (k.setInst n i).ports = k.ports := rfl
@[simp] theorem Core.setInst_ticket (k : Core) (n : Nat) (i : Inst) : (k.setInst n i).ticket = k.ticket := rfl
@[simp] theorem Core.setInst_istore (k : Core) (n : Nat) (i : Inst) : (k.setInst n i).istore = k.istore := rfl
@[simp] theorem Core.setInst_lm (k : Core) (n : Nat) (i : Inst) : (k.setInst n i).lm = k.lm := rfl
@[simp] theorem Core.setInst_ptrS (k : Core) (n : Nat) (i : Inst) : (k.setInst n i).ptrS = k.ptrS := rfl
@[simp] theorem Core.setInst_ptrV (k : Core) (n : Nat) (i : Inst) : (k.setInst n i).ptrV = k.ptrV := rfl
@[simp] theorem Core.setInst_ptrM (k : Core) (n : Nat) (i : Inst) : (k.setInst n i).ptrM = k.ptrM := rfl
@[simp] theorem Core.setInst_ptrX (k : Core) (n : Nat) (i : Inst) : (k.setInst n i).ptrX = k.ptrX := rfl
@[simp] theorem Core.setInst_me (k : Core) (n : Nat) (i : Inst) : (k.setInst n i).me = k.me := rfl
@[simp] theorem Core.setInst_fcq (k : Core) (n : Nat) (i : Inst) : (k.setInst n i).fcq = k.fcq := rfl
@[simp] theorem Core.setInst_chans (k : Core) (n : Nat) (i : Inst) : (k.setInst n i).chans = k.chans := rfl
@[simp] theorem Core.setInst_dmaRetry (k : Core) (n : Nat) (i : Inst) : (k.setInst n i).dmaRetry = k.dmaRetry := rfl
@[simp] theorem Core.setInst_sync (k : Core) (n : Nat) (i : Inst) : (k.setInst n i).sync = k.sync := rfl
@[simp] theorem Core.setInst_e2e (k : Core) (n : Nat) (i : Inst) : (k.setInst n i).e2e = k.e2e := rfl
@[simp] theorem Core.setInst_stale (k : Core) (n : Nat) (i : Inst) : (k.setInst n i).stale = k.stale := rfl
@[simp] theorem Core.setInst_cycle (k : Core) (n : Nat) (i : Inst) : (k.setInst n i).cycle = k.cycle := rfl
@[simp] theorem Core.setInst_perf (k : Core) (n : Nat) (i : Inst) : (k.setInst n i).perf = k.perf := rfl
@[simp] theorem Core.setInst_cairnHold (k : Core) (n : Nat) (i : Inst) : (k.setInst n i).cairnHold = k.cairnHold := rfl
@[simp] theorem Core.setInst_dorhal (k : Core) (n : Nat) (i : Inst) : (k.setInst n i).dorhal = k.dorhal := rfl
@[simp] theorem Core.setInst_slots (k : Core) (n : Nat) (i : Inst) : (k.setInst n i).slots = k.slots := rfl
@[simp] theorem Core.setInst_rotCls (k : Core) (n : Nat) (i : Inst) : (k.setInst n i).rotCls = k.rotCls := rfl
@[simp] theorem Core.setInst_rotPort (k : Core) (n : Nat) (i : Inst) : (k.setInst n i).rotPort = k.rotPort := rfl
@[simp] theorem Core.setInst_group (k : Core) (n : Nat) (i : Inst) : (k.setInst n i).group = k.group := rfl
@[simp] theorem Core.setInst_crcFails (k : Core) (n : Nat) (i : Inst) : (k.setInst n i).crcFails = k.crcFails := rfl
@[simp] theorem Core.setInst_granted (k : Core) (n : Nat) (i : Inst) : (k.setInst n i).granted = k.granted := rfl
@[simp] theorem Core.setInst_replay (k : Core) (n : Nat) (i : Inst) : (k.setInst n i).replay = k.replay := rfl

/-! `Core.setPort` changes `ports` only. -/
@[simp] theorem Core.setPort_place (k : Core) (p : Nat) (es : List QEntry) : (k.setPort p es).place = k.place := rfl
@[simp] theorem Core.setPort_altitude (k : Core) (p : Nat) (es : List QEntry) : (k.setPort p es).altitude = k.altitude := rfl
@[simp] theorem Core.setPort_part (k : Core) (p : Nat) (es : List QEntry) : (k.setPort p es).part = k.part := rfl
@[simp] theorem Core.setPort_threads (k : Core) (p : Nat) (es : List QEntry) : (k.setPort p es).threads = k.threads := rfl
@[simp] theorem Core.setPort_sh (k : Core) (p : Nat) (es : List QEntry) : (k.setPort p es).sh = k.sh := rfl
@[simp] theorem Core.setPort_qcfg (k : Core) (p : Nat) (es : List QEntry) : (k.setPort p es).qcfg = k.qcfg := rfl
@[simp] theorem Core.setPort_ticket (k : Core) (p : Nat) (es : List QEntry) : (k.setPort p es).ticket = k.ticket := rfl
@[simp] theorem Core.setPort_istore (k : Core) (p : Nat) (es : List QEntry) : (k.setPort p es).istore = k.istore := rfl
@[simp] theorem Core.setPort_lm (k : Core) (p : Nat) (es : List QEntry) : (k.setPort p es).lm = k.lm := rfl
@[simp] theorem Core.setPort_ptrS (k : Core) (p : Nat) (es : List QEntry) : (k.setPort p es).ptrS = k.ptrS := rfl
@[simp] theorem Core.setPort_ptrV (k : Core) (p : Nat) (es : List QEntry) : (k.setPort p es).ptrV = k.ptrV := rfl
@[simp] theorem Core.setPort_ptrM (k : Core) (p : Nat) (es : List QEntry) : (k.setPort p es).ptrM = k.ptrM := rfl
@[simp] theorem Core.setPort_ptrX (k : Core) (p : Nat) (es : List QEntry) : (k.setPort p es).ptrX = k.ptrX := rfl
@[simp] theorem Core.setPort_me (k : Core) (p : Nat) (es : List QEntry) : (k.setPort p es).me = k.me := rfl
@[simp] theorem Core.setPort_fcq (k : Core) (p : Nat) (es : List QEntry) : (k.setPort p es).fcq = k.fcq := rfl
@[simp] theorem Core.setPort_chans (k : Core) (p : Nat) (es : List QEntry) : (k.setPort p es).chans = k.chans := rfl
@[simp] theorem Core.setPort_dmaRetry (k : Core) (p : Nat) (es : List QEntry) : (k.setPort p es).dmaRetry = k.dmaRetry := rfl
@[simp] theorem Core.setPort_sync (k : Core) (p : Nat) (es : List QEntry) : (k.setPort p es).sync = k.sync := rfl
@[simp] theorem Core.setPort_insts (k : Core) (p : Nat) (es : List QEntry) : (k.setPort p es).insts = k.insts := rfl
@[simp] theorem Core.setPort_e2e (k : Core) (p : Nat) (es : List QEntry) : (k.setPort p es).e2e = k.e2e := rfl
@[simp] theorem Core.setPort_stale (k : Core) (p : Nat) (es : List QEntry) : (k.setPort p es).stale = k.stale := rfl
@[simp] theorem Core.setPort_cycle (k : Core) (p : Nat) (es : List QEntry) : (k.setPort p es).cycle = k.cycle := rfl
@[simp] theorem Core.setPort_perf (k : Core) (p : Nat) (es : List QEntry) : (k.setPort p es).perf = k.perf := rfl
@[simp] theorem Core.setPort_cairnHold (k : Core) (p : Nat) (es : List QEntry) : (k.setPort p es).cairnHold = k.cairnHold := rfl
@[simp] theorem Core.setPort_dorhal (k : Core) (p : Nat) (es : List QEntry) : (k.setPort p es).dorhal = k.dorhal := rfl
@[simp] theorem Core.setPort_slots (k : Core) (p : Nat) (es : List QEntry) : (k.setPort p es).slots = k.slots := rfl
@[simp] theorem Core.setPort_rotCls (k : Core) (p : Nat) (es : List QEntry) : (k.setPort p es).rotCls = k.rotCls := rfl
@[simp] theorem Core.setPort_rotPort (k : Core) (p : Nat) (es : List QEntry) : (k.setPort p es).rotPort = k.rotPort := rfl
@[simp] theorem Core.setPort_group (k : Core) (p : Nat) (es : List QEntry) : (k.setPort p es).group = k.group := rfl
@[simp] theorem Core.setPort_crcFails (k : Core) (p : Nat) (es : List QEntry) : (k.setPort p es).crcFails = k.crcFails := rfl
@[simp] theorem Core.setPort_granted (k : Core) (p : Nat) (es : List QEntry) : (k.setPort p es).granted = k.granted := rfl
@[simp] theorem Core.setPort_replay (k : Core) (p : Nat) (es : List QEntry) : (k.setPort p es).replay = k.replay := rfl

/-! `Core.setChan` changes `chans` only. -/
@[simp] theorem Core.setChan_place (k : Core) (n : Nat) (x : Chan) : (k.setChan n x).place = k.place := rfl
@[simp] theorem Core.setChan_altitude (k : Core) (n : Nat) (x : Chan) : (k.setChan n x).altitude = k.altitude := rfl
@[simp] theorem Core.setChan_part (k : Core) (n : Nat) (x : Chan) : (k.setChan n x).part = k.part := rfl
@[simp] theorem Core.setChan_threads (k : Core) (n : Nat) (x : Chan) : (k.setChan n x).threads = k.threads := rfl
@[simp] theorem Core.setChan_sh (k : Core) (n : Nat) (x : Chan) : (k.setChan n x).sh = k.sh := rfl
@[simp] theorem Core.setChan_qcfg (k : Core) (n : Nat) (x : Chan) : (k.setChan n x).qcfg = k.qcfg := rfl
@[simp] theorem Core.setChan_ports (k : Core) (n : Nat) (x : Chan) : (k.setChan n x).ports = k.ports := rfl
@[simp] theorem Core.setChan_ticket (k : Core) (n : Nat) (x : Chan) : (k.setChan n x).ticket = k.ticket := rfl
@[simp] theorem Core.setChan_istore (k : Core) (n : Nat) (x : Chan) : (k.setChan n x).istore = k.istore := rfl
@[simp] theorem Core.setChan_lm (k : Core) (n : Nat) (x : Chan) : (k.setChan n x).lm = k.lm := rfl
@[simp] theorem Core.setChan_ptrS (k : Core) (n : Nat) (x : Chan) : (k.setChan n x).ptrS = k.ptrS := rfl
@[simp] theorem Core.setChan_ptrV (k : Core) (n : Nat) (x : Chan) : (k.setChan n x).ptrV = k.ptrV := rfl
@[simp] theorem Core.setChan_ptrM (k : Core) (n : Nat) (x : Chan) : (k.setChan n x).ptrM = k.ptrM := rfl
@[simp] theorem Core.setChan_ptrX (k : Core) (n : Nat) (x : Chan) : (k.setChan n x).ptrX = k.ptrX := rfl
@[simp] theorem Core.setChan_me (k : Core) (n : Nat) (x : Chan) : (k.setChan n x).me = k.me := rfl
@[simp] theorem Core.setChan_fcq (k : Core) (n : Nat) (x : Chan) : (k.setChan n x).fcq = k.fcq := rfl
@[simp] theorem Core.setChan_dmaRetry (k : Core) (n : Nat) (x : Chan) : (k.setChan n x).dmaRetry = k.dmaRetry := rfl
@[simp] theorem Core.setChan_sync (k : Core) (n : Nat) (x : Chan) : (k.setChan n x).sync = k.sync := rfl
@[simp] theorem Core.setChan_insts (k : Core) (n : Nat) (x : Chan) : (k.setChan n x).insts = k.insts := rfl
@[simp] theorem Core.setChan_e2e (k : Core) (n : Nat) (x : Chan) : (k.setChan n x).e2e = k.e2e := rfl
@[simp] theorem Core.setChan_stale (k : Core) (n : Nat) (x : Chan) : (k.setChan n x).stale = k.stale := rfl
@[simp] theorem Core.setChan_cycle (k : Core) (n : Nat) (x : Chan) : (k.setChan n x).cycle = k.cycle := rfl
@[simp] theorem Core.setChan_perf (k : Core) (n : Nat) (x : Chan) : (k.setChan n x).perf = k.perf := rfl
@[simp] theorem Core.setChan_cairnHold (k : Core) (n : Nat) (x : Chan) : (k.setChan n x).cairnHold = k.cairnHold := rfl
@[simp] theorem Core.setChan_dorhal (k : Core) (n : Nat) (x : Chan) : (k.setChan n x).dorhal = k.dorhal := rfl
@[simp] theorem Core.setChan_slots (k : Core) (n : Nat) (x : Chan) : (k.setChan n x).slots = k.slots := rfl
@[simp] theorem Core.setChan_rotCls (k : Core) (n : Nat) (x : Chan) : (k.setChan n x).rotCls = k.rotCls := rfl
@[simp] theorem Core.setChan_rotPort (k : Core) (n : Nat) (x : Chan) : (k.setChan n x).rotPort = k.rotPort := rfl
@[simp] theorem Core.setChan_group (k : Core) (n : Nat) (x : Chan) : (k.setChan n x).group = k.group := rfl
@[simp] theorem Core.setChan_crcFails (k : Core) (n : Nat) (x : Chan) : (k.setChan n x).crcFails = k.crcFails := rfl
@[simp] theorem Core.setChan_granted (k : Core) (n : Nat) (x : Chan) : (k.setChan n x).granted = k.granted := rfl
@[simp] theorem Core.setChan_replay (k : Core) (n : Nat) (x : Chan) : (k.setChan n x).replay = k.replay := rfl

/-! `Thread.writeV` changes `v` only. -/
@[simp] theorem Thread.writeV_st (th : Thread) (n : Nat) (x : W512) : (th.writeV n x).st = th.st := rfl
@[simp] theorem Thread.writeV_parkedFrom (th : Thread) (n : Nat) (x : W512) : (th.writeV n x).parkedFrom = th.parkedFrom := rfl
@[simp] theorem Thread.writeV_pc (th : Thread) (n : Nat) (x : W512) : (th.writeV n x).pc = th.pc := rfl
@[simp] theorem Thread.writeV_past (th : Thread) (n : Nat) (x : W512) : (th.writeV n x).past = th.past := rfl
@[simp] theorem Thread.writeV_tick (th : Thread) (n : Nat) (x : W512) : (th.writeV n x).tick = th.tick := rfl
@[simp] theorem Thread.writeV_g (th : Thread) (n : Nat) (x : W512) : (th.writeV n x).g = th.g := rfl
@[simp] theorem Thread.writeV_p (th : Thread) (n : Nat) (x : W512) : (th.writeV n x).p = th.p := rfl
@[simp] theorem Thread.writeV_lc (th : Thread) (n : Nat) (x : W512) : (th.writeV n x).lc = th.lc := rfl
@[simp] theorem Thread.writeV_pend (th : Thread) (n : Nat) (x : W512) : (th.writeV n x).pend = th.pend := rfl
@[simp] theorem Thread.writeV_loops (th : Thread) (n : Nat) (x : W512) : (th.writeV n x).loops = th.loops := rfl
@[simp] theorem Thread.writeV_arith (th : Thread) (n : Nat) (x : W512) : (th.writeV n x).arith = th.arith := rfl
@[simp] theorem Thread.writeV_rngS (th : Thread) (n : Nat) (x : W512) : (th.writeV n x).rngS = th.rngS := rfl
@[simp] theorem Thread.writeV_rngM (th : Thread) (n : Nat) (x : W512) : (th.writeV n x).rngM = th.rngM := rfl
@[simp] theorem Thread.writeV_rngEpoch (th : Thread) (n : Nat) (x : W512) : (th.writeV n x).rngEpoch = th.rngEpoch := rfl
@[simp] theorem Thread.writeV_rngOld (th : Thread) (n : Nat) (x : W512) : (th.writeV n x).rngOld = th.rngOld := rfl
@[simp] theorem Thread.writeV_waitTo (th : Thread) (n : Nat) (x : W512) : (th.writeV n x).waitTo = th.waitTo := rfl
@[simp] theorem Thread.writeV_wait (th : Thread) (n : Nat) (x : W512) : (th.writeV n x).wait = th.wait := rfl
@[simp] theorem Thread.writeV_dsync (th : Thread) (n : Nat) (x : W512) : (th.writeV n x).dsync = th.dsync := rfl
@[simp] theorem Thread.writeV_clamped (th : Thread) (n : Nat) (x : W512) : (th.writeV n x).clamped = th.clamped := rfl
@[simp] theorem Thread.writeV_fault (th : Thread) (n : Nat) (x : W512) : (th.writeV n x).fault = th.fault := rfl
@[simp] theorem Thread.writeV_faddr (th : Thread) (n : Nat) (x : W512) : (th.writeV n x).faddr = th.faddr := rfl
@[simp] theorem Thread.writeV_startPc (th : Thread) (n : Nat) (x : W512) : (th.writeV n x).startPc = th.startPc := rfl
@[simp] theorem Thread.writeV_priv (th : Thread) (n : Nat) (x : W512) : (th.writeV n x).priv = th.priv := rfl
@[simp] theorem Thread.writeV_startHeld (th : Thread) (n : Nat) (x : W512) : (th.writeV n x).startHeld = th.startHeld := rfl
@[simp] theorem Thread.writeV_intSel (th : Thread) (n : Nat) (x : W512) : (th.writeV n x).intSel = th.intSel := rfl
@[simp] theorem Thread.writeV_alarm (th : Thread) (n : Nat) (x : W512) : (th.writeV n x).alarm = th.alarm := rfl
@[simp] theorem Thread.writeV_claims (th : Thread) (n : Nat) (x : W512) : (th.writeV n x).claims = th.claims := rfl
@[simp] theorem Thread.writeV_async (th : Thread) (n : Nat) (x : W512) : (th.writeV n x).async = th.async := rfl
@[simp] theorem Thread.writeV_dsyncHeld (th : Thread) (n : Nat) (x : W512) : (th.writeV n x).dsyncHeld = th.dsyncHeld := rfl
@[simp] theorem Thread.writeV_issued (th : Thread) (n : Nat) (x : W512) : (th.writeV n x).issued = th.issued := rfl

/-! `Thread.writeLc` changes `lc` only. -/
@[simp] theorem Thread.writeLc_st (th : Thread) (n : Nat) (x : W32) : (th.writeLc n x).st = th.st := rfl
@[simp] theorem Thread.writeLc_parkedFrom (th : Thread) (n : Nat) (x : W32) : (th.writeLc n x).parkedFrom = th.parkedFrom := rfl
@[simp] theorem Thread.writeLc_pc (th : Thread) (n : Nat) (x : W32) : (th.writeLc n x).pc = th.pc := rfl
@[simp] theorem Thread.writeLc_past (th : Thread) (n : Nat) (x : W32) : (th.writeLc n x).past = th.past := rfl
@[simp] theorem Thread.writeLc_tick (th : Thread) (n : Nat) (x : W32) : (th.writeLc n x).tick = th.tick := rfl
@[simp] theorem Thread.writeLc_g (th : Thread) (n : Nat) (x : W32) : (th.writeLc n x).g = th.g := rfl
@[simp] theorem Thread.writeLc_p (th : Thread) (n : Nat) (x : W32) : (th.writeLc n x).p = th.p := rfl
@[simp] theorem Thread.writeLc_v (th : Thread) (n : Nat) (x : W32) : (th.writeLc n x).v = th.v := rfl
@[simp] theorem Thread.writeLc_pend (th : Thread) (n : Nat) (x : W32) : (th.writeLc n x).pend = th.pend := rfl
@[simp] theorem Thread.writeLc_loops (th : Thread) (n : Nat) (x : W32) : (th.writeLc n x).loops = th.loops := rfl
@[simp] theorem Thread.writeLc_arith (th : Thread) (n : Nat) (x : W32) : (th.writeLc n x).arith = th.arith := rfl
@[simp] theorem Thread.writeLc_rngS (th : Thread) (n : Nat) (x : W32) : (th.writeLc n x).rngS = th.rngS := rfl
@[simp] theorem Thread.writeLc_rngM (th : Thread) (n : Nat) (x : W32) : (th.writeLc n x).rngM = th.rngM := rfl
@[simp] theorem Thread.writeLc_rngEpoch (th : Thread) (n : Nat) (x : W32) : (th.writeLc n x).rngEpoch = th.rngEpoch := rfl
@[simp] theorem Thread.writeLc_rngOld (th : Thread) (n : Nat) (x : W32) : (th.writeLc n x).rngOld = th.rngOld := rfl
@[simp] theorem Thread.writeLc_waitTo (th : Thread) (n : Nat) (x : W32) : (th.writeLc n x).waitTo = th.waitTo := rfl
@[simp] theorem Thread.writeLc_wait (th : Thread) (n : Nat) (x : W32) : (th.writeLc n x).wait = th.wait := rfl
@[simp] theorem Thread.writeLc_dsync (th : Thread) (n : Nat) (x : W32) : (th.writeLc n x).dsync = th.dsync := rfl
@[simp] theorem Thread.writeLc_clamped (th : Thread) (n : Nat) (x : W32) : (th.writeLc n x).clamped = th.clamped := rfl
@[simp] theorem Thread.writeLc_fault (th : Thread) (n : Nat) (x : W32) : (th.writeLc n x).fault = th.fault := rfl
@[simp] theorem Thread.writeLc_faddr (th : Thread) (n : Nat) (x : W32) : (th.writeLc n x).faddr = th.faddr := rfl
@[simp] theorem Thread.writeLc_startPc (th : Thread) (n : Nat) (x : W32) : (th.writeLc n x).startPc = th.startPc := rfl
@[simp] theorem Thread.writeLc_priv (th : Thread) (n : Nat) (x : W32) : (th.writeLc n x).priv = th.priv := rfl
@[simp] theorem Thread.writeLc_startHeld (th : Thread) (n : Nat) (x : W32) : (th.writeLc n x).startHeld = th.startHeld := rfl
@[simp] theorem Thread.writeLc_intSel (th : Thread) (n : Nat) (x : W32) : (th.writeLc n x).intSel = th.intSel := rfl
@[simp] theorem Thread.writeLc_alarm (th : Thread) (n : Nat) (x : W32) : (th.writeLc n x).alarm = th.alarm := rfl
@[simp] theorem Thread.writeLc_claims (th : Thread) (n : Nat) (x : W32) : (th.writeLc n x).claims = th.claims := rfl
@[simp] theorem Thread.writeLc_async (th : Thread) (n : Nat) (x : W32) : (th.writeLc n x).async = th.async := rfl
@[simp] theorem Thread.writeLc_dsyncHeld (th : Thread) (n : Nat) (x : W32) : (th.writeLc n x).dsyncHeld = th.dsyncHeld := rfl
@[simp] theorem Thread.writeLc_issued (th : Thread) (n : Nat) (x : W32) : (th.writeLc n x).issued = th.issued := rfl

/-! `Thread.writeG` changes `g` only. -/
@[simp] theorem Thread.writeG_st (th : Thread) (n : Nat) (v : W64) : (th.writeG n v).st = th.st := by unfold Thread.writeG; split <;> rfl
@[simp] theorem Thread.writeG_parkedFrom (th : Thread) (n : Nat) (v : W64) : (th.writeG n v).parkedFrom = th.parkedFrom := by unfold Thread.writeG; split <;> rfl
@[simp] theorem Thread.writeG_pc (th : Thread) (n : Nat) (v : W64) : (th.writeG n v).pc = th.pc := by unfold Thread.writeG; split <;> rfl
@[simp] theorem Thread.writeG_past (th : Thread) (n : Nat) (v : W64) : (th.writeG n v).past = th.past := by unfold Thread.writeG; split <;> rfl
@[simp] theorem Thread.writeG_tick (th : Thread) (n : Nat) (v : W64) : (th.writeG n v).tick = th.tick := by unfold Thread.writeG; split <;> rfl
@[simp] theorem Thread.writeG_p (th : Thread) (n : Nat) (v : W64) : (th.writeG n v).p = th.p := by unfold Thread.writeG; split <;> rfl
@[simp] theorem Thread.writeG_v (th : Thread) (n : Nat) (v : W64) : (th.writeG n v).v = th.v := by unfold Thread.writeG; split <;> rfl
@[simp] theorem Thread.writeG_lc (th : Thread) (n : Nat) (v : W64) : (th.writeG n v).lc = th.lc := by unfold Thread.writeG; split <;> rfl
@[simp] theorem Thread.writeG_pend (th : Thread) (n : Nat) (v : W64) : (th.writeG n v).pend = th.pend := by unfold Thread.writeG; split <;> rfl
@[simp] theorem Thread.writeG_loops (th : Thread) (n : Nat) (v : W64) : (th.writeG n v).loops = th.loops := by unfold Thread.writeG; split <;> rfl
@[simp] theorem Thread.writeG_arith (th : Thread) (n : Nat) (v : W64) : (th.writeG n v).arith = th.arith := by unfold Thread.writeG; split <;> rfl
@[simp] theorem Thread.writeG_rngS (th : Thread) (n : Nat) (v : W64) : (th.writeG n v).rngS = th.rngS := by unfold Thread.writeG; split <;> rfl
@[simp] theorem Thread.writeG_rngM (th : Thread) (n : Nat) (v : W64) : (th.writeG n v).rngM = th.rngM := by unfold Thread.writeG; split <;> rfl
@[simp] theorem Thread.writeG_rngEpoch (th : Thread) (n : Nat) (v : W64) : (th.writeG n v).rngEpoch = th.rngEpoch := by unfold Thread.writeG; split <;> rfl
@[simp] theorem Thread.writeG_rngOld (th : Thread) (n : Nat) (v : W64) : (th.writeG n v).rngOld = th.rngOld := by unfold Thread.writeG; split <;> rfl
@[simp] theorem Thread.writeG_waitTo (th : Thread) (n : Nat) (v : W64) : (th.writeG n v).waitTo = th.waitTo := by unfold Thread.writeG; split <;> rfl
@[simp] theorem Thread.writeG_wait (th : Thread) (n : Nat) (v : W64) : (th.writeG n v).wait = th.wait := by unfold Thread.writeG; split <;> rfl
@[simp] theorem Thread.writeG_dsync (th : Thread) (n : Nat) (v : W64) : (th.writeG n v).dsync = th.dsync := by unfold Thread.writeG; split <;> rfl
@[simp] theorem Thread.writeG_clamped (th : Thread) (n : Nat) (v : W64) : (th.writeG n v).clamped = th.clamped := by unfold Thread.writeG; split <;> rfl
@[simp] theorem Thread.writeG_fault (th : Thread) (n : Nat) (v : W64) : (th.writeG n v).fault = th.fault := by unfold Thread.writeG; split <;> rfl
@[simp] theorem Thread.writeG_faddr (th : Thread) (n : Nat) (v : W64) : (th.writeG n v).faddr = th.faddr := by unfold Thread.writeG; split <;> rfl
@[simp] theorem Thread.writeG_startPc (th : Thread) (n : Nat) (v : W64) : (th.writeG n v).startPc = th.startPc := by unfold Thread.writeG; split <;> rfl
@[simp] theorem Thread.writeG_priv (th : Thread) (n : Nat) (v : W64) : (th.writeG n v).priv = th.priv := by unfold Thread.writeG; split <;> rfl
@[simp] theorem Thread.writeG_startHeld (th : Thread) (n : Nat) (v : W64) : (th.writeG n v).startHeld = th.startHeld := by unfold Thread.writeG; split <;> rfl
@[simp] theorem Thread.writeG_intSel (th : Thread) (n : Nat) (v : W64) : (th.writeG n v).intSel = th.intSel := by unfold Thread.writeG; split <;> rfl
@[simp] theorem Thread.writeG_alarm (th : Thread) (n : Nat) (v : W64) : (th.writeG n v).alarm = th.alarm := by unfold Thread.writeG; split <;> rfl
@[simp] theorem Thread.writeG_claims (th : Thread) (n : Nat) (v : W64) : (th.writeG n v).claims = th.claims := by unfold Thread.writeG; split <;> rfl
@[simp] theorem Thread.writeG_async (th : Thread) (n : Nat) (v : W64) : (th.writeG n v).async = th.async := by unfold Thread.writeG; split <;> rfl
@[simp] theorem Thread.writeG_dsyncHeld (th : Thread) (n : Nat) (v : W64) : (th.writeG n v).dsyncHeld = th.dsyncHeld := by unfold Thread.writeG; split <;> rfl
@[simp] theorem Thread.writeG_issued (th : Thread) (n : Nat) (v : W64) : (th.writeG n v).issued = th.issued := by unfold Thread.writeG; split <;> rfl

/-! `Thread.writeP` changes `p` only. -/
@[simp] theorem Thread.writeP_st (th : Thread) (n : Nat) (b : Bool) : (th.writeP n b).st = th.st := by unfold Thread.writeP; split <;> rfl
@[simp] theorem Thread.writeP_parkedFrom (th : Thread) (n : Nat) (b : Bool) : (th.writeP n b).parkedFrom = th.parkedFrom := by unfold Thread.writeP; split <;> rfl
@[simp] theorem Thread.writeP_pc (th : Thread) (n : Nat) (b : Bool) : (th.writeP n b).pc = th.pc := by unfold Thread.writeP; split <;> rfl
@[simp] theorem Thread.writeP_past (th : Thread) (n : Nat) (b : Bool) : (th.writeP n b).past = th.past := by unfold Thread.writeP; split <;> rfl
@[simp] theorem Thread.writeP_tick (th : Thread) (n : Nat) (b : Bool) : (th.writeP n b).tick = th.tick := by unfold Thread.writeP; split <;> rfl
@[simp] theorem Thread.writeP_g (th : Thread) (n : Nat) (b : Bool) : (th.writeP n b).g = th.g := by unfold Thread.writeP; split <;> rfl
@[simp] theorem Thread.writeP_v (th : Thread) (n : Nat) (b : Bool) : (th.writeP n b).v = th.v := by unfold Thread.writeP; split <;> rfl
@[simp] theorem Thread.writeP_lc (th : Thread) (n : Nat) (b : Bool) : (th.writeP n b).lc = th.lc := by unfold Thread.writeP; split <;> rfl
@[simp] theorem Thread.writeP_pend (th : Thread) (n : Nat) (b : Bool) : (th.writeP n b).pend = th.pend := by unfold Thread.writeP; split <;> rfl
@[simp] theorem Thread.writeP_loops (th : Thread) (n : Nat) (b : Bool) : (th.writeP n b).loops = th.loops := by unfold Thread.writeP; split <;> rfl
@[simp] theorem Thread.writeP_arith (th : Thread) (n : Nat) (b : Bool) : (th.writeP n b).arith = th.arith := by unfold Thread.writeP; split <;> rfl
@[simp] theorem Thread.writeP_rngS (th : Thread) (n : Nat) (b : Bool) : (th.writeP n b).rngS = th.rngS := by unfold Thread.writeP; split <;> rfl
@[simp] theorem Thread.writeP_rngM (th : Thread) (n : Nat) (b : Bool) : (th.writeP n b).rngM = th.rngM := by unfold Thread.writeP; split <;> rfl
@[simp] theorem Thread.writeP_rngEpoch (th : Thread) (n : Nat) (b : Bool) : (th.writeP n b).rngEpoch = th.rngEpoch := by unfold Thread.writeP; split <;> rfl
@[simp] theorem Thread.writeP_rngOld (th : Thread) (n : Nat) (b : Bool) : (th.writeP n b).rngOld = th.rngOld := by unfold Thread.writeP; split <;> rfl
@[simp] theorem Thread.writeP_waitTo (th : Thread) (n : Nat) (b : Bool) : (th.writeP n b).waitTo = th.waitTo := by unfold Thread.writeP; split <;> rfl
@[simp] theorem Thread.writeP_wait (th : Thread) (n : Nat) (b : Bool) : (th.writeP n b).wait = th.wait := by unfold Thread.writeP; split <;> rfl
@[simp] theorem Thread.writeP_dsync (th : Thread) (n : Nat) (b : Bool) : (th.writeP n b).dsync = th.dsync := by unfold Thread.writeP; split <;> rfl
@[simp] theorem Thread.writeP_clamped (th : Thread) (n : Nat) (b : Bool) : (th.writeP n b).clamped = th.clamped := by unfold Thread.writeP; split <;> rfl
@[simp] theorem Thread.writeP_fault (th : Thread) (n : Nat) (b : Bool) : (th.writeP n b).fault = th.fault := by unfold Thread.writeP; split <;> rfl
@[simp] theorem Thread.writeP_faddr (th : Thread) (n : Nat) (b : Bool) : (th.writeP n b).faddr = th.faddr := by unfold Thread.writeP; split <;> rfl
@[simp] theorem Thread.writeP_startPc (th : Thread) (n : Nat) (b : Bool) : (th.writeP n b).startPc = th.startPc := by unfold Thread.writeP; split <;> rfl
@[simp] theorem Thread.writeP_priv (th : Thread) (n : Nat) (b : Bool) : (th.writeP n b).priv = th.priv := by unfold Thread.writeP; split <;> rfl
@[simp] theorem Thread.writeP_startHeld (th : Thread) (n : Nat) (b : Bool) : (th.writeP n b).startHeld = th.startHeld := by unfold Thread.writeP; split <;> rfl
@[simp] theorem Thread.writeP_intSel (th : Thread) (n : Nat) (b : Bool) : (th.writeP n b).intSel = th.intSel := by unfold Thread.writeP; split <;> rfl
@[simp] theorem Thread.writeP_alarm (th : Thread) (n : Nat) (b : Bool) : (th.writeP n b).alarm = th.alarm := by unfold Thread.writeP; split <;> rfl
@[simp] theorem Thread.writeP_claims (th : Thread) (n : Nat) (b : Bool) : (th.writeP n b).claims = th.claims := by unfold Thread.writeP; split <;> rfl
@[simp] theorem Thread.writeP_async (th : Thread) (n : Nat) (b : Bool) : (th.writeP n b).async = th.async := by unfold Thread.writeP; split <;> rfl
@[simp] theorem Thread.writeP_dsyncHeld (th : Thread) (n : Nat) (b : Bool) : (th.writeP n b).dsyncHeld = th.dsyncHeld := by unfold Thread.writeP; split <;> rfl
@[simp] theorem Thread.writeP_issued (th : Thread) (n : Nat) (b : Bool) : (th.writeP n b).issued = th.issued := by unfold Thread.writeP; split <;> rfl

end Sys2Proof.Machine
end

