-- ==== Sys2Proof/Laws/Issue.lean ====
section
/-! SUPPORT. What `issue` answers, said once: the lemmas that every statement about a core instruction goes through. -/

namespace Sys2Proof.Machine

open Sys2Proof.Safety

theorem issCtx_len (s : State) (l : Layout) : (issCtx s l.i l.op l.imm).len = l.len := rfl
theorem issCtx_pc (s : State) (l : Layout) : (issCtx s l.i l.op l.imm).pc = (l.th s).pc := rfl

/-- A decodable instruction has its opcode behind at most 15 prefix bytes. -/
theorem encFaults_nil {op : Nat} {px : List Prefix} {ops : List Byte} {imm : W32} (h : encFaults op px ops imm = []) :
    ∃ f ks, opSig op = some (f, ks) ∧ insnLen px f ≤ 16 := by
  unfold encFaults at h
  split at h
  · simp at h
  · rename_i f ks hs
    refine ⟨f, ks, hs, ?_⟩
    simp only [List.append_eq_nil_iff] at h
    refine Decidable.byContradiction (fun hc => ?_)
    have h2 := h.2
    rw [if_pos (by omega)] at h2
    simp at h2

/-- With all its bytes in the store, an instruction raises exactly its encoding's faults. -/
theorem fetchedFaults_all {avail op : Nat} {px : List Prefix} {ops : List Byte} {imm : W32} {f : Form} {ks : List Kind}
    (hs : opSig op = some (f, ks)) (hl : insnLen px f ≤ avail) (hp : (px.map prefixLen).sum ≤ 15) :
    opFound avail px = true ∧ fetchedFaults avail op px ops imm = encFaults op px ops imm := by
  have ho : opFound avail px = true := by
    unfold opFound insnLen at *
    simp only [Bool.and_eq_true, decide_eq_true_eq]
    omega
  exact ⟨ho, by simp [fetchedFaults, ho, hs, hl]⟩

/-! ## Fetching leaves everything but the store's code, its counts and the reports -/

theorem reportUes_core (s : State) (c : CoreId) (bads : List (Nat × Bool)) (c' : CoreId) : (reportUes s c bads).core c' = s.core c' := by
  unfold reportUes
  generalize bads.filter _ = l
  induction l generalizing s with
  | nil => rfl
  | cons b l ih => rw [List.foldl_cons, ih]; rfl

/-- The core after a fetch: its instruction store's bytes and integrity registers may have changed, nothing else. -/
theorem fetchBytes_core (s : State) (c : CoreId) (pc len : Nat) :
    ∃ m i, (fetchBytes s c pc len).2.core c = { s.core c with istore := m, insts := i } := by
  unfold fetchBytes
  dsimp only
  split
  · exact ⟨_, _, rfl⟩
  · rw [reportUes_core, State.core_setCore]
    exact ⟨_, _, rfl⟩

theorem fetchBytes_core_ne (s : State) {c c' : CoreId} (pc len : Nat) (h : c' ≠ c) :
    (fetchBytes s c pc len).2.core c' = s.core c' := by
  unfold fetchBytes
  dsimp only
  split
  · rfl
  · rw [reportUes_core, State.core_setCore_ne _ _ h]

/-- The queue of an instruction's unit is the same after its fetch. -/
theorem queueFull_fetched (s : State) (c : CoreId) (pc len op : Nat) : queueFull ((fetchBytes s c pc len).2.core c) op = queueFull (s.core c) op := by
  obtain ⟨m, i, h⟩ := fetchBytes_core s c pc len
  rw [h]; rfl

/-- The answer of an instruction that issues, before its guard, its unit's queue and its slot's grant are looked at. -/
theorem issue_issues {s : State} {l : Layout} (body : Iss → IssRes) (h : Issues s l) :
    issue s l.i l.op l.ops l.imm body =
      (let grant : State → Res := fun t => .next (if slotGrants s l.i.core l.i.thr (issueSlot (l.th s) l.i.px l.op) then t else s)
       let n := s.err.reports.length
       if guardHolds (l.th s) l.i.px = false then grant (finishIssue (fetched s l).s (fetched s l) (opSlot l.op) [] none)
       else if queueFull (s.core l.i.core) l.op then .next s
       else match body (fetched s l) with
         | .done s' ws jump => grant (finishIssue s' (fetched s l) (opSlot l.op) ws jump)
         | .wait s' w => .next (enterWait s' l.i.core l.i.thr w)
         | .notReady => .next s
         | .fault fs => grant (issueFault (fetched s l).s (fetched s l) (opSlot l.op) fs n)
         | .faultAt s' code addr => grant (issueFault s' (fetched s l) (opSlot l.op) [(code, addr)] n)) := by
  obtain ⟨⟨hc, hk, hst, had⟩, ⟨hpast, hin⟩, hf, he⟩ := h
  obtain ⟨f, ks, hs, h16⟩ := encFaults_nil he
  have hlen : l.len = insnLen l.i.px f := by simp [Layout.len, hs]
  have hp15 : (l.i.px.map prefixLen).sum ≤ 15 := by unfold insnLen at h16; omega
  have hav := fetchedFaults_all (ops := l.ops) (imm := l.imm) hs (avail := 0x10000 - (l.th s).pc.toNat) (by omega) hp15
  have hst' : ((l.th s).st == .running || (l.th s).st == .waiting) = true := by
    rcases hst with h | h <;> simp [h]
  have hq := queueFull_fetched s l.i.core (l.th s).pc.toNat l.len l.op
  unfold Layout.th at *
  unfold FetchClean Layout.th at hf
  unfold issue fetched Layout.th issueSlot
  simp only [hc, hk, hst', had, issCtx_len, issCtx_pc, Layout.th, hpast, hf, hav.1, hav.2, he, hq, Bool.not_true, Bool.false_eq_true, if_false,
    Bool.or_self, Bool.false_and, Bool.false_or, List.map_nil, List.nil_append, if_true]
  rw [if_neg (by simp [show ¬ (0x10000 < (s.thread l.i.core l.i.thr).pc.toNat + l.len) by omega])]
  simp only [Bool.not_eq_eq_eq_not, Bool.not_true]
  all_goals rfl

/-- The answer of an instruction that runs: what its own meaning answers, finished. -/
theorem issue_runs {s : State} {l : Layout} (body : Iss → IssRes) (h : Runs s l) :
    issue s l.i l.op l.ops l.imm body = match body (fetched s l) with
      | .done s' ws jump => .next (finishIssue s' (fetched s l) (opSlot l.op) ws jump)
      | .wait s' w => .next (enterWait s' l.i.core l.i.thr w)
      | .notReady => .next s
      | .fault fs => .next (issueFault (fetched s l).s (fetched s l) (opSlot l.op) fs s.err.reports.length)
      | .faultAt s' code addr => .next (issueFault s' (fetched s l) (opSlot l.op) [(code, addr)] s.err.reports.length) := by
  obtain ⟨⟨hi, hg, hq⟩, hr⟩ := h
  unfold Granted at hr
  rw [issue_issues body hi]
  simp only [hg, hq, hr, Bool.false_eq_true, Bool.true_eq_false, if_false, if_true]

theorem fetched_k (s : State) (l : Layout) : ∃ m i, (fetched s l).k = { s.core l.i.core with istore := m, insts := i } :=
  fetchBytes_core ..
@[simp] theorem fetched_c (s : State) (l : Layout) : (fetched s l).c = l.i.core := rfl
@[simp] theorem fetched_t (s : State) (l : Layout) : (fetched s l).t = l.i.thr := rfl
@[simp] theorem fetched_px (s : State) (l : Layout) : (fetched s l).px = l.i.px := rfl
@[simp] theorem fetched_pc (s : State) (l : Layout) : (fetched s l).pc = (l.th s).pc := rfl
@[simp] theorem fetched_len (s : State) (l : Layout) : (fetched s l).len = l.len := rfl
theorem fetched_th (s : State) (l : Layout) : (fetched s l).th = l.th s := by
  unfold Iss.th
  obtain ⟨m, i, h⟩ := fetched_k s l
  rw [h]; rfl
theorem fetched_mode (s : State) (l : Layout) : (fetched s l).mode = (l.rnd s).1 := by
  show (issCtx s l.i l.op l.imm).mode = _
  unfold issCtx Layout.rnd Layout.th
  dsimp only
  all_goals cases roundingOf l.i.px <;> rfl
theorem fetched_sat (s : State) (l : Layout) : (fetched s l).sat = (l.rnd s).2 := by
  show (issCtx s l.i l.op l.imm).sat = _
  unfold issCtx Layout.rnd Layout.th
  dsimp only
  all_goals cases roundingOf l.i.px <;> rfl

theorem srcVal_fetched (s : State) (l : Layout) (b : Byte) : srcVal (fetched s l).k l.i.thr b = l.src s b := by
  obtain ⟨m, i, h⟩ := fetched_k s l
  rw [h]; rfl
theorem operandsReady_fetched {s : State} {l : Layout} {ds srcs : List Byte} (h : OperandsReady (s.core l.i.core) l.i.thr ds srcs) :
    OperandsReady (fetched s l).k l.i.thr ds srcs := by
  obtain ⟨m, i, hk⟩ := fetched_k s l
  rw [hk]; exact h

/-- Operands that are ready stand in no instruction's way, where no fault of the values that they show applies. -/
theorem withOpsV_ready {x : Iss} {shown : List W64 → List (Nat × W64)} {ds srcs : List Byte} (body : Core → List W64 → List Dst → IssRes)
    (h : OperandsReady x.k x.t ds srcs) (hv : shown (srcs.map (srcVal x.k x.t)) = []) :
    withOpsV x [] shown ds srcs body =
      (let kd := ds.foldl (fun (kd : Core × List Dst) b => let (k, d) := takeDst kd.1 b; (k, kd.2 ++ [d])) (sourced x srcs, [])
       body kd.1 (srcs.map (srcVal x.k x.t)) kd.2) := by
  obtain ⟨h1, h2, h3, h4⟩ := h
  simp [withOpsV, sourced, h1, h2, h3, h4, hv]
theorem withOpsF_ready {x : Iss} {ds srcs : List Byte} (body : Core → List W64 → List Dst → IssRes) (h : OperandsReady x.k x.t ds srcs) :
    withOpsF x [] ds srcs body =
      (let kd := ds.foldl (fun (kd : Core × List Dst) b => let (k, d) := takeDst kd.1 b; (k, kd.2 ++ [d])) (sourced x srcs, [])
       body kd.1 (srcs.map (srcVal x.k x.t)) kd.2) := by
  exact withOpsV_ready (shown := fun _ => []) body h rfl
theorem withOps_ready {x : Iss} {ds srcs : List Byte} (body : Core → List W64 → List Dst → IssRes) (h : OperandsReady x.k x.t ds srcs) :
    withOps x ds srcs body =
      (let kd := ds.foldl (fun (kd : Core × List Dst) b => let (k, d) := takeDst kd.1 b; (k, kd.2 ++ [d])) (sourced x srcs, [])
       body kd.1 (srcs.map (srcVal x.k x.t)) kd.2) := withOpsF_ready body h

/-- A scalar result of ready operands. -/
theorem scalar_runs {s : State} {l : Layout} {lat : Nat} {d : Byte} {srcs : List Byte} (f : Iss → List W64 → W64) (h : Runs s l)
    (ho : OperandsReady (s.core l.i.core) l.i.thr [d] srcs) :
    issue s l.i l.op l.ops l.imm (fun x => scalarRes x lat d srcs (f x)) =
      .next (scalarDone (fetched s l) (opSlot l.op) lat d srcs (f (fetched s l) (srcs.map (l.src s)))) := by
  rw [issue_runs _ h]
  unfold scalarRes
  rw [withOps_ready _ (operandsReady_fetched ho)]
  have hm : srcs.map (srcVal (fetched s l).k (fetched s l).t) = srcs.map (l.src s) :=
    List.map_congr_left (fun b _ => srcVal_fetched s l b)
  simp only [List.foldl, hm]
  rfl

/-! ## Every core instruction is an issue of its own bytes -/

/-- Each core instruction issues the opcode, operand bytes and immediate of its layout. -/
theorem layout_issue {c : Instr} {l : Layout} (h : layout c = some l) :
    ∃ body, ∀ s, exec c s = issue s l.i l.op l.ops l.imm body := by
  cases c
  case reservedOpcode i opc =>
    simp only [layout] at h
    split at h
    · cases h
    · rename_i hn
      cases h
      exact ⟨_, fun s => by show execReservedOpcode i opc s = _; unfold execReservedOpcode; rw [if_neg hn]⟩
  case nop i => cases h; exact ⟨_, fun s => by show execNop i s = _; unfold execNop; rfl⟩
  case add i o1 o2 o3 => cases h; exact ⟨_, fun s => by show execAdd i o1 o2 o3 s = _; unfold execAdd intOp; rfl⟩
  case sub i o1 o2 o3 => cases h; exact ⟨_, fun s => by show execSub i o1 o2 o3 s = _; unfold execSub intOp; rfl⟩
  case andR i o1 o2 o3 => cases h; exact ⟨_, fun s => by show execAnd i o1 o2 o3 s = _; unfold execAnd intOp; rfl⟩
  case orR i o1 o2 o3 => cases h; exact ⟨_, fun s => by show execOr i o1 o2 o3 s = _; unfold execOr intOp; rfl⟩
  case xorR i o1 o2 o3 => cases h; exact ⟨_, fun s => by show execXor i o1 o2 o3 s = _; unfold execXor intOp; rfl⟩
  case shl i o1 o2 o3 => cases h; exact ⟨_, fun s => by show execShl i o1 o2 o3 s = _; unfold execShl intOp; rfl⟩
  case shr i o1 o2 o3 => cases h; exact ⟨_, fun s => by show execShr i o1 o2 o3 s = _; unfold execShr intOp; rfl⟩
  case sar i o1 o2 o3 => cases h; exact ⟨_, fun s => by show execSar i o1 o2 o3 s = _; unfold execSar intOp; rfl⟩
  case minS i o1 o2 o3 => cases h; exact ⟨_, fun s => by show execMin i o1 o2 o3 s = _; unfold execMin intOp; rfl⟩
  case maxS i o1 o2 o3 => cases h; exact ⟨_, fun s => by show execMax i o1 o2 o3 s = _; unfold execMax intOp; rfl⟩
  case mul i o1 o2 o3 => cases h; exact ⟨_, fun s => by show execMul i o1 o2 o3 s = _; unfold execMul intOp; rfl⟩
  case mulh i o1 o2 o3 => cases h; exact ⟨_, fun s => by show execMulh i o1 o2 o3 s = _; unfold execMulh intOp; rfl⟩
  case fmul i o1 o2 o3 => cases h; exact ⟨_, fun s => by show execFmul i o1 o2 o3 s = _; unfold execFmul fracOp; rfl⟩
  case fadd i o1 o2 o3 => cases h; exact ⟨_, fun s => by show execFadd i o1 o2 o3 s = _; unfold execFadd fracOp; rfl⟩
  case fsub i o1 o2 o3 => cases h; exact ⟨_, fun s => by show execFsub i o1 o2 o3 s = _; unfold execFsub fracOp; rfl⟩
  case addi i o1 o2 imm => cases h; exact ⟨_, fun s => by show execAddi i o1 o2 imm s = _; unfold execAddi immOp; rfl⟩
  case andi i o1 o2 imm => cases h; exact ⟨_, fun s => by show execAndi i o1 o2 imm s = _; unfold execAndi immOp; rfl⟩
  case ori i o1 o2 imm => cases h; exact ⟨_, fun s => by show execOri i o1 o2 imm s = _; unfold execOri immOp; rfl⟩
  case xori i o1 o2 imm => cases h; exact ⟨_, fun s => by show execXori i o1 o2 imm s = _; unfold execXori immOp; rfl⟩
  case shli i o1 o2 imm => cases h; exact ⟨_, fun s => by show execShli i o1 o2 imm s = _; unfold execShli immOp; rfl⟩
  case shri i o1 o2 imm => cases h; exact ⟨_, fun s => by show execShri i o1 o2 imm s = _; unfold execShri immOp; rfl⟩
  case sari i o1 o2 imm => cases h; exact ⟨_, fun s => by show execSari i o1 o2 imm s = _; unfold execSari immOp; rfl⟩
  case muli i o1 o2 imm => cases h; exact ⟨_, fun s => by show execMuli i o1 o2 imm s = _; unfold execMuli immOp; rfl⟩
  case li i o1 imm => cases h; exact ⟨_, fun s => by show execLi i o1 imm s = _; unfold execLi; rfl⟩
  case lih i o1 imm => cases h; exact ⟨_, fun s => by show execLih i o1 imm s = _; unfold execLih; rfl⟩
  case mov i o1 o2 => cases h; exact ⟨_, fun s => by show execMov i o1 o2 s = _; unfold execMov unOp; rfl⟩
  case clz i o1 o2 => cases h; exact ⟨_, fun s => by show execClz i o1 o2 s = _; unfold execClz unOp; rfl⟩
  case popc i o1 o2 => cases h; exact ⟨_, fun s => by show execPopc i o1 o2 s = _; unfold execPopc unOp; rfl⟩
  case cmpeq i o1 o2 o3 => cases h; exact ⟨_, fun s => by show execCmpeq i o1 o2 o3 s = _; unfold execCmpeq cmpOp; rfl⟩
  case cmpne i o1 o2 o3 => cases h; exact ⟨_, fun s => by show execCmpne i o1 o2 o3 s = _; unfold execCmpne cmpOp; rfl⟩
  case cmplt i o1 o2 o3 => cases h; exact ⟨_, fun s => by show execCmplt i o1 o2 o3 s = _; unfold execCmplt cmpOp; rfl⟩
  case cmpltu i o1 o2 o3 => cases h; exact ⟨_, fun s => by show execCmpltu i o1 o2 o3 s = _; unfold execCmpltu cmpOp; rfl⟩
  case cmple i o1 o2 o3 => cases h; exact ⟨_, fun s => by show execCmple i o1 o2 o3 s = _; unfold execCmple cmpOp; rfl⟩
  case cmpleu i o1 o2 o3 => cases h; exact ⟨_, fun s => by show execCmpleu i o1 o2 o3 s = _; unfold execCmpleu cmpOp; rfl⟩
  case cmpeqi i o1 o2 imm => cases h; exact ⟨_, fun s => by show execCmpeqi i o1 o2 imm s = _; unfold execCmpeqi cmpImm; rfl⟩
  case cmpnei i o1 o2 imm => cases h; exact ⟨_, fun s => by show execCmpnei i o1 o2 imm s = _; unfold execCmpnei cmpImm; rfl⟩
  case cmplti i o1 o2 imm => cases h; exact ⟨_, fun s => by show execCmplti i o1 o2 imm s = _; unfold execCmplti cmpImm; rfl⟩
  case cmpltui i o1 o2 imm => cases h; exact ⟨_, fun s => by show execCmpltui i o1 o2 imm s = _; unfold execCmpltui cmpImm; rfl⟩
  case cmplei i o1 o2 imm => cases h; exact ⟨_, fun s => by show execCmplei i o1 o2 imm s = _; unfold execCmplei cmpImm; rfl⟩
  case cmpleui i o1 o2 imm => cases h; exact ⟨_, fun s => by show execCmpleui i o1 o2 imm s = _; unfold execCmpleui cmpImm; rfl⟩
  case pand i o1 o2 o3 => cases h; exact ⟨_, fun s => by show execPand i o1 o2 o3 s = _; unfold execPand predOp; rfl⟩
  case por i o1 o2 o3 => cases h; exact ⟨_, fun s => by show execPor i o1 o2 o3 s = _; unfold execPor predOp; rfl⟩
  case pxor i o1 o2 o3 => cases h; exact ⟨_, fun s => by show execPxor i o1 o2 o3 s = _; unfold execPxor predOp; rfl⟩
  case pnot i o1 o2 => cases h; exact ⟨_, fun s => by show execPnot i o1 o2 s = _; unfold execPnot predOp; rfl⟩
  case br i imm => cases h; exact ⟨_, fun s => by show execBr i imm s = _; unfold execBr; rfl⟩
  case brl i o1 imm => cases h; exact ⟨_, fun s => by show execBrl i o1 imm s = _; unfold execBrl; rfl⟩
  case jr i o1 imm => cases h; exact ⟨_, fun s => by show execJr i o1 imm s = _; unfold execJr; rfl⟩
  case loop i o1 o2 imm => cases h; exact ⟨_, fun s => by show execLoop i o1 o2 imm s = _; unfold execLoop; rfl⟩
  case loopt i o1 o2 imm => cases h; exact ⟨_, fun s => by show execLoopt i o1 o2 imm s = _; unfold execLoopt; rfl⟩
  case endT i => cases h; exact ⟨_, fun s => by show execEndT i s = _; unfold execEndT; rfl⟩
  case vadd i ty o1 o2 o3 => cases h; exact ⟨_, fun s => by show execVadd i ty o1 o2 o3 s = _; unfold execVadd laneOp vecIssue; rfl⟩
  case vsub i ty o1 o2 o3 => cases h; exact ⟨_, fun s => by show execVsub i ty o1 o2 o3 s = _; unfold execVsub laneOp vecIssue; rfl⟩
  case vmul i ty o1 o2 o3 => cases h; exact ⟨_, fun s => by show execVmul i ty o1 o2 o3 s = _; unfold execVmul laneOp vecIssue; rfl⟩
  case vfma i ty o1 o2 o3 => cases h; exact ⟨_, fun s => by show execVfma i ty o1 o2 o3 s = _; unfold execVfma laneOp vecIssue; rfl⟩
  case vmax i ty o1 o2 o3 => cases h; exact ⟨_, fun s => by show execVmax i ty o1 o2 o3 s = _; unfold execVmax plainOp laneOp vecIssue; rfl⟩
  case vmin i ty o1 o2 o3 => cases h; exact ⟨_, fun s => by show execVmin i ty o1 o2 o3 s = _; unfold execVmin plainOp laneOp vecIssue; rfl⟩
  case vand i ty o1 o2 o3 => cases h; exact ⟨_, fun s => by show execVand i ty o1 o2 o3 s = _; unfold execVand plainOp laneOp vecIssue; rfl⟩
  case vor i ty o1 o2 o3 => cases h; exact ⟨_, fun s => by show execVor i ty o1 o2 o3 s = _; unfold execVor plainOp laneOp vecIssue; rfl⟩
  case vxor i ty o1 o2 o3 => cases h; exact ⟨_, fun s => by show execVxor i ty o1 o2 o3 s = _; unfold execVxor plainOp laneOp vecIssue; rfl⟩
  case vshl i ty o1 o2 o3 => cases h; exact ⟨_, fun s => by show execVshl i ty o1 o2 o3 s = _; unfold execVshl plainOp laneOp vecIssue; rfl⟩
  case vshr i ty o1 o2 o3 => cases h; exact ⟨_, fun s => by show execVshr i ty o1 o2 o3 s = _; unfold execVshr plainOp laneOp vecIssue; rfl⟩
  case vcmplt i ty o1 o2 o3 => cases h; exact ⟨_, fun s => by show execVcmplt i ty o1 o2 o3 s = _; unfold execVcmplt plainOp laneOp vecIssue; rfl⟩
  case vcmpeq i ty o1 o2 o3 => cases h; exact ⟨_, fun s => by show execVcmpeq i ty o1 o2 o3 s = _; unfold execVcmpeq plainOp laneOp vecIssue; rfl⟩
  case vsel i ty o1 o2 o3 => cases h; exact ⟨_, fun s => by show execVsel i ty o1 o2 o3 s = _; unfold execVsel plainOp laneOp vecIssue; rfl⟩
  case vexp2 i ty o1 o2 => cases h; exact ⟨_, fun s => by show execVexp2 i ty o1 o2 s = _; unfold execVexp2 plainOp laneOp vecIssue; rfl⟩
  case vlog2 i ty o1 o2 => cases h; exact ⟨_, fun s => by show execVlog2 i ty o1 o2 s = _; unfold execVlog2 plainOp laneOp vecIssue; rfl⟩
  case vrcp i ty o1 o2 => cases h; exact ⟨_, fun s => by show execVrcp i ty o1 o2 s = _; unfold execVrcp plainOp laneOp vecIssue; rfl⟩
  case vrsqrt i ty o1 o2 => cases h; exact ⟨_, fun s => by show execVrsqrt i ty o1 o2 s = _; unfold execVrsqrt plainOp laneOp vecIssue; rfl⟩
  case vtanh i ty o1 o2 => cases h; exact ⟨_, fun s => by show execVtanh i ty o1 o2 s = _; unfold execVtanh plainOp laneOp vecIssue; rfl⟩
  case vsigm i ty o1 o2 => cases h; exact ⟨_, fun s => by show execVsigm i ty o1 o2 s = _; unfold execVsigm plainOp laneOp vecIssue; rfl⟩
  case vcvt i ty o1 o2 imm8 => cases h; exact ⟨_, fun s => by show execVcvt i ty o1 o2 imm8 s = _; unfold execVcvt; rfl⟩
  case vbcast i ty o1 o2 => cases h; exact ⟨_, fun s => by show execVbcast i ty o1 o2 s = _; unfold execVbcast; rfl⟩
  case vextr i ty o1 o2 imm8 => cases h; exact ⟨_, fun s => by show execVextr i ty o1 o2 imm8 s = _; unfold execVextr; rfl⟩
  case vperm i ty o1 o2 o3 => cases h; exact ⟨_, fun s => by show execVperm i ty o1 o2 o3 s = _; unfold execVperm vecIssue; rfl⟩
  case vredsum i ty o1 o2 => cases h; exact ⟨_, fun s => by show execVredsum i ty o1 o2 s = _; unfold execVredsum vecIssue; rfl⟩
  case vredmax i ty o1 o2 => cases h; exact ⟨_, fun s => by show execVredmax i ty o1 o2 s = _; unfold execVredmax vecIssue; rfl⟩
  case vrand i o1 => cases h; exact ⟨_, fun s => by show execVrand i o1 s = _; unfold execVrand vecIssue; rfl⟩
  case vtopk i ty o1 o2 imm8 => cases h; exact ⟨_, fun s => by show execVtopk i ty o1 o2 imm8 s = _; unfold execVtopk; rfl⟩
  case vsample i ty o1 o2 o3 => cases h; exact ⟨_, fun s => by show execVsample i ty o1 o2 o3 s = _; unfold execVsample vecIssue; rfl⟩
  case gate i ty o1 o2 imm8 => cases h; exact ⟨_, fun s => by show execGate i ty o1 o2 imm8 s = _; unfold execGate; rfl⟩
  case tcfg i o1 o2 => cases h; exact ⟨_, fun s => by show execTcfg i o1 o2 s = _; unfold execTcfg; rfl⟩
  case tfree i imm => cases h; exact ⟨_, fun s => by show execTfree i imm s = _; unfold execTfree; rfl⟩
  case tld i o1 o2 imm => cases h; exact ⟨_, fun s => by show execTld i o1 o2 imm s = _; unfold execTld; rfl⟩
  case tldc i o1 o2 o3 => cases h; exact ⟨_, fun s => by show execTldc i o1 o2 o3 s = _; unfold execTldc; rfl⟩
  case tst i o1 o2 imm => cases h; exact ⟨_, fun s => by show execTst i o1 o2 imm s = _; unfold execTst; rfl⟩
  case mma i o1 o2 o3 => cases h; exact ⟨_, fun s => by show execMma i o1 o2 o3 s = _; unfold execMma; rfl⟩
  case mmaz i o1 o2 o3 => cases h; exact ⟨_, fun s => by show execMmaz i o1 o2 o3 s = _; unfold execMmaz; rfl⟩
  case savetiles i o1 imm => cases h; exact ⟨_, fun s => by show execSavetiles i o1 imm s = _; unfold execSavetiles; rfl⟩
  case resttiles i o1 imm => cases h; exact ⟨_, fun s => by show execResttiles i o1 imm s = _; unfold execResttiles; rfl⟩
  case trdv i o1 o2 imm => cases h; exact ⟨_, fun s => by show execTrdv i o1 o2 imm s = _; unfold execTrdv; rfl⟩
  case twrv i o1 o2 imm => cases h; exact ⟨_, fun s => by show execTwrv i o1 o2 imm s = _; unfold execTwrv; rfl⟩
  case ld8 i o1 o2 imm => cases h; exact ⟨_, fun s => by show execLd8 i o1 o2 imm s = _; unfold execLd8 loadOp; rfl⟩
  case ld16 i o1 o2 imm => cases h; exact ⟨_, fun s => by show execLd16 i o1 o2 imm s = _; unfold execLd16 loadOp; rfl⟩
  case ld32 i o1 o2 imm => cases h; exact ⟨_, fun s => by show execLd32 i o1 o2 imm s = _; unfold execLd32 loadOp; rfl⟩
  case ld64 i o1 o2 imm => cases h; exact ⟨_, fun s => by show execLd64 i o1 o2 imm s = _; unfold execLd64 loadOp; rfl⟩
  case lds8 i o1 o2 imm => cases h; exact ⟨_, fun s => by show execLds8 i o1 o2 imm s = _; unfold execLds8 loadOp; rfl⟩
  case lds16 i o1 o2 imm => cases h; exact ⟨_, fun s => by show execLds16 i o1 o2 imm s = _; unfold execLds16 loadOp; rfl⟩
  case lds32 i o1 o2 imm => cases h; exact ⟨_, fun s => by show execLds32 i o1 o2 imm s = _; unfold execLds32 loadOp; rfl⟩
  case ldv i o1 o2 imm => cases h; exact ⟨_, fun s => by show execLdv i o1 o2 imm s = _; unfold execLdv loadOp; rfl⟩
  case st8 i o1 o2 imm => cases h; exact ⟨_, fun s => by show execSt8 i o1 o2 imm s = _; unfold execSt8 storeOp; rfl⟩
  case st16 i o1 o2 imm => cases h; exact ⟨_, fun s => by show execSt16 i o1 o2 imm s = _; unfold execSt16 storeOp; rfl⟩
  case st32 i o1 o2 imm => cases h; exact ⟨_, fun s => by show execSt32 i o1 o2 imm s = _; unfold execSt32 storeOp; rfl⟩
  case st64 i o1 o2 imm => cases h; exact ⟨_, fun s => by show execSt64 i o1 o2 imm s = _; unfold execSt64 storeOp; rfl⟩
  case stv i o1 o2 imm => cases h; exact ⟨_, fun s => by show execStv i o1 o2 imm s = _; unfold execStv; rfl⟩
  case rst i o1 o2 imm => cases h; exact ⟨_, fun s => by show execRst i o1 o2 imm s = _; unfold execRst; rfl⟩
  case cst i o1 o2 o3 => cases h; exact ⟨_, fun s => by show execCst i o1 o2 o3 s = _; unfold execCst; rfl⟩
  case aadd i o1 o2 o3 => cases h; exact ⟨_, fun s => by show execAadd i o1 o2 o3 s = _; unfold execAadd atomicOp; rfl⟩
  case amin i o1 o2 o3 => cases h; exact ⟨_, fun s => by show execAmin i o1 o2 o3 s = _; unfold execAmin atomicOp; rfl⟩
  case amax i o1 o2 o3 => cases h; exact ⟨_, fun s => by show execAmax i o1 o2 o3 s = _; unfold execAmax atomicOp; rfl⟩
  case aswap i o1 o2 o3 => cases h; exact ⟨_, fun s => by show execAswap i o1 o2 o3 s = _; unfold execAswap atomicOp; rfl⟩
  case rsend i o1 imm => cases h; exact ⟨_, fun s => by show execRsend i o1 imm s = _; unfold execRsend; rfl⟩
  case rsendt i imm => cases h; exact ⟨_, fun s => by show execRsendt i imm s = _; unfold execRsendt; rfl⟩
  case rrd i o1 o2 imm => cases h; exact ⟨_, fun s => by show execRrd i o1 o2 imm s = _; unfold execRrd; rfl⟩
  case route i o1 o2 o3 => cases h; exact ⟨_, fun s => by show execRoute i o1 o2 o3 s = _; unfold execRoute; rfl⟩
  case fill i o1 o2 o3 => cases h; exact ⟨_, fun s => by show execFill i o1 o2 o3 s = _; unfold execFill; rfl⟩
  case copy i o1 o2 o3 => cases h; exact ⟨_, fun s => by show execCopy i o1 o2 o3 s = _; unfold execCopy; rfl⟩
  case inp i o1 imm => cases h; exact ⟨_, fun s => by show execInp i o1 imm s = _; unfold execInp; rfl⟩
  case outp i o1 imm => cases h; exact ⟨_, fun s => by show execOutp i o1 imm s = _; unfold execOutp; rfl⟩
  case iload i o1 o2 o3 => cases h; exact ⟨_, fun s => by show execIload i o1 o2 o3 s = _; unfold execIload; rfl⟩
  case iverify i o1 o2 => cases h; exact ⟨_, fun s => by show execIverify i o1 o2 s = _; unfold execIverify; rfl⟩
  case wait i o1 imm => cases h; exact ⟨_, fun s => by show execWait i o1 imm s = _; unfold execWait; rfl⟩
  case msync i o1 imm => cases h; exact ⟨_, fun s => by show execMsync i o1 imm s = _; unfold execMsync; rfl⟩
  case dsync i o1 => cases h; exact ⟨_, fun s => by show execDsync i o1 s = _; unfold execDsync; rfl⟩
  case bar i imm => cases h; exact ⟨_, fun s => by show execBar i imm s = _; unfold execBar; rfl⟩
  all_goals (cases h; done)

/-- A false guard takes the tick and nothing else, when the slot grants the thread. -/
theorem issues_false {s : State} {l : Layout} (body) (h : Issues s l) (hg : guardHolds (l.th s) l.i.px = false) (hr : Granted s l) :
    issue s l.i l.op l.ops l.imm body = .next (finishIssue (fetched s l).s (fetched s l) (opSlot l.op) [] none) := by
  unfold Granted at hr
  rw [issue_issues body h]
  simp only [hg, hr, if_true]

/-- A full queue leaves the machine as it was (R173, R226). -/
theorem issue_queueFull {s : State} {l : Layout} (body) (h : Issues s l) (hg : guardHolds (l.th s) l.i.px = true)
    (hq : queueFull (s.core l.i.core) l.op = true) : issue s l.i l.op l.ops l.imm body = .next s := by
  rw [issue_issues body h]
  simp only [hg, hq, Bool.true_eq_false, if_false, if_true]

end Sys2Proof.Machine
end

