-- ==== Sys2Proof/Tests/Slice0.lean ====
section
/-! SUPPORT. Tests: commands that cannot be sent are refused, and for every statement with hypotheses a concrete state and operands that meet
them. Expected values are worked by hand from the spec. -/

namespace Sys2Proof.Tests

open Sys2Proof.Machine Sys2Proof.Safety

/-! ## Commands that cannot be sent -/

theorem test_ill_core : WellFormed.check (.endT ⟨0x1FFF, 0, []⟩) = some .noSuchCore := by decide
theorem test_ill_bytes : WellFormed.check (.undecodable 0 0 [0x00]) = some .decodable := by decide
theorem test_ill_opcode : WellFormed.check (.reservedOpcode ⟨0, 0, []⟩ 0x00) = some .listedOpcode := by decide
theorem test_ill_function : WellFormed.check (.flr ⟨0, 9⟩) = some .noSuchFunction := by decide
theorem test_ill_placement : WellFormed.check (.drain 2048) = some .noSuchPlacement := by decide
theorem test_ill_dies : WellFormed.check (.powerEvaluation 0 [0, 0] 0) = some .noSuchDie := by decide
theorem test_ill_access : WellFormed.check (.bar4Read ⟨0, 0⟩ 0 0) = some .badAccess := by decide
theorem test_well_formed : WellFormed.ok (.add ⟨0, 0, []⟩ 1 2 3) = true ∧ WellFormed.ok (.reservedOpcode ⟨0, 0, []⟩ 0x1F) = true := by decide

/-! ## Small states -/

/-- A part in service. -/
def part : State := { State.reset with phase := .ready, stage := 6 }
/-- Thread 0 of core 0, without prefixes. -/
def site : Site := ⟨0, 0, []⟩
/-- The part with core 0 and its thread 0. -/
def partWith (k : Core) (th : Thread) : State := part.setCore 0 (k.setThread 0 th)
/-- Thread 0 of core 0 runs. -/
def running : State := partWith {} { st := .running }

/-- `Issues` as a computation. -/
def issuesB (s : State) (l : Layout) : Bool :=
  isCore l.i.core && s.clocked && decide ((l.th s).st = .running ∨ (l.th s).st = .waiting) && !(l.th s).asyncDue && !(l.th s).past &&
  decide ((l.th s).pc.toNat + l.len ≤ 0x10000) && !(fetchBytes s l.i.core (l.th s).pc.toNat l.len).1 && decide (encFaults l.op l.i.px l.ops l.imm = [])
theorem issues_of {s : State} {l : Layout} (h : issuesB s l = true) : Issues s l := by
  simp only [issuesB, Bool.and_eq_true, decide_eq_true_eq, Bool.not_eq_true'] at h
  obtain ⟨⟨⟨⟨⟨⟨⟨h1, h2⟩, h3⟩, h4⟩, h5⟩, h6⟩, h7⟩, h8⟩ := h
  exact ⟨⟨h1, h2, h3, h4⟩, ⟨h5, h6⟩, h7, h8⟩
/-- `Runs` as a computation. -/
def runsB (s : State) (l : Layout) : Bool :=
  issuesB s l && guardHolds (l.th s) l.i.px && !queueFull (s.core l.i.core) l.op && slotGrants s l.i.core l.i.thr (issueSlot (l.th s) l.i.px l.op)
theorem runs_of {s : State} {l : Layout} (h : runsB s l = true) : Runs s l := by
  simp only [runsB, Bool.and_eq_true, Bool.not_eq_true'] at h
  exact ⟨⟨issues_of h.1.1.1, h.1.1.2, h.1.2⟩, h.2⟩
/-- `OperandsReady` as a computation. -/
def readyB (k : Core) (t : BitVec 2) (dsts srcs : List Byte) : Bool :=
  decide (dsts.flatMap (dstFaults k t) = []) && decide (srcFaults k t srcs = []) && decide (srcWait k srcs = none) && decide (dsts.findSome? (dstWait k) = none)
theorem ready_of {k : Core} {t : BitVec 2} {d s : List Byte} (h : readyB k t d s = true) : OperandsReady k t d s := by
  simp only [readyB, Bool.and_eq_true, decide_eq_true_eq] at h
  exact ⟨h.1.1.1, h.1.1.2, h.1.2, h.2⟩

/-! ## Scalar and control instructions -/

/-- A layout on thread 0 of core 0. -/
def lay (op : Nat) (ops : List Byte) (imm : W32 := 0) : Layout := ⟨site, op, ops, imm⟩

theorem witness_integer_results : (∀ op ∈ [1, 2, 3, 4, 5, 6, 7, 8, 9, 10, 11, 12], runsB running (lay op [1, 2, 3]) = true) ∧
    (∀ op ∈ [0x10, 0x11, 0x12, 0x13, 0x14, 0x15, 0x16, 0x17], runsB running (lay op [1, 2] 0x7FFF) = true) ∧
    OperandsReady (running.core 0) 0 [1] [2, 3] ∧ OperandsReady (running.core 0) 0 [1] [2] :=
  ⟨by decide, by decide, ready_of (by decide), ready_of (by decide)⟩
theorem witness_move_and_count : runsB running (lay 0x00 []) = true ∧ (∀ op ∈ [0x18, 0x19], runsB running (lay op [1] 5) = true) ∧
    (∀ op ∈ [0x1A, 0x1B, 0x1C], runsB running (lay op [1, 2]) = true) ∧ OperandsReady (running.core 0) 0 [1] [] ∧
    OperandsReady (running.core 0) 0 [1] [1] ∧ OperandsReady (running.core 0) 0 [1] [2] :=
  ⟨by decide, by decide, by decide, ready_of (by decide), ready_of (by decide), ready_of (by decide)⟩
theorem witness_compare : (∀ op ∈ [0x20, 0x21, 0x22, 0x23, 0x24, 0x25], runsB running (lay op [0x41, 2, 3]) = true) ∧
    (∀ op ∈ [0x28, 0x29, 0x2A, 0x2B, 0x2C, 0x2D], runsB running (lay op [0x41, 2] 0xFFFF) = true) ∧
    (∀ op ∈ [0x30, 0x31, 0x32], runsB running (lay op [0x41, 0x42, 0x43]) = true) ∧ runsB running (lay 0x33 [0x41, 0x42]) = true ∧
    OperandsReady (running.core 0) 0 [0x41] [2, 3] ∧ OperandsReady (running.core 0) 0 [0x41] [2] :=
  ⟨by decide, by decide, by decide, by decide, ready_of (by decide), ready_of (by decide)⟩
theorem witness_fraction : (∀ op ∈ [0x0D, 0x0E, 0x0F], runsB running (lay op [1, 2, 3]) = true) ∧ OperandsReady (running.core 0) 0 [1] [2, 3] :=
  ⟨by decide, ready_of (by decide)⟩
/-- A branch at 0x0000 by 0x10 stays inside, and by −0x20 leaves. -/
theorem witness_branch : runsB running (lay 0xD0 [] 0x10) = true ∧ (0 + immVal [] 0x10 : W64).toNat < 0x10000 ∧ runsB running (lay 0xD0 [] 0xFFE0) = true ∧
    ¬ (0 + immVal [] 0xFFE0 : W64).toNat < 0x10000 ∧ runsB running (lay 0xD1 [1] 0x10) = true ∧ OperandsReady (running.core 0) 0 [1] [] ∧
    runsB running (lay 0xD2 [1] 0x10) = true ∧ OperandsReady (running.core 0) 0 [] [1] :=
  ⟨by decide, by decide, by decide, by decide, by decide, ready_of (by decide), by decide, ready_of (by decide)⟩
/-- A counted loop with two passes left, in its last pass, and loops on ring 3 with and without END_LOOP, all with their last instruction at 0. -/
def looping (count : W32) (ring : Option (BitVec 6)) (ended : Bool) : Thread :=
  { st := .running, lc := [(1, count)], loops := [{ lc := 1, head := 0x40, last := 0, ring := ring, ended := ended }, { lc := 2, head := 0, last := 9, ring := none }] }
theorem witness_loops : (∀ op ∈ [0xD3, 0xD4], runsB running (lay op [0x61, 2] 0x20) = true) ∧ OperandsReady (running.core 0) 0 [] [2] ∧
    (∀ th ∈ [looping 2 none false, looping 1 none false, looping 1 (some 3) false, looping 1 (some 3) true],
      th.pend = [] ∧ tabWf 0 th.lc = true ∧ (∀ o ∈ th.loops.tail, o.last ≠ (0 : W16).toNat) ∧ (th.loops.head?.map (·.last)) = some 0) :=
  ⟨by decide, ready_of (by decide), by decide⟩
theorem witness_end : runsB running (lay 0xD5 []) = true := by decide
/-- A thread that cannot issue, one whose guard is false, one whose bytes hold a fault, one whose word cannot be read, one past the store. -/
theorem witness_what_issues : ((partWith {} {}).thread 0 0).st = .stopped ∧ State.reset.clocked = false ∧
    guardHolds (running.thread 0 0) [.guard false 1] = false ∧ runsB running ⟨⟨0, 0, [.guard true 1]⟩, 1, [1, 2, 3], 0⟩ = true ∧
    encFaults 0x01 [] [0x41, 2, 3] 0 = [1] ∧ (fetchBytes (partWith { istore := { chk := [(0, 0)] } } { st := .running }) 0 0 4).1 = true ∧
    ((partWith {} { st := .running, past := true }).thread 0 0).past = true := by decide
/-- Two threads of core 0 run, and the pointer of slot S stands at thread 1. -/
def contended : State := part.setCore 0 ((({ ptrS := 1 } : Core).setThread 0 { st := .running }).setThread 1 { st := .running })
/-- An asynchronous fault that is due. -/
def dueFault : AsyncFault := { code := 9, pc := 0, addr := 0, due := some 0 }
/-- A thread whose asynchronous fault is due; one that stands behind another that is ready; one whose guard is false; bytes that end without an opcode. -/
theorem witness_grants : (let s := partWith {} { st := .running, async := [dueFault] }; (s.thread 0 0).asyncDue = true ∧ nextAsync (s.thread 0 0).async = some dueFault) ∧
    issuesB contended (lay 0x00 []) = true ∧ slotGrants contended 0 0 .S = false ∧ slotGrants contended 0 1 .S = true ∧
    (let l : Layout := ⟨⟨0, 0, [.guard false 1]⟩, 0x00, [], 0⟩; issuesB running l = true ∧ guardHolds (l.th running) l.i.px = false ∧ slotGrants running 0 0 (issueSlot (l.th running) l.i.px l.op) = true) ∧
    (scanBytes 17 [0xF0] [] 0 false false).ended = true ∧ slotGrants running 0 0 .S = true := by decide +kernel
theorem witness_thread_fault : (0x0A < 256) ∧ bits (running.thread 0 0).fault 7 0 = 0 ∧ bits ({ fault := 0x01 } : Thread).fault 7 0 ≠ 0 := by decide
theorem witness_ticks : PendSorted [{ due := 3, dst := .g 1, val := 1, pc := 0 }, { due := 5, dst := .g 1, val := 2, pc := 4 }] ∧ (running.thread 0 0).loops = [] :=
  ⟨by unfold PendSorted; decide, by decide⟩
theorem witness_issue_frame : ∀ l ∈ (looping 2 none false).loops, l.last ≠ (0x100 : W16).toNat := by decide

/-! ## Vector instructions -/

theorem witness_lanes : (∀ op ∈ [0x48, 0x46, 0x47, 0x49, 0x4A, 0x4B, 0x4C, 0x4D, 0x44, 0x45], runsB running (lay op [11, 0x21, 0x22, 0x23]) = true) := by decide
theorem witness_lane_arithmetic : (∀ op ∈ [0x40, 0x41, 0x42, 0x43], ∀ ty ∈ [0, 1, 3, 11], runsB running (lay op [ty, 0x21, 0x22, 0x23]) = true) ∧
    isFloat 0 = true ∧ isFrac 3 = true ∧ isFloat 11 = false ∧ isFrac 11 = false := by decide
theorem witness_special : (∀ op ∈ [0x50, 0x51, 0x52, 0x53, 0x54, 0x55], runsB running (lay op [0, 0x21, 0x22]) = true) ∧ fp32 0x7FC00000 = .nan ∧
    fp32 0x7F800000 = .inf false ∧ fp32 0xFF800000 = .inf true ∧ fp32 0x80000000 = .zero true ∧ (∃ m e, fp32 0xBF800000 = .fin true m e) ∧
    (∃ m e, fp32 0x43000000 = .fin false m e) ∧ fpLt (fp32 0x43000000) (.fin false 1 7) = false ∧ fpLt (fp32 0xC3000000) (.fin true 126 0) = true :=
  ⟨by decide, by decide, by decide, by decide, by decide, ⟨8388608, -23, by decide⟩, ⟨8388608, -16, by decide⟩, by decide, by decide⟩
theorem witness_lane_moves : runsB running (lay 0x59 [11, 0x21, 2]) = true ∧ runsB running (lay 0x5A [11, 1, 0x22, 15]) = true ∧
    runsB running (lay 0x5B [11, 0x21, 0x22, 0x23]) = true ∧ runsB running (lay 0x58 [0x01, 0x21, 0x22, 0]) = true ∧ OperandsReady (running.core 0) 0 [] [2] ∧
    OperandsReady (running.core 0) 0 [1] [] :=
  ⟨by decide, by decide, by decide, by decide, ready_of (by decide), ready_of (by decide)⟩
theorem witness_reductions : (∀ op ∈ [0x5C, 0x5D], ∀ ty ∈ [0, 3, 11], runsB running (lay op [ty, 0x21, 0x22]) = true) ∧ runsB running (lay 0x5E [0x21]) = true := by decide
theorem witness_selections : runsB running (lay 0x60 [0, 0x22, 0x24, 0x10]) = true ∧ runsB running (lay 0x61 [0, 0x21, 0x22, 0x23]) = true ∧
    runsB running (lay 0x62 [0, 0x21, 0x22, 0x08]) = true ∧ laneAt 32 (0x1000000000000000000000000 : W512) 3 % 2 = 1 := by decide +kernel

/-! ## The matrix engine -/

/-- A core whose matrix engine holds a queue. -/
def engine (q : List MeOp) (tiles : Tab Tile := []) : Core := { me := { queue := q, tiles := tiles, nextId := 9 } }
/-- A queue entry of thread 0. -/
def entry (id : Nat) (kind : MeKind) (started : Bool := false) (entered : Nat := 0) : MeOp :=
  { id := id, thr := 0, pc := 0, kind := kind, mode := 0, sat := true, epoch := 0, started := started, entered := entered }
/-- The MMA of t0 and t1 into a16, 8 × 8 × 32. -/
def someMma : MeKind := .mma 16 0 1 8 8 32 false false 0 0
/-- An operand word of shape 32 × 32 that thread 1 owns. -/
def otherWord : W64 := 0x137CF8000
theorem witness_matrix_enter : (∀ l ∈ [lay 0x80 [0xC0, 2], lay 0x81 [] 1, lay 0x82 [0xC0, 1], lay 0x84 [0xC0, 1], lay 0x83 [0xC0, 1, 2], lay 0x85 [0xD0, 0xC0, 0xC1],
      lay 0x86 [0xD0, 0xC0, 0xC1], lay 0x87 [1], lay 0x88 [1], lay 0x89 [0x21, 0xC0], lay 0x8A [0xC0, 0x21]], runsB running l = true ∧ (l.me running).queue.length < 8) ∧
    cfgOk 0 0x37CF8000 = true ∧ (running.thread 0 0).readG 1 = 0 ∧ convOk 0x37CF8000 0x4000040000 = true := by
  decide
theorem witness_matrix_transfer : TransferOk running (lay 0x82 [0xC0, 1]) 0xC0 1 ∧ MmaOk running (lay 0x85 [0xD0, 0xC0, 0xC1]) 0xD0 0xC0 0xC1 :=
  ⟨by unfold TransferOk Owns; decide, by unfold MmaOk Owns; decide⟩
/-- A full queue, and tiles t0 and a16 of thread 1. -/
theorem witness_matrix_checks :
    (let s := partWith (engine (List.replicate 8 (entry 1 someMma))) { st := .running }; issuesB s (lay 0x82 [0xC0, 1]) = true ∧ guardHolds (s.thread 0 0) [] = true ∧ 8 ≤ ((lay 0x82 [0xC0, 1]).me s).queue.length) ∧
    (let s := partWith (engine [] [(0, { cfg := otherWord, live := otherWord })]) { st := .running }
     let l := lay 0x85 [0xD0, 0xC0, 0xC1]
     runsB s l = true ∧ (l.me s).queue.length < 8 ∧ ¬ cfgOwner ((l.me s).tile 0).cfg = l.i.thr.toNat) := by decide
theorem witness_matrix_engine : startable (engine [entry 1 (.tfree 1)]).me = some (entry 1 (.tfree 1)) ∧ (engine []).me.parity = [] ∧
    meetsFence (engine []).me (entry 1 (.tfree 1)) = false ∧ isMma (entry 1 (.tfree 1)) = false ∧ (mmaOf (entry 1 someMma)).isSome = true ∧
    meetsFence (engine [] [(0, { cfg := otherWord, live := otherWord, fence := true })]).me (entry 1 someMma) = true ∧
    startable (engine [entry 1 someMma]).me = some (entry 1 someMma) ∧
    (let o := entry 1 someMma true; decide (o.entered < (opSteps (engine [o]).me o).length) = true) ∧ (let o := entry 1 someMma true 1; o.checked < o.entered) := by decide
theorem witness_multiply : ((engine [] [(16, { cfg := 0x07CF8000, live := 0x07CF8000, inUse := true })]).me.tile 16).inUse = true ∧
    tabWf 0 ((engine [] [(16, { cfg := 0x07CF8000, live := 0x07CF8000, inUse := true })]).me.tile 16).acc = true := by decide
theorem witness_matrix_path : (∀ k ∈ [MeKind.tcfg 0 0x37CF8000 true, .tcfg 0 0x37CF8000 false, .tfree 1, .trdv 1 0 0 0, .rest 0, .save 0],
      (engine [entry 1 k true]).me.queue.find? (fun o => o.started && !isMma o) = some (entry 1 k true) ∧ meetsFence (engine []).me (entry 1 k true) = false) ∧
    tabWf 0 (tileInit 3).bytes = true ∧ tabWf 0 (tileInit 3).exps = true ∧ tabWf 0 (tileInit 20).acc = true := by decide

/-! ## Memory -/

/-- Core 0 runs thread 0 with g1 holding an address. -/
def at1 (a : W64) (k : Core := {}) (th : Thread := {}) : State := partWith k { th with st := .running, g := tabPut th.g 1 a }
/-- A request from thread 0 of core 0 to core 1 of the same die, with both in placement 0. -/
def pair (a : W64) (th : Thread := {}) : State :=
  (part.setCore 1 { place := some 0 }).setCore 0 ((at1 a { place := some 0 } th).core 0)
/-- A far wait. -/
def farWaiting (done err : Bool) : Thread := { wait := some { kind := 9, index := 0, arg := 0, begun := 0, done := done, err := err } }
theorem witness_local_loads : (∀ e ∈ loads, runsB (at1 0x5FFC0) (lay e.2.1 [if e.2.1 = 0xA7 then 0x22 else 2, 1]) = true ∧ (0x5FFC0 : W64).toNat % e.2.2.1 = 0) ∧
    OperandsReady ((at1 0).core 0) 0 [2] [] ∧ (lay 0xA3 [2, 1]).addr (at1 0x5FFC0) 1 = 0x5FFC0 ∧ (0x5FFC0 : W64).toNat < 0x60000 ∧
    (lay 0xA3 [2, 1]).addr (at1 4) 1 = 4 ∧ (4 : W64).toNat % 8 ≠ 0 ∧ (at1 0).rangeFaults 0 false 0x60000 = [(0x0D, 0x60000)] := by
  refine ⟨by decide, ready_of (by decide), by decide, by decide, by decide, by decide, by decide⟩
theorem witness_local_stores : (∀ e ∈ stores, runsB (at1 0x5FFC0) (lay e.2.1 [2, 1]) = true ∧ (0x5FFC0 : W64).toNat % e.2.2 = 0) ∧ runsB (at1 0x5FFC0) (lay 0xAC [0x22, 1]) = true ∧
    OperandsReady ((at1 0).core 0) 0 [] [2] := ⟨by decide, by decide, ready_of (by decide)⟩
theorem witness_local_memory : CodeClean ((at1 0).core 0).lm (((at1 0).core 0).inst 0) ∧ tabWf 0 ((at1 0).core 0).lm.data = true := by unfold CodeClean; decide
/-- The data-space address of local memory of core 1 (R94). -/
def window1 : W64 := 0x400100000
theorem far_of {s : State} {l : Layout} {a : W64} {d : Dest} (h : 0x60000 ≤ a.toNat ∧ s.rangeFaults l.i.core (l.th s).priv a = [] ∧ s.destOf (s.classify a) = some d) :
    FarOk s l a d := h
theorem awaits_none {s : State} {l : Layout} (h : (l.th s).wait = none) : ∀ w, ¬ AwaitsFar s l w := by
  intro w ⟨hw, _⟩; rw [h] at hw; cases hw
theorem witness_far_loads : FarOk (pair window1) (lay 0xA3 [2, 1]) window1 (.core 1) ∧ runsB (pair window1) (lay 0xA3 [2, 1]) = true ∧
    OperandsReady ((pair window1).core 0) 0 [2] [] ∧ (∀ w, ¬ AwaitsFar (pair window1) (lay 0xA3 [2, 1]) w) ∧
    (∀ d e, ((pair window1 (farWaiting d e)).thread 0 0).wait = (farWaiting d e).wait ∧ ((farWaiting d e).wait.map (·.kind)) = some 9) ∧
    (∀ e ∈ atomics, runsB (pair 0x1000000000) (lay e.2.1 [2, 1, 3]) = true) ∧ (pair 0x1000000000).classify 0x1000000000 = .commons 0 0 ∧
    (∃ d, FarOk (pair 0x1000000000) (lay 0xB2 [2, 1, 3]) 0x1000000000 d) :=
  ⟨far_of (by decide), by decide, ready_of (by decide), awaits_none (by decide), by decide +kernel, by decide, by decide, ⟨.slice 0 0, far_of (by decide)⟩⟩
/-- A CST control word of contribution 1, add, A40. -/
def cstWord : W64 := 0x0007000100050000
theorem witness_posted : (∀ e ∈ stores, runsB (pair window1) (lay e.2.1 [2, 1]) = true) ∧ routerAccepts (pair window1) 0 0 1 = true ∧
    routerAccepts { pair window1 with net := List.replicate 64 (packet part 0 0 (.core 1) (.unbind 0 0)) } 0 0 1 = false ∧
    runsB (pair window1) (lay 0xAC [0x22, 1]) = true ∧ runsB (pair window1) (lay 0xB0 [2, 1] 0x8001) = true ∧ (pair window1).classify window1 = .window 1 0 ∧
    (pair window1).rangeFaults 0 false window1 = [] ∧ runsB (pair window1 { g := [(3, cstWord)] }) (lay 0xB1 [0x22, 1, 3]) = true ∧ cairnIllegal cstWord 0x22 = false ∧
    routerAccepts (pair window1) 0 3 2 = true ∧ window1.toNat % 128 = 0 := by decide
/-- Core 0 with operands 0, 64 and 0 in g1, g2 and g3. -/
def ranges (q : List FcOp := []) : State := partWith { fcq := q } { st := .running, g := [(2, 64)] }
theorem witness_fill_enter : (∀ l ∈ [lay 0xBC [1, 2, 3], lay 0xBD [1, 3, 2], lay 0xD8 [1, 3, 2], lay 0xD9 [1, 2]], runsB (ranges []) l = true) ∧
    OperandsReady ((ranges []).core 0) 0 [] [3] ∧ ((ranges []).thread 0 0).readG 2 = 64 ∧ ((ranges []).core 0).fcq.length < 4 ∧
    ¬ ((ranges (List.replicate 4 ⟨0, 0, .fill 0 0 0, 0, false⟩)).core 0).fcq.length < 4 := ⟨by decide, ready_of (by decide), by decide, by decide, by decide⟩
theorem witness_fill_complete : ∀ k ∈ [FcKind.fill 0 64 7, .copy 64 0 8, .iload 0 0 16, .iverify 0 16],
    let c := (ranges [⟨0, 0, k, 0, false⟩]).core 0
    c.fcq = [⟨0, 0, k, 0, false⟩] ∧ (∀ t, ((ranges [⟨0, 0, k, 0, false⟩]).thread 0 t).startHeld = false) ∧ c.lm.chk = [] ∧ (c.inst 0).remap = [] ∧ c.istore.chk = [] ∧ (c.inst 1).remap = [] ∧
    tabWf 0 c.lm.data = true ∧ tabWf 0xFF c.istore.data = true := by decide

/-! ## Channels -/

/-- Core 0 with binding 5 as given, to ring 2 of core 1. -/
def bound (state : BitVec 3) (credit : BitVec 11) : State :=
  partWith { sync := { binds := [(5, { en := true, state := state, credit := credit, ring := 2, target := 1 })] } } { st := .running }
/-- Core 0 with ring 2 as given. -/
def ringed (r : Ring) : State := partWith { sync := { rings := [(2, r)] } } { st := .running }
theorem witness_channel_instructions : runsB (bound 2 1) (lay 0xB8 [0x22] 5) = true ∧ runsB (bound 2 1) (lay 0xB8 [2] 5) = true ∧ runsB (bound 2 1) (lay 0xB9 [] 0x8005) = true ∧
    OperandsReady ((bound 2 1).core 0) 0 [] [2] ∧ (((bound 2 1).core 0).bind 5).state = 2 ∧ (((bound 2 1).core 0).bind 5).credit ≠ 0 ∧ routerAccepts (bound 2 1) 0 2 1 = true ∧
    (((bound 1 0).core 0).bind 5).state = 1 ∧ (((bound 3 0).core 0).bind 5).state = 3 ∧ runsB (ringed {}) (lay 0xBA [2, 0x41] 2) = true ∧
    OperandsReady ((ringed {}).core 0) 0 [2, 0x41] [] ∧ (((ringed {}).core 0).ring 2).en = false ∧ (((ringed { en := true, wr := 1 }).core 0).ring 2).wr ≠ 0 :=
  ⟨by decide +kernel, by decide +kernel, by decide +kernel, ready_of (by decide +kernel), by decide +kernel, by decide +kernel, by decide +kernel, by decide +kernel, by decide +kernel, by decide +kernel, ready_of (by decide +kernel), by decide +kernel, by decide +kernel⟩
/-- A ROUTE descriptor of one row of 64 B at 0, return slots from 0x1000 on. -/
def routeWord : W512 := 0x000210000000000000010000000
/-- Eight empty records. -/
def noRecords : W512 := 0x000000000000FFFF000000000000FFFF000000000000FFFF000000000000FFFF000000000000FFFF000000000000FFFF000000000000FFFF000000000000FFFF
theorem witness_route : runsB running (lay 0xBB [0x21, 0x22, 3]) = true ∧ OperandsReady (running.core 0) 0 [] [3] ∧ routeRecs noRecords = [] ∧
    (∀ w, ({} : Thread).wait ≠ some w) ∧ (∀ x ∈ [({ j := 0, expert := 0, core := 1, ring := 2, weight := 0, answer := 1 } : Claim)], x.answer = 1 ∨ x.answer = 2) :=
  ⟨by decide +kernel, ready_of (by decide +kernel), by decide +kernel, (fun w h => by cases h), by decide +kernel⟩
/-- Packet 7 at core 1, from core 0. -/
def arriving (body : Body) (k : Core := {}) (cls : Nat := 0) : State :=
  { part.setCore 1 k with net := [{ id := 7, cls := cls, src := 0, dst := .core 1, at_ := 1, inp := .west, body := body }] }
def tag0 : ReqTag := ⟨0, 0, 0, 0⟩
/-- An open slot 0 of core 1. -/
def openAt1 (kind : SlotKind) : Core :=
  { slots := [(0, { isOpen := true, epoch := 0, kind := kind, thr := 0, pc := 0, addr := 0, unit := 0, target := none, cls := 0, cnt := none, sent := 0 })] }
theorem arrives_of {s : State} {n : Nat} {p : Packet} {c : CoreId} (h : s.clocked = true ∧ arrived s n = some p ∧ p.dst = .core c ∧ s.turnsAway p = false) : ArrivesAt s n p c := h
theorem witness_route_claim : (let s := arriving (.claim tag0 0 2 0 1) { sync := { rings := [(2, { en := true, mode := true })], caps := [(0, { en := true, ring := 2, limit := 1 })] } }
    ArrivesAt s 7 { id := 7, cls := 0, src := 0, dst := .core 1, at_ := 1, inp := .west, body := .claim tag0 0 2 0 1 } 1 ∧ ((s.core 1).ring 2).en = true ∧ ((s.core 1).ring 2).mode = true ∧
    ((s.core 1).cap 0).used.toNat < ((s.core 1).cap 0).limit.toNat) :=
  ⟨arrives_of (by decide +kernel), by decide +kernel, by decide +kernel, by decide +kernel⟩
theorem witness_route_answers : (∀ b ∈ [Body.unclaim 0 2 0, .claimAns ⟨1, 0, 0, 0⟩ 0 0 true], (arrived (arriving b (openAt1 (.claim 0))) 7).map (·.body) = some b) ∧
    (matchSlot (arriving (.unbind 0 0) (openAt1 (.claim 0))) ⟨1, 0, 0, 0⟩).isSome = true := by decide +kernel
theorem witness_channel_arrivals : (∀ b ∈ [Body.msg tag0 2 false 0 2 0 none none, .bindReq tag0 5 2 1, .bindAns ⟨1, 0, 0, 0⟩ 5 0 4, .unbind 5 2, .credit 5 2],
      (arrived (arriving b (openAt1 (.bindReq 5)) 2) 7).map (·.body) = some b) ∧
    (let r : Ring := { en := true }; r.used < r.cap ∧ ¬ (r.cap ≤ r.used) ∧ ({ en := true, wr := 4 } : Ring).cap ≤ ({ en := true, wr := 4 } : Ring).used) ∧
    (matchSlot (arriving (.unbind 0 0) (openAt1 (.bindReq 5))) ⟨1, 0, 0, 0⟩).isSome = true ∧ (0 : Byte).toNat < (1 : Byte).toNat := by decide +kernel

/-! ## Registers, waits and threads -/

theorem witness_registers : [4, 0xD00, 0x118, 0xA00, 0xCF8].all (fun a => runsB running (lay 0xC0 [2] a)) = true ∧ [0xB00, 0x118].all (fun a => runsB running (lay 0xC1 [2] a)) = true ∧
    cycleReg 0x118 = false ∧ cycleReg 0xA00 = true ∧ readOnlyIo 0x120 = true ∧ tabRising 0 ([] : Tab (List QEntry)) = true ∧ (running.core 0).portAwaited 3 = false := by decide +kernel
theorem witness_waits : runsB running (lay 0xDC [2] 31) = true ∧ runsB running (lay 0xDD [2] 8) = true ∧ runsB running (lay 0xDE [2]) = true ∧ runsB running (lay 0xDF [] 15) = true ∧
    OperandsReady (running.core 0) 0 [] [2] ∧ OperandsReady (running.core 0) 0 [2] [] :=
  ⟨by decide +kernel, by decide +kernel, by decide +kernel, by decide +kernel, ready_of (by decide +kernel), ready_of (by decide +kernel)⟩
/-- Placement 0 of core 0, a member of barrier 15 that has arrived. -/
def barred : State := { part.setCore 0 { place := some 0, sync := { bars := [(15, { member := true, arrived := 1, mask := 1, plane := true })] } } with
  places := [(0, { cores := [{ core := 0, altitude := 0, istoreLen := 0, preloadLen := 0, image := 0, startPc := [] }] })] }
theorem witness_barrier : (let cs := (barred.placeCores 0).filter (fun c => ((barred.core c).bar 15).member)
    cs ≠ [] ∧ cs.all (fun c => ((barred.core c).bar 15).plane) = true ∧ cs.any (fun c => ((barred.core c).bar 15).mask != 0) = true ∧ cs.Nodup) ∧ (barred.core 0).place ≠ none ∧ OnCore barred 0 := by
  unfold OnCore; decide +kernel
/-- Thread 0 of core 0 in a state of its own. -/
def inState (th : Thread) : State := partWith {} th
def waiting : Thread := { st := .waiting, wait := some { kind := 5, index := 2, arg := 0, begun := 0 } }
theorem witness_thread_control : OnCore (inState {}) 0 ∧ ((inState {}).core 0).busyFor 0 = false ∧ ((partWith (engine [entry 1 someMma]) {}).core 0).busyFor 0 = true ∧
    ((inState waiting).thread 0 0).wait = waiting.wait ∧ waitHolds ((inState waiting).atTime 2000000) 0 0 { kind := 5, index := 2, arg := 0, begun := 0 } = false ∧
    2000 * 1000 ≤ 0 + ((inState waiting).atTime 2000000).since 0 ∧ ((inState waiting).core 0).place = none ∧ (9 : Byte) ≠ 0 := by unfold OnCore; decide +kernel
theorem witness_undecodable : (scanBytes 17 [0xF5] [] 0 false false).reserved = true ∧ (scanBytes 17 [0xF5] [] 0 false false).opcode = false ∧ opSig 0x1F = none ∧
    (scanBytes 17 [0xF0, 0xF0] [] 0 false false).dup = true ∧ (scanBytes 17 [0xF0, 0xF0] [] 0 false false).opcode = false := by decide +kernel
theorem witness_channel_registers : ringRefused {} 1 = false ∧ ringRefused { en := true } 0x20 = true ∧ isCore 0 = true ∧ ringRefused { en := true, wr := 2 } 0x0000000100000001 = false ∧
    (((bound 2 1).core 0).bind 5).state = 2 ∧ ((bound 2 1).core 0).awaitsCredit 5 = false ∧ (pair 0).samePlace 0 1 = true ∧ (pair 0).samePlace 0 2 = false := by decide +kernel

/-! ## DMA, the mesh and memories -/

/-- A descriptor of one row of 64 B from 0x100 to `dst`, in DATA mode. -/
def descBytes (dst : Nat) : List Byte := leBytes 8 0x100 ++ leBytes 8 dst ++ leBytes 4 64 ++ List.replicate 44 0
/-- Channel 2 of core 0 in a state of its own, over local memory with a descriptor at 0x400. -/
def channelled (x : Chan) : State := partWith { place := some 0, chans := [(2, x)], lm := { data := putBytes 0 [] 0x400 (descBytes 0x200) } } {}
/-- A channel that runs the descriptor, with `n` of its bytes asked for and in the buffer. -/
def moving (dst n : Nat) : Chan := { st := .active, words := descBytes dst, rd := n, buf := (List.range n).map (fun j => (j, 1)) }
theorem witness_dma_start : (channelled { st := .stopped }).clocked = true ∧ (0x5FFE0 : W32).toNat % 64 ≠ 0 ∧ 0x60000 < (0x60000 : W32).toNat + 64 ∧
    getBytes 0 ((channelled {}).core 0).lm.data 0x400 64 = descBytes 0x200 ∧ tabWf 0 ((channelled {}).core 0).lm.data = true ∧
    descFieldsOk (descOf (descBytes 0x200)) = true ∧ descRangesOk (channelled {}) 0 false (descOf (descBytes 0x200)) = true ∧ (0x5FFC0 : W32).toNat + 64 ≤ 0x60000 ∧
    (∀ t, ((channelled {}).thread 0 t).startHeld = false) ∧ chanAt (channelled { st := .stopped }) 0 2 = { st := .stopped } := by decide +kernel
theorem witness_dma_packets : (let s := channelled (moving 0x200 0)
      let x := chanAt s 0 2
      x.st = .active ∧ x.words ≠ [] ∧ routerAccepts s 0 0 1 = true ∧ x.d.mode = 0 ∧ x.d.isGather = false ∧ x.moreToRead = true ∧ (s.core 0).dmaHeld + 64 ≤ 0x8000 ∧
      (x.d.rowSrc 0).toNat < 0x60000) ∧
    (let s := channelled (moving 0x200 64)
      let x := chanAt s 0 2
      x.dstTotal = some 64 ∧ x.wr < 64 ∧ (dstPiece x x.wr).map (fun e => (e.1, e.2.length)) = some (0x200, 64)) ∧
    (let s := channelled (moving 0x400100000 64)
      let x := chanAt s 0 2
      (dstPiece x x.wr).map (·.1) = some 0x400100000 ∧ s.classify 0x400100000 = .window 1 0 ∧ s.destOf (s.classify 0x400100000) = some (.core 1)) ∧
    (let x : Chan := { st := .stopping, bad := [(0x200, 0, 1)], tries := [(1, 3, 3)] };
      x.bad = [(0x200, 0, 1)] ∧ (tabGet (0, ((channelled x).core 0).dmaRetry.toNat) x.tries (4 * 0 + 1)).2 ≤ (tabGet (0, ((channelled x).core 0).dmaRetry.toNat) x.tries (4 * 0 + 1)).1 ∧ ((channelled { st := .stopping }).core 0).dmaInFlight 2 = false) ∧
    (let x : Chan := { moving 0x200 64 with wr := 64, outs := [{ at_ := 0, len := 64, ack := true }] };
      x.bad = [] ∧ x.dstTotal = some x.dstDone ∧ x.d.next = 0 ∧ x.d.evf = false ∧ x.d.evh = false) := by decide +kernel
/-- A store packet at router 0, from core 0 to core 1. -/
def crossing : State := { pair 0 with net := [packet (pair 0) 0 0 (.core 1) (.store tag0 window1 [1] none)] }
theorem witness_mesh : outPort 0 (.core 1) = .east ∧ neighbour 0 .east = some 1 ∧ coreX 0 ≠ coreX (destRouter (.core 1)) ∧ outPort 0 (.core 0) = .loc ∧
    (pickPacket crossing 0 .east 1).isSome = true ∧ (∀ p ∈ crossing.net, p.cls ≠ 3) ∧ pickPacket (pair 0) 0 .east 1 = none ∧ tabGet false crossing.linkHold (linkNo 0 .east) = false ∧
    tabGet 0 ({ crcFails := [(1, 8)] } : Core).crcFails (portNo .east) = 8 ∧ bridgeEdge 47 2048 .east = some 0 ∧ neighbour 47 .east = some 2048 ∧
    tabRising 0 [(linkNo 47 .east, true)] = true ∧ tabGet false [(linkNo 47 .east, true)] (linkNo 47 .east) = true ∧ tabGet 0 ([(0, 1)] : Tab Nat) 0 < 2 := by decide +kernel
theorem witness_cairn : (∀ f16 ∈ [false, true], ArrivesAt (arriving (.cairn (window1 + 0x80) 5 2 0 f16 true 3 (List.replicate 16 1) false false) {} 3) 7
      { id := 7, cls := 3, src := 0, dst := .core 1, at_ := 1, inp := .west, body := .cairn (window1 + 0x80) 5 2 0 f16 true 3 (List.replicate 16 1) false false } 1) ∧
    afterClear part { id := 7, cls := 3, src := 0, dst := .core 1, at_ := 1, inp := .west, body := .unbind 0 0 } = true ∧ (List.replicate 16 (1 : BitVec 40)).length = 16 ∧ (2 : W16) ≠ 0 ∧
    LmClean (arriving (.unbind 0 0)) 1 := by
  refine ⟨fun f h => ?_, by decide +kernel, by decide, by decide, ?_⟩
  · unfold ArrivesAt; revert f; decide +kernel
  · unfold LmClean CodeClean; decide +kernel
/-- Packet 7 at the router of a memory. -/
def atMemory (d : Dest) (body : Body) : State := { part with net := [{ id := 7, cls := 0, src := 0, dst := d, at_ := destRouter d, inp := .west, body := body }] }
theorem witness_requests : (∀ b ∈ [Body.store tag0 (window1 + 0x5FFC0) [1, 2] (some 3), .load tag0 window1 64], (arrived (arriving b) 7).map (·.body) = some b) ∧
    (∀ b ∈ [Body.load tag0 0x1000000000 64, .atomic tag0 3 0x1000000000 5, .store tag0 0x1000000000 [1] none],
      let s := atMemory (.slice 0 0) b
      s.clocked = true ∧ (arrived s 7).map (·.body) = some b ∧ s.destFenced (.slice 0 0) = false ∧ s.classify 0x1000000000 = .commons 0 0 ∧ sliceKey 0 0 = 0 ∧
      (s.slice 0).chk = [] ∧ (s.sliceI 0).remap = [] ∧ tabWf 0 (s.slice 0).data = true) ∧
    (∀ b ∈ [Body.load tag0 0x10000000020 32, .store tag0 0x10000000020 (List.replicate 32 9) none],
      let s := atMemory (.hbm 0 0) b
      s.clocked = true ∧ (arrived s 7).map (·.body) = some b ∧ s.destFenced (.hbm 0 0) = false ∧ s.classify 0x10000000020 = .hbm 0 0x20 ∧ s.home 0 0x20 = (0, 0x20) ∧
      0x20 % 64 + 32 ≤ 64 ∧ (s.hbmI (chanOf 0 0x20)).remap = []) := by decide +kernel
theorem witness_answers : (let k := openAt1 .load
      let s := arriving (.reply ⟨1, 0, 0, 0⟩ 5 false) { k with threads := [(0, { st := .waiting, wait := some { kind := 9, index := 0, arg := 0, begun := 0, slot := some (0, 0) } })] } 1
      (arrived s 7).isSome = true ∧ (matchSlot s ⟨1, 0, 0, 0⟩).isSome = true ∧ ((s.thread 1 0).wait.map (fun w => (w.kind, w.slot))) = some (9, some (0, 0))) ∧
    matchSlot (arriving (.ack ⟨1, 0, 0, 0⟩ false)) ⟨1, 0, 0, 0⟩ = none ∧
    ((matchSlot (arriving (.ack ⟨1, 0, 0, 0⟩ false) (openAt1 .store) 1) ⟨1, 0, 0, 0⟩).map (·.kind)) = some .store := by decide +kernel

/-! ## Codes -/

/-- A word written with a wrong check byte is detected; one with one wrong bit is corrected where the code has its bits; a poisoned one reads as poison. -/
theorem witness_error_correction : eccRead 0 {} 5 = .ok 0 ∧ eccRead 0 { data := putBytes 0 [] 40 (leBytes 8 poisonData.toNat), chk := [(5, 0)] } 5 = .poisoned ∧
    tabWf (0 : Byte) [] = true ∧ tabRising 0 ([(5, 1)] : Tab Byte) = true := by decide +kernel
theorem witness_integrity : (let i : Inst := { testEn := true, remap := [(3, { v := true, addr := 8 })] };
      i.busy = 0 ∧ testAddr i < 0x60000 ∧ (tabGet {} i.remap (3 : BitVec 3).toNat).v = true ∧ BitVec.ofNat 48 (bits (16 : W64) 47 0) ≠ (tabGet {} i.remap (3 : BitVec 3).toNat).addr) ∧
    InstAt part (.core 0 0) {} ∧ memRefOk (.hbm 511) = true ∧ InstAt part (.hbm 511) {} ∧ (0x8000000000000000 : W64).getLsbD 63 = true ∧ (0x5FFF8 : Nat) < 0x60000 ∧
    tabLook ({ wb := [(5, 9)] } : Inst).wb (40 / 8) = some 9 ∧ tabLook ({} : Inst).wb (0x5FFF8 / 8) = none := by unfold InstAt; decide +kernel

/-! ## The host's side and requests -/

/-- The admin queue pair and queue pair 1 of the VF of partition 0 on port 0. -/
def vf : FnRef := ⟨0, 1⟩
def adminQ : QRef := ⟨vf, 0⟩
def workQ : QRef := ⟨vf, 1⟩
/-- A part that serves: partition 0 over die 0, with plain requests, its queue pairs, slot 0 READY in placement 0 of core 0 with 100 pages, and the
contexts, placement, contract settings and queue pair given. -/
def serving (ctxs : Tab Ctx := []) (pl : Place := { cores := [{ core := 0, altitude := 0, istoreLen := 0, preloadLen := 0, image := 0, startPc := [0x40] }] })
    (ctr : ContractCfg := {}) (q : Qp := {}) (sl : Slot := { ready := true, place := some 0 }) : State :=
  { part.setCore 0 { place := some 0 } with
    parts := [(0, {})], ctrEff := [(0, ctr)], set := { parts := [(0, { dies := 1, plain := true })], contracts := [(0, ctr)], slots := [(0, { poolPages := 100 })] }
    places := [(0, pl)], slots := [(0, sl)], ctxs := ctxs, qps := [(qpKey adminQ, {}), (qpKey workQ, q)], fns := [(1, { aqEn := true, winBase := 0x10000000000 })] }
/-- An entry whose fields are all zero. -/
def entry0 : Entry := ⟨0, 0, 0, 0, 0, 0, 0, 0, 0, 0, 0, 0, 0, 0⟩
def cmd (q : QRef) (e : Entry) (data : Option (List Byte) := some []) : HostCmd := ⟨q, e, data, false, 5⟩
/-- `Acts` as a computation. -/
def actsB (c : Instr) (h : HostCmd) (s : State) : Bool :=
  match hostRow c with
  | none => false
  | some (g, u) => decide (g.q = h.q ∧ g.e = h.e ∧ g.now = h.now) && (s.qp? h.q).isSome && decide (s.phase = .ready) && (u.admin == (h.q.q == 0)) && unusedZero u h.e &&
      (!u.addr1 || g.data.isSome) && (!u.admin || (!s.err.ctlRestart && !s.err.ctlStopped)) && (!u.sched || !s.err.schReload) && !entryFenced (taken s h) h u
theorem acts_of {c : Instr} {h : HostCmd} {s : State} (a : actsB c h s = true) : Acts c h s := by
  unfold actsB at a
  split at a
  · cases a
  · rename_i g u e
    simp only [Bool.and_eq_true, decide_eq_true_eq, beq_iff_eq, Bool.or_eq_true, Bool.not_eq_true'] at a
    obtain ⟨⟨⟨⟨⟨⟨⟨⟨⟨a1, a2, a3⟩, a4⟩, a5⟩, a6⟩, a7⟩, a8⟩, a9⟩, a10⟩, a11⟩ := a
    refine ⟨g, u, e, a1, a2, a3, a4, a5, a6, a7, fun h => ?_, fun h => ?_, fun h => ?_, a11⟩ <;> simp_all
theorem witness_rings : ({ cqTail := 0, cqHead := 1 } : Qp).cqFull = true ∧ ({} : Qp).cqFull = false ∧ (serving.qp? workQ).isSome = true ∧ serving.present vf = true ∧
    serving.qp? ⟨vf, 7⟩ = none ∧ (let x : Qp := { sqSize := 4, cqSize := 4, sqTail := 1, cqTail := 2 }
      x.sqTail < x.sqSize ∧ (1 + (x.sqTail + x.sqSize - x.sqHead) % x.sqSize < x.sqSize ∧ 2 = (x.sqTail + 1) % x.sqSize) ∧
      (1 ≤ (x.cqTail + x.cqSize - x.cqHead) % x.cqSize ∧ 1 = (x.cqHead + 1) % x.cqSize)) ∧
    ¬ (bits (4 : W64) 15 0 < 4) ∧ (0 + 1) % 4 ≠ 2 ∧ (serving [] (q := { since := some 7, timeUs := 2 })).qp? workQ = some { since := some 7, timeUs := 2 } ∧ 1000 * 2 ≤ 2007 - 7 := by decide
theorem witness_host_entries : (hostRow (.cancel (cmd workQ entry0))).map (·.1) = some (cmd workQ entry0) ∧ (serving.qp? workQ).isSome = true ∧ part.qp? workQ = none ∧ serving.phase = .ready ∧
    actsB (.cancel (cmd workQ entry0)) (cmd workQ entry0) serving = true ∧ actsB (.cfgRead (cmd adminQ entry0)) (cmd adminQ entry0) serving = true ∧
    unusedZero {} { entry0 with arg := 1 } = false := by decide
theorem witness_queue_pairs : tabRising 0 serving.fns = true ∧ tabRising 0 serving.qps = true ∧ serving.up = true ∧ (serving.fn vf).aqEn = true ∧ (part.fn ⟨0, 0⟩).aqEn = false ∧ part.present ⟨0, 0⟩ = true ∧
    actsB (.createQp (cmd adminQ { entry0 with len1 := 0x30003 })) (cmd adminQ { entry0 with len1 := 0x30003 }) serving = true ∧
    (let r := taken serving (cmd adminQ { entry0 with len1 := 0x30003 })
     r.qpCount (fnsOf (partNo vf)) < 64 ∧ r.qpTotal < 4096 ∧ tabLook serving.qps (qpKey ⟨vf, BitVec.ofNat 12 2⟩) = none ∧ (∀ m, m < 2 → 1 ≤ m → (tabLook serving.qps (qpKey ⟨vf, BitVec.ofNat 12 m⟩)).isSome = true)) ∧
    actsB (.deleteQp (cmd adminQ { entry0 with index := 1 })) (cmd adminQ { entry0 with index := 1 }) serving = true ∧
    (taken serving (cmd adminQ entry0)).qp? workQ = some {} ∧
    (serving [(3, { st := .decode, q := workQ })]).ctxs.filter (fun e => e.2.live && e.2.q == workQ) ≠ [] ∧
    serving.classify ((serving.fn vf).winBase + (0x20 : BitVec 36).zeroExtend 64) = .hbm 0 0x20 ∧ (serving.home 0 0x20).2 % 64 = 0x20 % 64 ∧ 0x20 + 32 ≤ serving.hbmReserved ∧
    serving.classify 0x20000000000 ≠ .hbm 0 0 ∧ (tabGet ({} : PartCfg) serving.set.parts 0).dies.getLsbD 0 = true ∧ (tabGet ({} : PartCfg) serving.set.parts 0).dies.getLsbD 1 = false := by decide
/-- A CFG_WRITE of contract 3: the header and 42 bytes of fields. -/
def contractBytes : List Byte := leBytes 2 2 ++ leBytes 2 1 ++ leBytes 4 58 ++ leBytes 8 0 ++ leBytes 1 1 ++ leBytes 1 0 ++ leBytes 2 1 ++ leBytes 4 5 ++ leBytes 4 10 ++ List.replicate 30 0
/-- A core-list entry for core 1, without an image. -/
def coreBytes : List Byte := leBytes 2 1 ++ leBytes 22 0 ++ leBytes 8 0x0040
theorem witness_administrative : (let e := { entry0 with index := 2, arg := 3, len1 := 58 }
      actsB (.cfgWrite (cmd adminQ e (some contractBytes))) (cmd adminQ e (some contractBytes)) serving = true ∧ contractBytes.length = 58 ∧
      field (contractBytes.take 58) 0 2 = 2 ∧ field (contractBytes.take 58) 2 2 = 1 ∧ field (contractBytes.take 58) 4 4 = 58 ∧ field contractBytes 16 1 ≤ 2 ∧
      actsB (.cfgRead (cmd adminQ e)) (cmd adminQ e) serving = true) ∧
    (let e := { entry0 with index := 1, len1 := 0 };
      actsB (.slotLoad (cmd adminQ e)) (cmd adminQ e) serving = true ∧ (serving.mslot 0).ready = true ∧ (serving.mslot 1).ready = false ∧ (serving.slotCfg 1).weightLen = 0) ∧
    actsB (.slotUnload (cmd adminQ entry0)) (cmd adminQ entry0) serving = true ∧
    (let e := { entry0 with addr1 := 0x10000001000, len1 := 2 };
      actsB (.zeroRange (cmd adminQ e)) (cmd adminQ e) serving = true ∧ serving.classify 0x10000001000 = .hbm 0 0x1000 ∧ 0x1000 + 2 * 4096 ≤ serving.hbmReserved) ∧
    (∀ x, part.home 0 x = (0, x) ∧ part.unhome 0 x = (0, x)) ∧
    (let j : ZeroJob := { id := 4, q := adminQ, hostTag := 1 }; [j].find? (fun j => j.id == 4) = some j ∧ [j].find? (fun j => j.id == 5) = none) ∧
    (let e := { entry0 with index := 2 };
     let s := { serving with set := { serving.set with places := [(2, { cores := 1 })] } };
      actsB (.placeCreate (cmd adminQ e (some coreBytes))) (cmd adminQ e (some coreBytes)) s = true ∧ s.place? 2 = none ∧ rawEntries coreBytes 1 ≠ [] ∧
      (∀ b ∈ rawEntries coreBytes 1, coreEntryOk (taken s (cmd adminQ e)) 0 b = true ∧ (coreEntry b).2.istoreLen = 0 ∧ (coreEntry b).2.preloadLen = 0) ∧
      (∀ e ∈ s.slots, e.2.lostAt = none)) ∧
    actsB (.placeDestroy (cmd adminQ entry0)) (cmd adminQ entry0) serving = true ∧ (serving.place? 0).isSome = true ∧ tabRising 0 serving.places = true :=
  ⟨by decide, by decide, by decide, by decide, fun x => ⟨rfl, rfl⟩, by decide, by decide, by decide, by decide, by decide⟩
/-- A plain submission of four prompt tokens that asks for three. -/
def ask : Entry := { entry0 with outAddr := 0x40, outLen := 320, maxNew := 3, promptLen := 4, len1 := 80 }
theorem witness_free_context (n : Nat) : (freeCtx (taken serving (cmd workQ ask (some []))) n).isSome = true := by
  have e : ∀ (m i : Nat), firstUnused (fun i => ((taken serving (cmd workQ ask (some []))).ctx i).st != .free) m 1 i = some (i % m) := fun m i => rfl
  have hd : (n / 262144 + 0) % 8 < 8 := Nat.mod_lt _ (by decide)
  unfold freeCtx
  generalize (n / 262144) = d at *
  rfl
theorem witness_request_commands : actsB (.submit (cmd workQ ask (some []))) (cmd workQ ask (some [])) serving = true ∧ ask.flags.getLsbD 0 = false ∧ ask.outAddr.toNat % 64 = 0 ∧
    64 * (ask.maxNew.toNat + 2) ≤ ask.outLen.toNat ∧ 64 + 4 * ask.promptLen.toNat ≤ ask.len1.toNat ∧ serving.suspended 0 = false ∧ (serving.mslot 0).ready = true ∧
    (serving.ctrCfg 0).slots.getLsbD 0 = true ∧ shortage (taken serving (cmd workQ ask)) 0 0 1 = 0 ∧ ask.prefixKey = 0 ∧
    shortage (taken (serving [] (ctr := { conc := 0 })) (cmd workQ ask)) 0 0 1 = 3 ∧ (serving [] (ctr := { deferDepth := 0 })).ctrCfg 0 = { deferDepth := 0 } ∧
    (estStart (taken serving (cmd workQ ask)) 0 0 3 0).toNat ≤ (taken serving (cmd workQ ask)).time.toNat + (serving.ctrCfg 0).maxDefer.toNat * 1000 := by decide
theorem witness_request_states : (∀ st ∈ [RqSt.done, .paused, .draining, .admitted, .spec, .decode], Names (serving [(9, { st := st, gen := 2 })]) (cmd workQ { entry0 with handle := 0x400009 }) 9) ∧
    (∀ i, ¬ Names serving (cmd workQ { entry0 with handle := 0x400009 }) i) ∧
    (∀ c ∈ [Instr.cancel (cmd workQ entry0), .hold (cmd workQ entry0), .release (cmd workQ entry0), .readCtx (cmd workQ entry0)], actsB c (cmd workQ entry0) serving = true) := by
  refine ⟨by unfold Names; decide, fun i h => h.2.1 ?_, by decide⟩
  rw [h.1]; rfl
/-- A request context of slot 0 in a state of its own. -/
def request (x : Ctx) : State := serving [(9, x)]
theorem witness_request_events : (let x : Ctx := { st := .paused, cause := 1 }
      ((request x).ctx 9) = x ∧ x.tArrive.toNat + ((request x).ctrCfg x.ctr).maxDefer.toNat * 1000 < ((request x).atTime 2000000000).time.toNat) ∧
    ((request { st := .decode, unsealed := [[5]] }).ctx 9).live = true ∧ (request { st := .draining }).suspended 0 = false ∧
    ({ request { st := .decode, unsealed := [[5]] } with parts := [(0, { suspended := true })] } : State).suspended 0 = true ∧
    noticeHeld ((request { st := .done }).atTime 0) 9 = false ∧ (∀ y ∈ (request { st := .done }).contracts, 9 ∉ y.2.defers) ∧
    (let s := { serving [] (ctr := { rate := 1, burst := 4 }) with contracts := [(0, { started := true, bucket := 3 })] };
      (s.ctrCfg 0).rate ≠ 0 ∧ s.bucket 0 < 4) ∧ ¬ (serving [] (ctr := { rate := 1, burst := 4 })).bucket 0 < 4 ∧
    tabLook serving.parts (0 : BitVec 3).toNat = some {} ∧ snowSide 0 (snowLevel serving 0 0) = false ∧ (0x1000000 : W64).getLsbD 24 = true ∧ tabRising 0 serving.hists = true := by decide

/-- Output that is the oldest of its slot, output behind another request's, and a DRAINING request with none left; a range that holds sealed plaintext;
a Plinth block that an entry needs and that is fenced. -/
theorem witness_seal_turn : (let x : Ctx := { st := .decode, unsealed := [[5], [6]] }
      sealTurn { request x with slots := [(0, { ready := true, place := some 0, sealQ := [9, 9] })] } 9 = true ∧ x.unsealed.length = 2 ∧
      sealTurn { request x with slots := [(0, { ready := true, place := some 0, sealQ := [8, 9] })] } 9 = false) ∧
    sealTurn (request { st := .draining }) 9 = true ∧ (({} : Ctx).unsealed).length ≤ 1 ∧
    ({ serving with parts := [(0, { sealedAt := [(0x10000000000, 64)] })] } : State).sealedRange 0 0x1000000003F 1 = true ∧
    ({ serving with parts := [(0, { sealedAt := [(0x10000000000, 64)] })] } : State).sealedRange 0 0x10000000040 1 = false ∧
    entryFenced { serving with err := { units := [((unitPlinth 1).toNat, { dpath := 2 })] } } (cmd workQ entry0) { handle := true, sched := true } = true := by decide +kernel
/-- A host session of port 0 and none of port 1; the controllers run; a segment whose spare is used; fault counts below the maximum. -/
theorem witness_sessions : ({ part with sec := { sessions := [.host vf] } } : State).hasSession 0 = true ∧ ({ part with sec := { sessions := [.host vf] } } : State).hasSession 1 = false ∧
    ControllersRun part ∧ tabRising 0 part.err.units = true ∧ part.sec.entropyBad = none := by unfold ControllersRun; decide +kernel
/-- An alarm that is due now, every member of a slot with a threshold and an arrival that stands, a far answer that has come. -/
theorem witness_completions : (let th : Thread := { alarm := 0x8000000000000005 }; th.alarm.getLsbD 63 = true ∧ bits th.alarm 57 0 = bits ((inState th).atTime 5).time 57 0) ∧
    (∀ c ∈ (barred.placeCores 0).filter (fun c => ((barred.core c).bar 15).member), ((barred.core c).bar 15).plane = true ∧ ((barred.core c).bar 15).mask ≠ 0) ∧
    ((farWaiting true false).wait.map (fun w => (w.kind, w.done, w.err))) = some (9, true, false) ∧ (partWith { me := { queue := [entry 1 (.tfree 1) true] } } {}).clocked = true := by decide +kernel

/-! ## Steps and placements -/

def place0 : Place := { cores := [{ core := 0, altitude := 0, istoreLen := 0, preloadLen := 0, image := 0, startPc := [0x40] }] }
/-- A DECODE request of slot 0 with one page, and slot 0 with a step in flight as given. -/
def stepping (st : Option Step) (x : Ctx := { st := .decode, pages := [3], maxNew := 4 }) (pl : Place := place0) : State :=
  serving [(9, x)] pl (sl := { ready := true, place := some 0, step := st })
def entry1 : StepEnt := { ctx := 9, handle := 9, kind := 2, depth := 0, pos := 0, nIn := 1, seed := 0 }
theorem witness_step_formation : (let s := stepping none
      (s.mslot 0).ready = true ∧ (s.mslot 0).step = none ∧ s.suspended 0 = false ∧ s.sec.entropyBad = none ∧ (s.mslot 0).place = some 0 ∧ s.place? 0 = some place0 ∧
      place0.cast = none ∧ (∀ e ∈ place0.cores, s.coreFenced e.core = false) ∧ candidatesOf s 0 = [9] ∧ (s.ctx 9).st = .decode ∧ (s.ctx 9).slotKey = 0 ∧ tooManyHeld (s.atTime 5) (s.ctx 9) = false ∧
      ((s.ctx 9).pos.toNat + 1 + 16 - 1) / 16 ≤ (s.ctx 9).pages.length ∧ 256 + ((4 * (s.ctx 9).pages.length + 63) / 64 * 64) ≤ (s.slotCfg 0).stepSize.toNat) := by decide
theorem witness_step_complete : (∀ res ∈ [none, some (0 : Byte), some 0x11, some 0x07, some 0x10],
      let s := { stepping (some { entries := [entry1], result := res, fails := 2 }) with set := { (stepping none).set with slots := [(0, { poolPages := 100, stepBase := 0x10000000000 })] } };
      ((s.mslot 0).step.map (·.result)) = some res ∧ handleOf 9 (s.ctx 9) = entry1.handle ∧ (s.ctx 9).st = .decode ∧ (s.ctx 9).emitted.toNat < (s.ctx 9).maxNew.toNat ∧ (s.ctx 9).slotKey = 0 ∧
      (plinthRead (s.atTime 0) 0x10000000000 64).2.1 = true ∧ field (plinthRead (s.atTime 0) 0x10000000000 64).1 1 1 % 2 = 0 ∧ bits s.set.policy 2 0 = 3 ∧
      (s.mslot 0).place = some 0 ∧ (s.place? 0).isSome = true ∧ (0, s.mslot 0) ∈ s.slots) := by decide +kernel
/-- A placement that runs an attempt of slot 0. -/
def attempting (touched : List Byte) : State :=
  stepping (some {}) (pl := { place0 with running := some { q := none, hostTag := 0, step := some 0, began := 0, touched := touched } })
theorem witness_step_limit : (attempting []).since 0 < 10000 * 1000 ∧ 10000 * 1000 ≤ ((attempting []).atTime 10000000).since 0 ∧ ((attempting []).mslot 0).step = some {} ∧
    ((attempting []).place 0).waiting = [] ∧ ((attempting [0x09]).place 0).running.map (·.touched) = some [0x09] ∧ (0x09 : Byte) ∈ statusOrder ∧ (0x07 : Byte) ∈ statusOrder ∧ (0 : Byte) ∉ statusOrder := by decide
theorem witness_run_cast : (∀ c ∈ [Instr.run (cmd workQ entry0), .castCmd (cmd workQ entry0), .readCast (cmd workQ entry0)], actsB c (cmd workQ entry0) serving = true) ∧ serving.place? 0 = some place0 ∧
    place0.running = none ∧ (place0.cores.map (·.core)).Nodup ∧ tabRising 0 (serving.core 0).sh = true ∧ [(0x40 : W16)].getD (0 : BitVec 2).toNat 0xFFFF ≠ 0xFFFF ∧
    (serving.thread 0 0).st = .stopped ∧ (serving.core 0).busyFor 0 = false ∧ (plinthRead serving 0x10000000000 1792).2.1 = true ∧
    (plinthRead { serving with hbm := { pages := [(pageOf 0 0, true)], poison := [(unitOf 0 0, true)] } } 0x10000000000 1792).2.1 = false := by decide +kernel
/-- Placement 0 with a RUN under way, and the core given. -/
def commanded (k : Core := {}) (n : W16 := 0) (cast : Option Cast := none) : State :=
  { serving [] { place0 with running := some { q := some workQ, hostTag := 7, step := none, began := 0 }, sinceAlign := n, cast := cast, cfg := { realignN := 2 } } with
    cores := [(0, { k with place := some 0 })] }
theorem witness_command_end : allStopped (commanded.atTime 5) 0 = true ∧ drainedOut (commanded.atTime 5) 0 = true ∧ allStopped (commanded { threads := [(0, { st := .running })] }) 0 = false ∧
    commanded.writeQ = [] ∧ (∀ e ∈ place0.cores, (commanded.core e.core).sync.clampCmd = false) ∧ (0 : W16).toNat + 1 < (2 : W16).toNat ∧ (2 : W16).toNat ≤ (1 : W16).toNat + 1 ∧
    (let k := (commanded { sync := { rings := [(5, { en := true, wr := 1 })] } }).core 0;
      (k.ring 5).en = true ∧ (k.ring 5).wr ≠ (k.ring 5).rd) ∧ 600000 * 1000000 ≤ (commanded.atTime 600000000000).since 0 ∧
    ((commanded {} 0 (some { cause := 3, started := 0, q := some (workQ, 7) })).place 0).cast.map (fun y => (y.cause, y.q, y.parked)) = some (3, some (workQ, 7), []) := by decide +kernel
theorem witness_aligned : Aligned commanded 0 := by
  refine ⟨rfl, fun n h e => ?_, fun n h e => ?_, fun n h => rfl, fun n h => rfl⟩ <;> exact absurd e (by revert n; decide)
/-- An image whose 64 sealed bytes are zeros at the start of die 0, as a page that nothing has written reads. -/
def sealed64 : DrainImage := ⟨[], 0, 0x10000000000, List.replicate 64 0⟩
theorem witness_drain : place0.draining = false ∧ place0.drained = false ∧ ((request { st := .decode }).ctx 9).live = true ∧ (((request { st := .decode }).ctx 9).slotKey, ({ ready := true, place := some 0 } : Slot)) ∈ (request { st := .decode }).slots ∧
    drainedOut serving 0 = true ∧ drainedOut (commanded { fcq := [⟨0, 0, .fill 0 64 0, 0, false⟩] }) 0 = false ∧ (∀ e ∈ serving.err.units, e.2.setTo = none) ∧
    (∀ e ∈ place0.cores, serving.coreFenced e.core = false) ∧ (tabGet ({} : Part) serving.parts (0 / 256)).saveKey = 0 ∧ ({ place0 with image := some sealed64, drained := true } : Place).image = some sealed64 ∧
    ((plinthRead serving sealed64.at_ 64).1, (plinthRead serving sealed64.at_ 64).2.1) = (sealed64.bytes, true) ∧ (plinthRead part 0xFFFFFFFFFFFFFFFF 64).2.1 = false := by decide +kernel

/-! ## Faults -/

theorem witness_faults : unitExists (unitCore 0) = true ∧ unitExists 0xF0000000 = false ∧ (part.unit (unitCore 0)).dpath = 0 ∧ unitKind (unitCore 0) = 0 ∧ unitKind (unitId 1 0) = 1 ∧
    tabLook part.spares (segKey (BitVec.ofNat 14 (unitCore 0).toNat)) = none ∧ unitExists (unitId 3 0) = true ∧ unitKind (unitId 3 0) = 3 ∧ tabGet 0 part.links 0 < 2 ∧
    tabGet 0 ({ part with links := [(0, 2)] } : State).links 0 = 2 ∧ (commanded.place 0).running.map (·.touched) = some [] ∧ 0 ∈ placesUsing commanded (unitCore 0) := by decide +kernel
/-- Core 3 with its unit in a state of its own, outside any placement. -/
def faulted (u : Machine.Unit) (spare : Tab Nat := []) : State := { part with err := { units := [((unitCore 3).toNat, u)] }, spares := spare }
theorem witness_recovery : ((faulted { testing := true, hard := true }).unit (unitCore 3)).testing = true ∧ ((faulted { testing := true }).unit (unitCore 3)).hard = false ∧
    (tabLook (faulted {} [(segKey 3, 3)]).spares (segKey 3)) = some (3 : CoreId).toNat ∧ OnCore (faulted { recovering := true, hard := true }) 3 ∧
    ((faulted { recovering := true, hard := true }).core 3).place = none ∧ ((faulted { recovering := true, hard := true }).unit (unitCore 3)).recovering = true ∧
    ((faulted { recovering := true, hard := true }).unit (unitId 1 (3 : CoreId).toNat)).recovering = false ∧ (faulted { dpath := 2 }).fenced (unitCore 3) = true ∧ (faulted {}).fenced (unitCore 3) = false := by
  unfold OnCore; decide +kernel
theorem witness_lost_answer : (let s := partWith (openAt1 .store) {}
      (tabLook (s.core 0).slots 0).map (fun q => (q.isOpen, q.unit)) = some (true, 0) ∧ tabRising 0 (s.core 0).slots = true ∧ (s.atTime 1).since 0 < 500000 ∧ 500000 ≤ (s.atTime 500000).since 0) ∧
    isCore 0x1FFF = false ∧ ((partWith (engine [entry 1 someMma]) {}).core 0).me.queue ≠ [] ∧ ((part).core 0).fcq = [] ∧ unitKind (unitId 5 0) ≠ 7 ∧ unitExists (unitId 5 0) = true ∧
    unitExists (unitPlace 0) = true ∧ unitKind (unitPlace 0) = 10 ∧ (serving.places.map (·.1)).find? (fun k => unitPlace k == unitPlace 0) = some 0 ∧
    ((request { st := .decode }).ctx 9).live = true ∧ 9 / 262144 = 0 := by decide +kernel
theorem witness_alternatives : (let s := serving [] (sl := { lostAt := some 0 })
      (s.mslot 0).lostAt = some 0 ∧ (s.mslot 0).ready = false ∧ (s.slotCfg 0).alts.all (fun a => !altOk (s.atTime 5000000000) 0 (placeKey 0 a.toNat)) = true ∧ 5000000000 ≤ (s.atTime 5000000000).since 0 ∧
      (s.atTime 4999999999).since 0 < 5000000000 ∧ (serving.mslot 0).lostAt = none) := by decide +kernel
theorem witness_plinth : part.up = true ∧ part.err.lastMismatch = none ∧ 1000000000 < (part.atTime 1000000001).since 0 ∧ (part.atTime 1000000000).since 0 ≤ 1000000000 ∧
    part.effective (unitCore 0) < (2 : BitVec 4).toNat ∧ placesUsing part (unitCore 0) = [] ∧ placesUsing serving (unitCore 0) ≠ [] ∧
    ((faulted { mgmt := 2 }).unit (unitCore 3)).mgmt ≠ 0 ∧ ((faulted { mgmt := 2 }).unit (unitCore 3)).dpath = 0 ∧ ((faulted { mgmt := 2 }).unit (unitCore 3)).setTo = none := by decide +kernel
theorem witness_held_commands : ({ ctlRestart := true, heldCmds := [.errPolicyWrite .mgmt 5] } : Err).heldCmds = [.errPolicyWrite .mgmt 5] ∧
    ({ schReload := true, heldSch := [.cancel (cmd workQ entry0)] } : Err).heldSch = [.cancel (cmd workQ entry0)] := ⟨rfl, rfl⟩
theorem witness_controls_package : ControlsPackage .mgmt ∧ ControlsPackage (.host ⟨1, 0⟩) ∧ ¬ ControlsPackage (.host vf) := by
  refine ⟨.inl rfl, .inr ⟨1, rfl⟩, ?_⟩
  rintro (h | ⟨p, h⟩)
  · cases h
  · injection h with h
    exact absurd (show vf.fn = 0 by rw [h]) (by decide)

/-! ## Security, power, resets -/

theorem witness_entropy : part.sec.entropyBad = none ∧ ({ entropyBad := some 5 } : Sec).entropyBad = some 5 ∧ (part.atTime 10000005).since 5 = 10000000 ∧ (part.atTime 7).since 5 < 10000000 ∧
    (0x10000 : W64).getLsbD 16 = true ∧ tabLook serving.parts (0 : BitVec 3).toNat = some {} ∧ part.sec.heldDraw.length = 0 := by decide +kernel
theorem witness_held_draw : ({ heldDraw := [.secHpkeRotate 0 0x10000 5] } : Sec).heldDraw = [.secHpkeRotate 0 0x10000 5] := rfl
theorem witness_rotation : (let s := { serving with set := { serving.set with rotateS := [(0, 60)] } };
      s.rotateS 0 ≠ 0 ∧ 60 * 1000000000 ≤ (s.atTime 60000000000).since ({} : Part).rotated) ∧ (serving.rotateS 0).toNat * 1000000000 ≠ 0 ∧ serving.phase = .ready ∧ (0 : W64).getLsbD 16 = false := by decide +kernel
theorem witness_interfaces : (∀ st ∈ [TdiSt.configUnlocked, .configLocked, .run, .error], tabLook ({ serving with parts := [(0, { tdi := st })] } : State).parts (0 : BitVec 3).toNat = some { tdi := st }) ∧
    partNo vf = some 0 ∧ serving.up = true ∧ tabRising 0 serving.fns = true ∧ ((request { st := .decode }).ctx 9).live = true ∧ ((request { st := .decode }).ctx 9).part = 0 ∧
    ({ stream := some 4 } : Fn).stream = some 4 ∧ ({ stream := some 4 } : Fn).stream ≠ some 5 := by decide +kernel
theorem witness_spdm : SpdmUp part .mgmt ∧ SpdmUp serving (.host vf) ∧ ¬ SpdmUp State.reset .mgmt ∧ spdmPlainRow .mgmt (.getVersion .mgmt) = true ∧ spdmDrawRow .mgmt (.challenge .mgmt []) = true ∧
    Requester.mgmt ∈ ({ opening := [.mgmt] } : Sec).opening ∧ Requester.mgmt ∉ ({} : Sec).opening ∧ partNo ⟨0, 0⟩ ≠ some 3 := by
  refine ⟨⟨by decide, by decide, fun f h => by cases h⟩, ⟨by decide, by decide, fun f h => ?_⟩, fun h => absurd h.2.1 (by decide), by decide, by decide, by decide, by decide, by decide⟩
  injection h with h; rw [← h]; decide
/-- Before DEPLOYED no token is asked for; from DEPLOYED on a token that was used is turned away. -/
theorem witness_lifecycle : part.sec.lifecycle.toNat < 2 ∧ 2 ≤ ({ lifecycle := 2, used := [[1]] } : Sec).lifecycle.toNat ∧ [(1 : Byte)] ∈ ({ lifecycle := 2, used := [[1]] } : Sec).used ∧
    (1 : BitVec 2).toNat = part.sec.lifecycle.toNat + 1 ∧ (3 : BitVec 2).toNat ≠ part.sec.lifecycle.toNat + 1 ∧ part.err.ctlStopped = false ∧ part.err.ctlRestart = false ∧
    ({ staged := some ⟨[1], 0, 3⟩ } : Sec).staged = some ⟨[1], 0, 3⟩ ∧ part.i3cAddr = none ∧ part.smbus = false := by decide
theorem witness_storage_power : (part.nv.stores.filter (fun t => decide ((part.atTime 5).since t < 3600000000000))).length < 16 ∧
    16 ≤ ((List.replicate 16 (0 : W64)).filter (fun t => decide ((part.atTime 5).since t < 3600000000000))).length ∧ part.nv.busy = false ∧
    ({ busy := true, snap := some {}, lastB := true } : Nv).snap = some {} ∧ part.clocked = true ∧ tabRising 0 part.pwr.freq = true ∧ part.aon = true := by decide
theorem witness_resets : ({ part with aon := false, phase := .noPower } : State).up = false ∧ part.up = true ∧ serving.present vf = true ∧ part.present vf = false ∧ tabRising 0 serving.qps = true ∧
    State.reset.phase = .boot ∧ State.reset.stage = 0 ∧ State.reset.sec.flash.find? (imageOk State.reset) = none ∧ State.reset.nv.copyA = none ∧
    ((0, ({ dies := 1 } : PartCfg)) ∈ [(0, ({ dies := 1 } : PartCfg))]) ∧ (0x80 : Byte).getLsbD 7 = true := by decide

/-! ## The whole machine -/

theorem witness_queue : QueueSendable State.reset ∧ QueueSendable { part with pending := [.dmaStop 0 2, .perstDeassertion 1] } ∧ ({ part with pending := [.vddAonApplied], aon := false } : State).pending.head? = some .vddAonApplied := by
  refine ⟨fun c h => (by cases h), ?_, rfl⟩
  intro c h
  rcases List.mem_cons.mp h with rfl | h
  · decide
  · rw [List.mem_singleton.mp h]; decide

/-! ## Values worked by hand -/

/-- g1 of thread 0 of core 0 after the commands, each as the one waiting. -/
def after (s : State) : List Instr → State
  | [] => s
  | c :: r => match step { s with pending := [c] } with | .next t => after t r | _ => s
/-- Two operands in g2 and g3. -/
def given (a b : W64) : State := partWith {} { st := .running, g := [(2, a), (3, b)] }
def g1 (s : State) : W64 := (s.thread 0 0).readG 1
/-- R123: ADD wraps at 64 bits; a result is written one tick after issue, so the NOP that follows sees it. -/
theorem test_add_wraps : g1 (after (given 0xFFFFFFFFFFFFFFFF 2) [.add site 1 2 3, .nop site]) = 1 := by decide +kernel
theorem test_sar_fills : g1 (after (given 0x8000000000000000 4) [.sar site 1 2 3, .nop site]) = 0xF800000000000000 := by decide +kernel
theorem test_mulh_signed : g1 (after (given 0xFFFFFFFFFFFFFFFF 2) [.mulh site 1 2 3, .nop site, .nop site, .nop site]) = 0xFFFFFFFFFFFFFFFF := by decide +kernel
/-- R9 and R95: a store and a load of 8 bytes meet, least significant byte first. -/
theorem test_store_load : (let s := after (at1 0x100 {} { g := [(2, 0x0102030405060708)] }) [.st64 site 2 1 0]; tabGet 0 (s.core 0).lm.data 0x100 = 8) := by decide +kernel
/-- The check value of CRC-32C over the characters 1 to 9 (R133). -/
theorem test_crc32c : crc32c [0x31, 0x32, 0x33, 0x34, 0x35, 0x36, 0x37, 0x38, 0x39] = 0xE3069283 := by decide +kernel

end Sys2Proof.Tests
end

section
/-! PROOF. When an instruction issues, and which faults its bytes raise (R73 to R75, R87, R93, R109 to R111; O8). -/

namespace Sys2Proof.Machine

open Sys2Proof.Safety

/-! ## A thread that does not issue -/

/-- The thread of an existing core does nothing while the dies are not clocked or it is neither RUNNING nor WAITING (R74, R100). -/
theorem issue_idle {s : State} {l : Layout} (body : Iss → IssRes) (hc : isCore l.i.core = true)
    (h : s.clocked = false ∨ ((l.th s).st ≠ .running ∧ (l.th s).st ≠ .waiting)) :
    issue s l.i l.op l.ops l.imm body = .next s := by
  have hidle : (!s.clocked || !((l.th s).st == .running || (l.th s).st == .waiting)) = true := by
    rcases h with h | ⟨hr, hw⟩
    · simp [h]
    · simp [hr, hw]
  unfold Layout.th at hidle
  simp only [issue, hc, hidle, Bool.not_true, Bool.false_eq_true, if_false, if_true]

/-- A RUNNING or WAITING thread of the clocked dies passes `issue`'s first check (R74, R100). -/
theorem not_idle {s : State} {l : Layout} (hk : s.clocked = true) (hst : (l.th s).st = .running ∨ (l.th s).st = .waiting) :
    (!s.clocked || !((l.th s).st == .running || (l.th s).st == .waiting)) = false := by
  rcases hst with h | h <;> simp [hk, h]

/-- An asynchronous fault that is due is taken in the issue's place (R223). -/
theorem issue_asyncDue {s : State} {l : Layout} (body : Iss → IssRes) (hc : isCore l.i.core = true) (hk : s.clocked = true)
    (hst : (l.th s).st = .running ∨ (l.th s).st = .waiting) (hd : (l.th s).asyncDue = true) :
    issue s l.i l.op l.ops l.imm body = .next (deliverNext s l.i.core l.i.thr) := by
  have hlive := not_idle hk hst
  unfold Layout.th at hlive hd
  simp only [issue, hc, hlive, hd, Bool.not_true, Bool.false_eq_true, if_false, if_true]

/-- While the slot grants another thread, an instruction with a false guard does nothing (R74, R75). -/
theorem issue_false_of_not_granted {s : State} {l : Layout} (body : Iss → IssRes) (h : Issues s l)
    (hg : guardHolds (l.th s) l.i.px = false) (hr : ¬ Granted s l) : issue s l.i l.op l.ops l.imm body = .next s := by
  unfold Granted at hr
  rw [issue_issues body h]
  simp only [hg, hr, Bool.false_eq_true, if_true, if_false]

/-! ## The faults of an instruction's bytes -/

/-- Bytes of the store from the thread's PC on; none once the PC has run past 0xFFFF (R93). -/
def bytesAhead (s : State) (l : Layout) : Nat := if (l.th s).past then 0 else 0x10000 - (l.th s).pc.toNat

/-- The faults that `issue` finds in an instruction's bytes, whatever its guard (R93, R110, R111; log 126). -/
def byteFaults (s : State) (l : Layout) : List (Nat × W64) :=
  if (fetchBytes s l.i.core (l.th s).pc.toNat l.len).1 && !(l.th s).past then [(9, (l.th s).pc.zeroExtend 64)]
  else (fetchedFaults (bytesAhead s l) l.op l.i.px l.ops l.imm).map
      (fun code => (code, firstBytes (fetched s l).k (l.th s).pc (insnBytes l.i.px l.op l.ops l.imm)))
    ++ (if (l.th s).past || decide ((l.th s).pc.toNat + l.len > 0x10000) then [(0x0D, (0x10000 : W64))] else [])

/-- A granted instruction whose bytes fault raises those faults before its guard is looked at. -/
theorem issue_byteFaults {s : State} {l : Layout} (body : Iss → IssRes) (h : CanIssue s l) (hr : Granted s l) (hf : byteFaults s l ≠ []) :
    issue s l.i l.op l.ops l.imm body =
      .next (issueFault (fetched s l).s (fetched s l) (issueSlot (l.th s) l.i.px l.op) (byteFaults s l) s.err.reports.length) := by
  obtain ⟨hc, hk, hst, hd⟩ := h
  have hlive := not_idle hk hst
  have hne : (!(byteFaults s l).isEmpty) = true := by simpa using hf
  unfold Layout.th at hlive hd
  unfold issue
  simp only [hc, hlive, hd, Bool.not_true, Bool.false_eq_true, if_false]
  exact (if_pos hne).trans (congrArg Host.Outcome.next (if_pos hr))

/-- An instruction's bytes hold its prefixes and its opcode (R112). -/
theorem prefixes_lt_len (l : Layout) : (l.i.px.map prefixLen).sum < l.len := by
  unfold Layout.len insnLen
  split <;> omega

/-- With its bytes in the store and at most 15 bytes of prefixes, the opcode is found, and the instruction competes for its opcode's slot (R73). -/
theorem opFound_inStore {s : State} {l : Layout} (h : InStore s l) (hp : (l.i.px.map prefixLen).sum ≤ 15) :
    opFound (bytesAhead s l) l.i.px = true := by
  obtain ⟨hpast, hin⟩ := h
  have := prefixes_lt_len l
  simp only [opFound, bytesAhead, hpast, Bool.false_eq_true, if_false, Bool.and_eq_true, decide_eq_true_eq]
  omega

theorem issueSlot_inStore {s : State} {l : Layout} (h : InStore s l) (hp : (l.i.px.map prefixLen).sum ≤ 15) :
    issueSlot (l.th s) l.i.px l.op = opSlot l.op := if_pos (opFound_inStore h hp)

/-- Bytes that all stand in the store raise the faults of the encoding, those of a reserved opcode among them (R117, R123). -/
theorem fetchedFaults_inStore {s : State} {l : Layout} (h : InStore s l) (hp : (l.i.px.map prefixLen).sum ≤ 15) :
    fetchedFaults (bytesAhead s l) l.op l.i.px l.ops l.imm = encFaults l.op l.i.px l.ops l.imm := by
  cases hs : opSig l.op with
  | none => simp [fetchedFaults, encFaults, opFound_inStore h hp, hs]
  | some fk =>
    obtain ⟨hpast, hin⟩ := h
    have hlen : l.len = insnLen l.i.px fk.1 := by simp [Layout.len, hs]
    refine (fetchedFaults_all (f := fk.1) (ks := fk.2) hs ?_ hp).2
    simp only [bytesAhead, hpast, Bool.false_eq_true, if_false]
    omega

/-- Nothing of an instruction is looked at past 0xFFFF. -/
theorem fetchedFaults_zero (op : Nat) (px : List Prefix) (ops : List Byte) (imm : W32) : fetchedFaults 0 op px ops imm = [] := by
  have hps : prefixesWithin 0 px = [] := by cases px <;> simp [prefixesWithin]
  simp [fetchedFaults, opFound, hps, prefixDup]

theorem byteFaults_clean {s : State} {l : Layout} (h : InStore s l) (hc : FetchClean s l) (hp : (l.i.px.map prefixLen).sum ≤ 15) :
    byteFaults s l = (encFaults l.op l.i.px l.ops l.imm).map
      (fun code => (code, firstBytes (fetched s l).k (l.th s).pc (insnBytes l.i.px l.op l.ops l.imm))) := by
  have hend : ¬ (l.th s).pc.toNat + l.len > 0x10000 := by have := h.2; omega
  unfold FetchClean at hc
  simp [byteFaults, fetchedFaults_inStore h hp, h.1, hc, hend]

theorem byteFaults_unreadable {s : State} {l : Layout} (h : InStore s l) (hc : ¬ FetchClean s l) :
    byteFaults s l = [(9, (l.th s).pc.zeroExtend 64)] := by
  unfold FetchClean at hc
  simp [byteFaults, h.1, hc]

theorem byteFaults_past {s : State} {l : Layout} (h : (l.th s).past = true) : byteFaults s l = [(0x0D, 0x10000)] := by
  simp [byteFaults, bytesAhead, h, fetchedFaults_zero]

/-! ## Which of the faults is raised -/

/-- The encoding's faults are some of 1, 2 and 3, in that order (R110). -/
theorem encFaults_sublist (op : Nat) (px : List Prefix) (ops : List Byte) (imm : W32) : (encFaults op px ops imm).Sublist [1, 2, 3] := by
  have hsome : ∀ (c : Prop) [Decidable c] (code : Nat), (if c then [code] else []).Sublist [code] := fun c _ code => by
    split
    · exact List.Sublist.refl _
    · exact List.nil_sublist _
  have hnone : ∀ (c : Prop) [Decidable c] (code : Nat), (if c then [] else [code]).Sublist [code] := fun c _ code => by
    split
    · exact List.nil_sublist _
    · exact List.Sublist.refl _
  unfold encFaults
  split
  · exact List.sublist_append_left [1] [2, 3]
  · exact ((hnone _ 1).append (hsome _ 2)).append (hsome _ 3)

/-- The encoding's faults rise: the first is the lowest (R110). -/
theorem encFaults_rising (op : Nat) (px : List Prefix) (ops : List Byte) (imm : W32) : (encFaults op px ops imm).Pairwise (· ≤ ·) :=
  List.Pairwise.sublist (encFaults_sublist op px ops imm) (by decide)

/-- None of the encoding's faults is a BUS_ERROR. -/
theorem encFaults_le_three {op : Nat} {px : List Prefix} {ops : List Byte} {imm : W32} {code : Nat} (h : code ∈ encFaults op px ops imm) :
    code ≤ 3 :=
  (by decide : ∀ c ∈ [1, 2, 3], c ≤ 3) code ((encFaults_sublist op px ops imm).subset h)

/-- Of faults in rising order, all at one address, the first is raised (R110). -/
theorem lowestFault_of_rising {code : Nat} {rest : List Nat} (addr : W64) (h : (code :: rest).Pairwise (· ≤ ·)) :
    lowestFault ((code :: rest).map (fun c => (c, addr))) = some (code, addr) := by
  induction rest generalizing code with
  | nil => rfl
  | cons next rest ih =>
    obtain ⟨hcode, hrest⟩ := List.pairwise_cons.mp h
    rw [List.map_cons, lowestFault, ih hrest]
    exact if_pos (hcode next List.mem_cons_self)

/-- A fault at issue that is no BUS_ERROR moves the slot's pointer and is taken (R109). -/
theorem issueFault_eq_faultsWith {x : Iss} {sl : Slot4} {fs : List (Nat × W64)} {n code : Nat} {addr : W64}
    (h : lowestFault fs = some (code, addr)) (hc : code ≠ 9) : issueFault x.s x sl fs n = faultsWith x sl code addr := by
  simp only [issueFault, h, if_neg hc, faultsWith]

/-- A BUS_ERROR at issue: the reports of this issue take its code and stand for its own (R426). -/
theorem issueFault_eq_busFault {s : State} {l : Layout} {sl : Slot4} {addr : W64} :
    issueFault (fetched s l).s (fetched s l) sl [(9, addr)] s.err.reports.length = busFault s l sl addr := by
  simp only [issueFault, lowestFault, if_true, busFault, fetched_th, fetched_c, fetched_t, fetched_pc]

/-- Settles O8: each clause is `issue`'s answer, which every core instruction gives on its own bytes (`layout_issue`). -/
theorem whatIssues : Obligations.WhatIssues := by
  unfold Obligations.WhatIssues
  refine ⟨fun s c l hl hc h => ?_, fun s c l hl hc hk hst hd => ?_, fun s c l hl hi hg => ?_, fun s c l hl hcan hr => ?_⟩ <;>
    obtain ⟨body, hexec⟩ := layout_issue hl <;> simp only [hexec s]
  · exact issue_idle body hc h
  · exact issue_asyncDue body hc hk hst hd
  · exact ⟨issues_false body hi hg, issue_false_of_not_granted body hi hg⟩
  · refine ⟨fun code rest hin hclean hp henc => ?_, fun hin hp hbad => ?_, fun hpast => ?_⟩
    · have hrise := encFaults_rising l.op l.i.px l.ops l.imm
      have hcode : code ≤ 3 := encFaults_le_three (henc ▸ List.mem_cons_self)
      have hbf := byteFaults_clean hin hclean hp
      rw [henc] at hrise hbf
      rw [issue_byteFaults body hcan hr (by simp [hbf]), issueSlot_inStore hin hp, hbf,
        issueFault_eq_faultsWith (lowestFault_of_rising _ hrise) (by omega)]
    · have hbf := byteFaults_unreadable hin hbad
      rw [issue_byteFaults body hcan hr (by simp [hbf]), issueSlot_inStore hin hp, hbf, issueFault_eq_busFault]
    · have hbf := byteFaults_past hpast
      have hslot : issueSlot (l.th s) l.i.px l.op = .S := by simp [issueSlot, opFound, hpast]
      rw [issue_byteFaults body hcan hr (by simp [hbf]), hslot, hbf, issueFault_eq_faultsWith rfl (by decide)]

end Sys2Proof.Machine
end

section
/-! PROOF. Results held back complete at their ticks, the later completion last (R76 to R79; O10). -/

namespace Sys2Proof.Machine

open Sys2Proof.Safety

/-! ## The results held back, in their order -/

theorem mem_pendInsert {w x : Pend} {ps : List Pend} : x ∈ pendInsert w ps ↔ x = w ∨ x ∈ ps := by
  induction ps with
  | nil => simp [pendInsert]
  | cons p ps ih =>
    unfold pendInsert
    split
    · simp
    · rw [List.mem_cons, List.mem_cons, ih]
      exact or_left_comm

/-- A result takes its place by its completion tick (R79). -/
theorem pendSorted_pendInsert {w : Pend} {ps : List Pend} (h : PendSorted ps) : PendSorted (pendInsert w ps) := by
  unfold PendSorted at *
  induction ps with
  | nil => simp [pendInsert]
  | cons p ps ih =>
    obtain ⟨hp, hps⟩ := List.pairwise_cons.mp h
    unfold pendInsert
    split
    · rename_i hlt
      refine List.pairwise_cons.mpr ⟨fun x hx => ?_, h⟩
      rcases List.mem_cons.mp hx with rfl | hx
      · omega
      · have := hp x hx
        omega
    · rename_i hge
      refine List.pairwise_cons.mpr ⟨fun x hx => ?_, ih hps⟩
      rcases mem_pendInsert.mp hx with rfl | hx
      · omega
      · exact hp x hx

/-- The results held back and an instruction's own stay ordered. -/
theorem pendSorted_foldl_pendInsert {α : Type} (held : α → Pend) (ws : List α) {ps : List Pend} (h : PendSorted ps) :
    PendSorted (ws.foldl (fun ps w => pendInsert (held w) ps) ps) := by
  induction ws generalizing ps with
  | nil => exact h
  | cons w ws ih => exact ih (pendSorted_pendInsert h)

/-- Of ordered results exactly those due complete, in their order; the rest stay held back (R77, R78). -/
theorem retireList_of_sorted (t : BitVec 2) (tick : Nat) (k : Core) {ps : List Pend} (h : PendSorted ps) :
    retireList t tick k ps = ((ps.filter (fun w => decide (w.due.toNat ≤ tick))).foldl (fun k w => completePend k t w) k,
      ps.filter (fun w => !decide (w.due.toNat ≤ tick))) := by
  unfold PendSorted at h
  induction ps generalizing k with
  | nil => rfl
  | cons w ps ih =>
    obtain ⟨hw, hps⟩ := List.pairwise_cons.mp h
    unfold retireList
    split
    · rename_i hdue
      simp [ih _ hps, hdue]
    · rename_i hlate
      have hrest : ∀ x ∈ ps, ¬ x.due.toNat ≤ tick := fun x hx => by have := hw x hx; omega
      have hnone : ps.filter (fun w => decide (w.due.toNat ≤ tick)) = [] := by simpa [List.filter_eq_nil_iff] using hrest
      have hall : ps.filter (fun w => !decide (w.due.toNat ≤ tick)) = ps := by simpa [List.filter_eq_self] using hrest
      simp [hlate, hnone, hall]

/-! ## Register files after a write -/

/-- A table that a write has set reads the value written at its key, and elsewhere as before. -/
theorem tabGet_tabSet {α : Type} [DecidableEq α] {d : α} {t : Tab α} (k j : Nat) (v : α) (h : tabWf d t = true) :
    tabGet d (tabSet d t k v) j = if k = j then v else tabGet d t j := by
  split
  · rename_i hkj
    subst hkj
    exact tabGet_tabSet_same k v (Bool.and_eq_true_iff.mp h).1
  · rename_i hkj
    exact tabGet_tabSet_ne d t v (Ne.symm hkj)

theorem Thread.readG_writeG {th : Thread} {n : Nat} (m : Nat) (x : W64) (h : tabWf 0 th.g = true) (hn : n ≠ 0) :
    (th.writeG m x).readG n = if m = n then x else th.readG n := by
  unfold Thread.writeG
  split
  · rename_i hm
    subst hm
    rw [if_neg (Ne.symm hn)]
  · simp only [Thread.readG, if_neg hn, tabGet_tabSet m n x h]

theorem Thread.readV_writeV {th : Thread} {n : Nat} (m : Nat) (x : W512) (h : tabWf 0 th.v = true) :
    (th.writeV m x).readV n = if m = n then x else th.readV n := tabGet_tabSet m n x h

theorem Thread.readLc_writeLc {th : Thread} {n : Nat} (m : Nat) (x : W32) (h : tabWf 0 th.lc = true) :
    (th.writeLc m x).readLc n = if m = n then x else th.readLc n := tabGet_tabSet m n x h

theorem Thread.readP_writeP (th : Thread) {n : Nat} (m : Nat) (b : Bool) (h0 : 0 < n) (h8 : n < 8) :
    (th.writeP m b).readP n = if m = n then b else th.readP n := by
  have hbit : ((1 : Byte) <<< m).getLsbD n = decide (m = n) := by
    rw [BitVec.getLsbD_shiftLeft, show (1 : Byte) = 1#8 from rfl, BitVec.getLsbD_one]
    rw [Bool.eq_iff_iff]
    simp only [Bool.and_eq_true, Bool.not_eq_true', decide_eq_true_eq, decide_eq_false_iff_not]
    omega
  have hread : ∀ p : Byte, (n == 0 || p.getLsbD n) = p.getLsbD n := fun p => by rw [beq_false_of_ne (Nat.ne_of_gt h0), Bool.false_or]
  unfold Thread.writeP
  split
  · rename_i hm
    subst hm
    rw [if_neg (by omega)]
  · simp only [Thread.readP, hread]
    cases b
    · rw [if_neg (by decide), BitVec.getLsbD_and, BitVec.getLsbD_not, hbit]
      by_cases h : m = n <;> simp [h, h8]
    · rw [if_pos rfl, BitVec.getLsbD_or, hbit]
      by_cases h : m = n <;> simp [h]

/-! ## One result completes -/

/-- A value in the thread's register that a destination names; the core's shared registers and ports are not the thread's. -/
def Thread.put (th : Thread) (d : Dst) (x : W512) : Thread :=
  match d with
  | .g n => th.writeG n (x.truncate 64)
  | .p n => th.writeP n (x.getLsbD 0)
  | .v n => th.writeV n x
  | .lc n => th.writeLc n (x.truncate 32)
  | _ => th

/-- What the completion of a result does to its thread: its sticky flags and its register (R54, R77; log 17). -/
def Thread.complete (th : Thread) (w : Pend) : Thread :=
  Thread.put { th with arith := arithSet th.arith w.sovf w.vovf } w.dst w.val

theorem thread_completePend (k : Core) (t : BitVec 2) (w : Pend) : (completePend k t w).thread t = (k.thread t).complete w := by
  unfold completePend Thread.complete Thread.put
  cases w.dst <;> exact Core.thread_setThread ..

/-- A result of the thread's own registers or of a port leaves the shared registers alone. -/
theorem sh_completePend (k : Core) (t : BitVec 2) (w : Pend) :
    (completePend k t w).sh = match w.dst with | .sh n => tabSet 0 k.sh n (w.val.truncate 64) | _ => k.sh := by
  unfold completePend
  cases w.dst <;> rfl

theorem thread_foldl_completePend (t : BitVec 2) (ws : List Pend) (k : Core) :
    (ws.foldl (fun k w => completePend k t w) k).thread t = ws.foldl Thread.complete (k.thread t) :=
  (List.foldl_hom (fun k : Core => k.thread t) (fun k w => (thread_completePend k t w).symm)).symm

section put
variable (th : Thread) (d : Dst) (x : W512)

theorem Thread.put_tick : (th.put d x).tick = th.tick := by
  unfold Thread.put
  cases d <;> simp
theorem Thread.put_arith : (th.put d x).arith = th.arith := by
  unfold Thread.put
  cases d <;> simp

/-! Writes keep the canonical form of the register files. -/

theorem Thread.put_g_wf (h : tabWf 0 th.g = true) : tabWf 0 (th.put d x).g = true := by
  cases d with
  | g n =>
    show tabWf 0 (th.writeG n _).g = true
    unfold Thread.writeG
    split
    · exact h
    · exact tabWf_tabSet n _ h
  | _ => simpa [Thread.put] using h
theorem Thread.put_v_wf (h : tabWf 0 th.v = true) : tabWf 0 (th.put d x).v = true := by
  cases d with
  | v n => exact tabWf_tabSet n x h
  | _ => simpa [Thread.put] using h
theorem Thread.put_lc_wf (h : tabWf 0 th.lc = true) : tabWf 0 (th.put d x).lc = true := by
  cases d with
  | lc n => exact tabWf_tabSet n _ h
  | _ => simpa [Thread.put] using h

/-! The register written reads the value, every other as before. -/

theorem Thread.readG_put {n : Nat} (h : tabWf 0 th.g = true) (hn : n ≠ 0) :
    (th.put d x).readG n = if d = .g n then x.truncate 64 else th.readG n := by
  cases d with
  | g m => simp only [Thread.put, Thread.readG_writeG m _ h hn, Dst.g.injEq]
  | _ => simp [Thread.put, Thread.readG]
theorem Thread.readV_put (n : Nat) (h : tabWf 0 th.v = true) : (th.put d x).readV n = if d = .v n then x else th.readV n := by
  cases d with
  | v m => simp only [Thread.put, Thread.readV_writeV m _ h, Dst.v.injEq]
  | _ => simp [Thread.put, Thread.readV]
theorem Thread.readLc_put (n : Nat) (h : tabWf 0 th.lc = true) :
    (th.put d x).readLc n = if d = .lc n then x.truncate 32 else th.readLc n := by
  cases d with
  | lc m => simp only [Thread.put, Thread.readLc_writeLc m _ h, Dst.lc.injEq]
  | _ => simp [Thread.put, Thread.readLc]
theorem Thread.readP_put {n : Nat} (h0 : 0 < n) (h8 : n < 8) :
    (th.put d x).readP n = if d = .p n then x.getLsbD 0 else th.readP n := by
  cases d with
  | p m => simp only [Thread.put, Thread.readP_writeP th m _ h0 h8, Dst.p.injEq]
  | _ => simp [Thread.put, Thread.readP]

end put

/-! ## Results completed one after another -/

theorem Thread.tick_foldl_complete (ws : List Pend) (th : Thread) : (ws.foldl Thread.complete th).tick = th.tick := by
  induction ws generalizing th with
  | nil => rfl
  | cons w ws ih => rw [List.foldl_cons, ih, Thread.complete, Thread.put_tick]

theorem lastTo_cons (w : Pend) (ws : List Pend) (d : Dst) :
    lastTo (w :: ws) d = if w.dst = d then some ((lastTo ws d).getD w) else lastTo ws d := by
  unfold lastTo
  split <;> rename_i h
  · simp [h, List.getLast?_cons]
  · simp [h]

/-- Completed in order, the last result that names a destination gives its value (R79): `read` reads the destination, `wf` is what each
completion keeps. -/
theorem read_foldl_lastTo {σ α : Type} {step : σ → Pend → σ} {wf : σ → Prop} {read : σ → α} {d : Dst} {val : Pend → α}
    (hwf : ∀ a w, wf a → wf (step a w)) (hread : ∀ a w, wf a → read (step a w) = if w.dst = d then val w else read a)
    (ws : List Pend) {a : σ} (ha : wf a) : read (ws.foldl step a) = ((lastTo ws d).map val).getD (read a) := by
  induction ws generalizing a with
  | nil => rfl
  | cons w ws ih =>
    rw [List.foldl_cons, ih (hwf a w ha), hread a w ha, lastTo_cons]
    split
    · cases lastTo ws d <;> rfl
    · rfl

/-- The results of a thread that its present tick makes due (R77). -/
def Thread.duePend (th : Thread) : List Pend := th.pend.filter (fun w => decide (w.due.toNat ≤ th.tick.toNat))
/-- The results of a thread that stay held back (R78). -/
def Thread.latePend (th : Thread) : List Pend := th.pend.filter (fun w => !decide (w.due.toNat ≤ th.tick.toNat))

section retire
variable {k : Core} {t : BitVec 2} (hs : PendSorted (k.thread t).pend)
include hs

theorem retire_of_sorted :
    retire k t =
      (let done := (k.thread t).duePend.foldl (fun k w => completePend k t w) (k.setThread t { k.thread t with pend := [] })
       done.setThread t { done.thread t with pend := (k.thread t).latePend }) := by
  simp only [retire, retireList_of_sorted t _ _ hs]
  rfl

theorem thread_retire :
    (retire k t).thread t =
      { (k.thread t).duePend.foldl Thread.complete { k.thread t with pend := [] } with pend := (k.thread t).latePend } := by
  simp only [retire_of_sorted hs, Core.thread_setThread, thread_foldl_completePend]

theorem readG_retire {n : Nat} (h : tabWf 0 (k.thread t).g = true) (hn : n ≠ 0) :
    ((retire k t).thread t).readG n =
      ((lastTo (k.thread t).duePend (.g n)).map (fun w => w.val.truncate 64)).getD ((k.thread t).readG n) := by
  rw [thread_retire hs]
  exact read_foldl_lastTo (step := Thread.complete) (wf := fun th : Thread => tabWf 0 th.g = true) (read := fun th => th.readG n)
    (fun th w h => Thread.put_g_wf _ _ _ h) (fun th w h => Thread.readG_put _ _ _ h hn) _ h

theorem readV_retire (n : Nat) (h : tabWf 0 (k.thread t).v = true) :
    ((retire k t).thread t).readV n = ((lastTo (k.thread t).duePend (.v n)).map (·.val)).getD ((k.thread t).readV n) := by
  rw [thread_retire hs]
  exact read_foldl_lastTo (step := Thread.complete) (wf := fun th : Thread => tabWf 0 th.v = true) (read := fun th => th.readV n)
    (fun th w h => Thread.put_v_wf _ _ _ h) (fun th w h => Thread.readV_put _ _ _ n h) _ h

theorem readLc_retire (n : Nat) (h : tabWf 0 (k.thread t).lc = true) :
    ((retire k t).thread t).readLc n =
      ((lastTo (k.thread t).duePend (.lc n)).map (fun w => w.val.truncate 32)).getD ((k.thread t).readLc n) := by
  rw [thread_retire hs]
  exact read_foldl_lastTo (step := Thread.complete) (wf := fun th : Thread => tabWf 0 th.lc = true) (read := fun th => th.readLc n)
    (fun th w h => Thread.put_lc_wf _ _ _ h) (fun th w h => Thread.readLc_put _ _ _ n h) _ h

theorem readP_retire {n : Nat} (h0 : 0 < n) (h8 : n < 8) :
    ((retire k t).thread t).readP n =
      ((lastTo (k.thread t).duePend (.p n)).map (fun w => w.val.getLsbD 0)).getD ((k.thread t).readP n) := by
  rw [thread_retire hs]
  exact read_foldl_lastTo (step := Thread.complete) (wf := fun _ => True) (read := fun th : Thread => th.readP n)
    (fun _ _ h => h) (fun th w _ => Thread.readP_put _ _ _ h0 h8) _ trivial

theorem arith_retire : ((retire k t).thread t).arith =
    (k.thread t).duePend.foldl (fun a w => arithSet a w.sovf w.vovf) (k.thread t).arith := by
  rw [thread_retire hs]
  exact (List.foldl_hom Thread.arith (fun th w => (Thread.put_arith { th with arith := _ } w.dst w.val).symm)).symm

theorem tick_retire : ((retire k t).thread t).tick = (k.thread t).tick := by
  rw [thread_retire hs]
  exact Thread.tick_foldl_complete ..

theorem pend_retire : ((retire k t).thread t).pend = (k.thread t).latePend := by
  rw [thread_retire hs]

theorem sh_retire (n : Nat) (h : tabWf 0 k.sh = true) :
    tabGet 0 (retire k t).sh n = ((lastTo (k.thread t).duePend (.sh n)).map (fun w => w.val.truncate 64)).getD (tabGet 0 k.sh n) := by
  rw [retire_of_sorted hs]
  refine read_foldl_lastTo (step := fun k w => completePend k t w) (wf := fun k : Core => tabWf 0 k.sh = true)
    (read := fun k => tabGet 0 k.sh n) (fun k w h => ?_) (fun k w h => ?_) _ h
  · rw [sh_completePend]
    cases w.dst with
    | sh m => exact tabWf_tabSet m _ h
    | _ => exact h
  · rw [sh_completePend]
    cases w.dst with
    | sh m => simpa using tabGet_tabSet m n (w.val.truncate 64) h
    | _ => rfl

end retire

/-! ## Finishing an issue -/

/-- The results held back once an instruction has issued: those held back before and its own, by completion tick (R77 to R79). -/
def heldBack (x : Iss) (th : Thread) (ws : List Wr) : List Pend := ws.foldl (fun ps w => pendInsert (heldOf x th w) ps) th.pend

/-- Two core states hold the same shared registers, and the same registers and sticky flags of one thread. -/
def SameRegs (k k' : Core) (t : BitVec 2) : Prop :=
  k'.sh = k.sh ∧ (k'.thread t).g = (k.thread t).g ∧ (k'.thread t).p = (k.thread t).p ∧ (k'.thread t).v = (k.thread t).v ∧
  (k'.thread t).lc = (k.thread t).lc ∧ (k'.thread t).arith = (k.thread t).arith

theorem movePtr_thread (k : Core) (sl : Slot4) (t u : BitVec 2) : (movePtr k sl t).thread u = k.thread u := by
  cases sl <;> rfl
theorem movePtr_sh (k : Core) (sl : Slot4) (t : BitVec 2) : (movePtr k sl t).sh = k.sh := by
  cases sl <;> rfl

/-- An issue outside every loop advances the tick and holds its results back, and those due at the new tick complete (R76 to R78). -/
theorem finishIssue_retires (s : State) (x : Iss) (sl : Slot4) (ws : List Wr) (jump : Option Nat)
    (hl : ((s.core x.c).thread x.t).loops = []) :
    ∃ k, (finishIssue s x sl ws jump).core x.c = retire k x.t ∧ SameRegs (s.core x.c) k x.t ∧
      (k.thread x.t).tick = ((s.core x.c).thread x.t).tick + 1 ∧
      (k.thread x.t).pend = heldBack x ((s.core x.c).thread x.t) ws := by
  simp only [finishIssue, movePtr_thread, hl, offerLoops]
  refine ⟨_, State.core_setCore .., ?_⟩
  simp only [SameRegs, Core.thread_setThread, and_true, true_and]
  exact ⟨movePtr_sh .., rfl⟩

/-- Settles O10: the results held back and the instruction's own stand in order, so those due at the new tick complete in that order and the
last that names a register gives its value. -/
theorem resultsCompleteAtTheirTicks : Obligations.ResultsCompleteAtTheirTicks := by
  unfold Obligations.ResultsCompleteAtTheirTicks
  intro s x sl ws jump th th' hs hl all due
  obtain ⟨k, hk, ⟨hsh, hg, hp, hv, hlc, har⟩, htick, hpend⟩ := finishIssue_retires s x sl ws jump hl
  have hall : (k.thread x.t).pend = all := hpend
  have hdue : (k.thread x.t).duePend = due := by rw [Thread.duePend, htick, hall]
  have hlate : (k.thread x.t).latePend = all.filter (fun w => !decide (w.due.toNat ≤ (th.tick + 1).toNat)) := by
    rw [Thread.latePend, htick, hall]
  have hsort : PendSorted all := pendSorted_foldl_pendInsert _ ws hs
  have hks : PendSorted (k.thread x.t).pend := hall ▸ hsort
  have hth' : th' = (retire k x.t).thread x.t := congrArg (fun k => k.thread x.t) hk
  have hpend' := (pend_retire hks).trans hlate
  rw [hth', hk, ← hdue]
  refine ⟨(tick_retire hks).trans htick, hpend', ?_, fun n h hn => ?_, fun n h => ?_, fun n h => ?_, fun n h0 h8 => ?_,
    fun n h => ?_, ?_, rfl, rfl⟩
  · rw [hpend']
    exact hsort.filter _
  · rw [readG_retire hks (hg ▸ h) hn, Thread.readG, Thread.readG, hg]
  · rw [readV_retire hks n (hv ▸ h), Thread.readV, Thread.readV, hv]
  · rw [readLc_retire hks n (hlc ▸ h), Thread.readLc, Thread.readLc, hlc]
  · rw [readP_retire hks h0 h8, Thread.readP, Thread.readP, hp]
  · rw [sh_retire hks n (hsh ▸ h), hsh]
  · rw [arith_retire hks, har]

end Sys2Proof.Machine
end

section
/-! PROOF. Branches, loops and what the last instruction of a loop's body does (R88, R91, R126 to R129; O5, O6). -/

namespace Sys2Proof.Machine

open Sys2Proof.Safety

/-! ## What an instruction that runs answers -/

section runs
variable {s s' : State} {l : Layout} {body : Iss → IssRes} {ws : List Wr} {a : W64} (h : Runs s l)
include h

theorem issue_done {jump : Option Nat} (hb : body (fetched s l) = .done s' ws jump) :
    issue s l.i l.op l.ops l.imm body = .next (finishIssue s' (fetched s l) (opSlot l.op) ws jump) := by
  rw [issue_runs body h, hb]

/-- A single fault that is no BUS_ERROR is the one taken (R109, R110). -/
theorem issue_fault {code : Nat} (hb : body (fetched s l) = .fault [(code, a)]) (hc : code ≠ 9) :
    issue s l.i l.op l.ops l.imm body = .next (faultsWith (fetched s l) (opSlot l.op) code a) := by
  rw [issue_runs body h, hb]
  exact congrArg Host.Outcome.next (issueFault_eq_faultsWith rfl hc)

/-- A branch goes to its 64-bit target within the store, or raises SPACE_VIOLATION with it (R127). -/
theorem issue_branchTo (hb : body (fetched s l) = branchTo a s' ws) :
    issue s l.i l.op l.ops l.imm body =
      .next (if a.toNat < 0x10000 then finishIssue s' (fetched s l) (opSlot l.op) ws (some a.toNat)
        else faultsWith (fetched s l) (opSlot l.op) 0x0D a) := by
  unfold branchTo at hb
  split
  · rename_i hin
    rw [if_pos (by omega)] at hb
    exact issue_done h hb
  · rename_i hout
    rw [if_neg (by omega)] at hb
    exact issue_fault h hb (by decide)

end runs

theorem withOps_oneSource {s : State} {l : Layout} {o : Byte} (body : Core → List W64 → List Dst → IssRes)
    (h : OperandsReady (s.core l.i.core) l.i.thr [] [o]) :
    withOps (fetched s l) [] [o] body = body (sourced (fetched s l) [o]) [l.src s o] [] := by
  rw [withOps_ready body (operandsReady_fetched h), ← srcVal_fetched]
  rfl

theorem withOps_oneDst {s : State} {l : Layout} {o : Byte} (body : Core → List W64 → List Dst → IssRes)
    (h : OperandsReady (s.core l.i.core) l.i.thr [o] []) :
    withOps (fetched s l) [o] [] body = body (takeDst (fetched s l).k o).1 [] [(takeDst (fetched s l).k o).2] :=
  withOps_ready body (operandsReady_fetched h)

/-- Settles O5: each of the three is a branch whose operands are ready. -/
theorem branchResults : Obligations.BranchResults := by
  unfold Obligations.BranchResults
  refine ⟨?_, ?_, ?_⟩
  · intro s i imm l h a
    show execBr i imm s = _
    exact issue_branchTo (l := l) h rfl
  · intro s i o1 imm l h ho a kd
    show execBrl i o1 imm s = _
    exact issue_branchTo (l := l) h (withOps_oneDst (l := l) _ ho)
  · intro s i o1 imm l h ho a
    show execJr i o1 imm s = _
    exact issue_branchTo (l := l) h (withOps_oneSource (l := l) _ ho)

/-! ## Starting a loop -/

/-- A body's last instruction that does not decode is not passed (R128). -/
theorem skipBody_eq (k : Core) (last : Nat) :
    skipBody k last = last + (decodeLen (getBytes 0xFF k.istore.data last (min 17 (0x10000 - last)))).getD 0 := by
  unfold skipBody
  generalize decodeLen _ = n
  cases n <;> rfl

/-! ## The last instruction of a body -/

/-- A loop's counter after its body's last instruction has issued: a counted loop counts down, one on a ring counts up (R88, R91). -/
def Loop.stepped (l : Loop) (n : W32) : W32 := match l.ring with
  | none => n - 1
  | some _ => n + 1

/-- Whether a loop with counter `n` ends at its body's last instruction: a counted loop at its last pass, one on a ring once END_LOOP has been
popped (R88, R91). -/
def Loop.endsAt (l : Loop) (n : W32) : Bool := match l.ring with
  | none => n == 1
  | some _ => l.ended

/-- An instruction that is the last of no active loop leaves them all as they are. -/
theorem offerLoops_of_no_last {pc : W16} {loops : List Loop} (th : Thread) (kept : List Loop) (h : ∀ o ∈ loops, o.last ≠ pc.toNat) :
    offerLoops pc th loops kept = (th, kept.reverse ++ loops, none) := by
  induction loops generalizing kept with
  | nil => simp [offerLoops]
  | cons o r ih =>
    obtain ⟨ho, hr⟩ := List.forall_mem_cons.mp h
    rw [offerLoops, if_neg ho, ih _ hr]
    simp

/-- At the last instruction of the latest loop and of no other, that loop's counter steps; the loop goes back to its head, or ends (R88, R91). -/
theorem offerLoops_last {pc : W16} {l : Loop} {rest : List Loop} (th : Thread) (hl : l.last = pc.toNat) (hr : ∀ o ∈ rest, o.last ≠ pc.toNat) :
    offerLoops pc th (l :: rest) [] =
      (let n := th.readLc l.lc.toNat
       let th' := th.writeLc l.lc.toNat (l.stepped n)
       if l.endsAt n then (th', rest, none) else (th', l :: rest, some l.head)) := by
  have hrest := fun th => offerLoops_of_no_last th [] hr
  rw [offerLoops, if_pos hl]
  unfold Loop.stepped Loop.endsAt
  cases l.ring with
  | none =>
    have hlast : th.readLc l.lc.toNat - 1 ≠ 0 ↔ ¬ (th.readLc l.lc.toNat == 1) = true := by
      rw [beq_iff_eq]
      bv_omega
    simp only [hlast, ite_not, hrest, List.reverse_nil, List.nil_append]
  | some r => simp only [hrest, List.reverse_nil, List.nil_append]

/-- With nothing held back, nothing completes. -/
theorem thread_retire_of_none_held {k : Core} {t : BitVec 2} (h : (k.thread t).pend = []) : (retire k t).thread t = k.thread t := by
  simp only [retire, h, retireList, Core.thread_setThread]
  rw [← h]

/-- An issue that holds no result back, on a thread that holds none: its loops have been offered the instruction, and the PC goes to the jump,
else back with a loop, else on (R127, R128). -/
theorem finishIssue_offers {s : State} {x : Iss} (sl : Slot4) (jump : Option Nat) (hp : ((s.core x.c).thread x.t).pend = []) :
    let th := (s.core x.c).thread x.t
    let th' := (finishIssue s x sl [] jump).thread x.c x.t
    let o := offerLoops x.pc th th.loops []
    th'.lc = o.1.lc ∧ th'.loops = o.2.1 ∧
      th'.pc = BitVec.ofNat 16 (jump.getD ((o.2.2.map BitVec.toNat).getD (x.pc.toNat + x.len))) := by
  simp only [finishIssue, State.thread, State.core_setCore, movePtr_thread, List.foldl_nil, hp]
  rw [thread_retire_of_none_held (by rw [Core.thread_setThread]), Core.thread_setThread]
  cases jump <;> exact ⟨rfl, rfl, rfl⟩

/-- Where the last instruction of the latest loop's body, and of no other, leaves the thread (R88, R91, R128, R129). -/
theorem finishIssue_last {s : State} {x : Iss} {l : Loop} {rest : List Loop} (sl : Slot4) (jump : Option Nat)
    (hp : ((s.core x.c).thread x.t).pend = []) (hwf : tabWf 0 ((s.core x.c).thread x.t).lc = true)
    (hloops : ((s.core x.c).thread x.t).loops = l :: rest) (hl : l.last = x.pc.toNat) (hr : ∀ o ∈ rest, o.last ≠ x.pc.toNat) :
    let n := ((s.core x.c).thread x.t).readLc l.lc.toNat
    let th' := (finishIssue s x sl [] jump).thread x.c x.t
    th'.readLc l.lc.toNat = l.stepped n ∧
      (l.endsAt n = false → th'.loops = l :: rest ∧ th'.pc = BitVec.ofNat 16 (jump.getD l.head.toNat)) ∧
      (l.endsAt n = true → th'.loops = rest ∧ th'.pc = BitVec.ofNat 16 (jump.getD (x.pc.toNat + x.len))) := by
  intro n th'
  obtain ⟨hlc, hls, hpc⟩ := finishIssue_offers sl jump hp
  rw [hloops, offerLoops_last _ hl hr] at hlc hls hpc
  refine ⟨?_, fun hback => ?_, fun hend => ?_⟩
  · rw [Thread.readLc, hlc, apply_ite Prod.fst, ite_self]
    exact (Thread.readLc_writeLc _ _ hwf).trans (if_pos rfl)
  · rw [if_neg (by rw [hback]; decide)] at hls hpc
    exact ⟨hls, hpc⟩
  · rw [if_pos hend] at hls hpc
    exact ⟨hls, hpc⟩

/-- Settles O6: LOOP and LOOPT run with their source ready, and at the last instruction of the latest loop's body `offerLoops` steps that loop alone. -/
theorem loops : Obligations.Loops := by
  unfold Obligations.Loops
  refine ⟨?_, ?_, ?_⟩
  · intro s i o1 o2 imm l h ho k n last th
    show execLoop i o1 o2 imm s = _
    rw [← skipBody_eq]
    split <;> rename_i hn
    · exact issue_done (l := l) h ((withOps_oneSource (l := l) _ ho).trans (if_pos hn))
    · exact issue_done (l := l) h ((withOps_oneSource (l := l) _ ho).trans (if_neg hn))
  · intro s i o1 o2 imm l h ho k th
    show execLoopt i o1 o2 imm s = _
    split <;> rename_i hring
    · exact issue_fault (l := l) h ((withOps_oneSource (l := l) _ ho).trans (if_pos hring)) (by decide)
    · exact issue_done (l := l) h ((withOps_oneSource (l := l) _ ho).trans (if_neg hring))
  · intro s x sl jump l rest th th' fall hp hwf hloops hlast hrest
    have hstep := finishIssue_last sl jump hp hwf hloops hlast hrest
    refine ⟨fun hring => ?_, fun r hring => ?_⟩
    · simpa only [Loop.stepped, Loop.endsAt, hring, beq_eq_false_iff_ne, beq_iff_eq] using hstep
    · simpa only [Loop.stepped, Loop.endsAt, hring] using hstep

end Sys2Proof.Machine
end

section
/-! PROOF. Completion entries, doorbells and coalesced MSI-X messages of a queue pair (R485 to R488, R496, R498; O42). -/

namespace Sys2Proof.Machine

open Sys2Proof.Safety

/-! ## Queue pairs read back -/

theorem State.present_of_qp {s : State} {q : QRef} {x : Qp} (h : s.qp? q = some x) : s.present q.fn = true := by
  unfold State.qp? at h
  split at h
  · assumption
  · cases h

/-- A queue pair of a function that exists reads back as it was put. -/
theorem State.qp_setQp_of_present {s : State} {q : QRef} (x : Qp) (h : s.present q.fn = true) : (s.setQp q x).qp? q = some x :=
  (s.qp_setQp q x).trans (if_pos h)

/-- Package time reaches an event that does not lie before it. -/
theorem State.atTime_of_le {s : State} {now : W64} (h : s.time.toNat ≤ now.toNat) : s.atTime now = { s with time := now } := by
  unfold State.atTime
  split
  · rfl
  · have htime : s.time = now := BitVec.eq_of_toNat_eq (by omega)
    rw [← htime]

/-! ## Bytes of host memory -/

/-- Bytes read as the number they were made of, as far as they hold it (R9). -/
theorem leNat_leBytes (n x : Nat) : leNat (leBytes n x) = x % 256 ^ n := by
  induction n generalizing x with
  | zero => simp [leBytes, leNat, Nat.mod_one]
  | succ n ih =>
    rw [leBytes, leNat, ih, Nat.pow_succ', Nat.mod_mul, BitVec.toNat_ofNat]

theorem getBytes_drop (d : Byte) (m : Tab Byte) (a i n : Nat) : (getBytes d m a (i + n)).drop i = getBytes d m (a + i) n := by
  induction i generalizing a with
  | zero => simp
  | succ i ih => rw [Nat.add_right_comm, getBytes, List.drop_succ_cons, ih, Nat.add_right_comm, Nat.add_assoc]

theorem getBytes_take (d : Byte) (m : Tab Byte) (a n k : Nat) : (getBytes d m a (n + k)).take n = getBytes d m a n := by
  induction n generalizing a with
  | zero => simp [getBytes]
  | succ n ih => rw [Nat.add_right_comm, getBytes, List.take_succ_cons, ih, getBytes]

/-- A number among the bytes written to host memory reads back. -/
theorem hostNat_hostWrite {s : State} {bs : List Byte} (w : W64) {i n x : Nat} (h : tabWf 0 s.hostMem = true)
    (hbs : (bs.drop i).take n = leBytes n x) (hin : i + n ≤ bs.length) : hostNat (hostWrite s w bs) (w.toNat + i) n = x % 256 ^ n := by
  obtain ⟨k, hk⟩ := Nat.exists_eq_add_of_le hin
  have hall := getBytes_putBytes w.toNat bs h
  rw [hk, Nat.add_assoc] at hall
  rw [hostNat, hostWrite, ← getBytes_take _ _ _ n k, ← getBytes_drop, hall, hbs, leNat_leBytes]

theorem hostKept_hostWrite (s : State) (w : W64) (bs : List Byte) : HostKept s (hostWrite s w bs) w.toNat bs.length :=
  fun _ h => tabGet_putBytes_out bs h

/-! ## One completion entry (R485, R496, R498) -/

/-- Host memory holds a completion entry at `a`, in the layout of R496. -/
def EntryAt (s : State) (a : Nat) (c : Completion) : Prop :=
  hostNat s a 4 = c.handle.toNat ∧ hostNat s (a + 4) 1 = c.status.toNat ∧ hostNat s (a + 5) 1 = c.reason.toNat ∧ hostNat s (a + 6) 1 = c.kind.toNat ∧
    hostNat s (a + 7) 1 = (if c.phase then 1 else 0) ∧ hostNat s (a + 8) 8 = c.hostTag.toNat ∧ hostNat s (a + 16) 2 = c.sqHead.toNat ∧
    hostNat s (a + 18) 2 = 0 ∧ hostNat s (a + 20) 4 = c.info1.toNat ∧ hostNat s (a + 24) 8 = c.info2.toNat

/-- One byte is the number it holds. -/
theorem singleton_eq_leBytes (b : Byte) : [b] = leBytes 1 b.toNat := by simp [leBytes]

theorem entryAt_hostWrite {s : State} (w : W64) (c : Completion) (h : tabWf 0 s.hostMem = true) :
    EntryAt (hostWrite s w (completionBytes c)) w.toNat c := by
  have read : ∀ {i n x : Nat}, ((completionBytes c).drop i).take n = leBytes n x → x < 256 ^ n → i + n ≤ 32 →
      hostNat (hostWrite s w (completionBytes c)) (w.toNat + i) n = x := fun hbs hx hin =>
    (hostNat_hostWrite w h hbs hin).trans (Nat.mod_eq_of_lt hx)
  have readByte : ∀ {i : Nat} (b : Byte), ((completionBytes c).drop i).take 1 = [b] → i + 1 ≤ 32 →
      hostNat (hostWrite s w (completionBytes c)) (w.toNat + i) 1 = b.toNat := fun b hb hin =>
    read (hb.trans (singleton_eq_leBytes b)) b.isLt hin
  have hphase : (if c.phase then 1 else 0 : Byte).toNat = if c.phase then 1 else 0 := by cases c.phase <;> rfl
  exact ⟨read (i := 0) rfl c.handle.isLt (by decide), readByte c.status rfl (by decide), readByte c.reason rfl (by decide),
    readByte c.kind rfl (by decide), (readByte (if c.phase then 1 else 0) rfl (by decide)).trans hphase, read rfl c.hostTag.isLt (by decide),
    read rfl c.sqHead.isLt (by decide), read (x := 0) rfl (by decide) (by decide), read rfl c.info1.isLt (by decide),
    read rfl c.info2.isLt (by decide)⟩

/-! ## The message of a ring (R498) -/

/-- The message leaves only for a vector that is one of the function's (log 53). -/
theorem signal_eq (s : State) (q : QRef) (x : Qp) :
    signal s q x =
      if x.vector.toNat < s.vectors q.fn then (s.setQp q { x with unsig := 0, since := none }).emit (.msix q.fn x.vector)
      else s.setQp q { x with unsig := 0, since := none } := rfl

theorem signal_qp {s : State} {q : QRef} (x : Qp) (h : s.present q.fn = true) :
    (signal s q x).qp? q = some { x with unsig := 0, since := none } := by
  rw [signal_eq]
  split <;> exact State.qp_setQp_of_present (s := s) _ h

theorem signal_out (s : State) (q : QRef) (x : Qp) :
    (signal s q x).out = if x.vector.toNat < s.vectors q.fn then .msix q.fn x.vector :: s.out else s.out := apply_ite State.out ..

theorem signal_hostMem (s : State) (q : QRef) (x : Qp) : (signal s q x).hostMem = s.hostMem := by
  rw [signal_eq]
  split <;> rfl

/-! ## Writing an entry (R485) -/

/-- Where the next entry of a completion ring goes. -/
def Qp.tailAddr (x : Qp) : W64 := x.cqAddr + BitVec.ofNat 64 (32 * x.cqTail)

/-- An entry as its ring writes it: with the ring's phase and the submission ring's head (R485, R496; log 52). -/
def Qp.stamp (x : Qp) (c : Completion) : Completion := { c with phase := x.phase, sqHead := BitVec.ofNat 16 x.sqHead }

/-- A ring with one more entry, not yet signalled: the tail has moved on, and the phase inverts where it wraps (R485). -/
def Qp.pushed (x : Qp) (now : W64) : Qp :=
  { x with cqTail := (x.cqTail + 1) % x.cqSize, phase := if (x.cqTail + 1) % x.cqSize = 0 then !x.phase else x.phase
           unsig := x.unsig + 1, since := some (x.since.getD now) }

theorem Qp.pushed_phase (x : Qp) (now : W64) : (x.pushed now).phase = (x.phase != decide ((x.cqTail + 1) % x.cqSize = 0)) := by
  unfold Qp.pushed
  split <;> simp_all

theorem writeEntry_eq (s : State) (q : QRef) (x : Qp) (c : Completion) :
    writeEntry s q x c =
      (let w := hostWrite s x.tailAddr (completionBytes (x.stamp c))
       if x.vector = 0xFFFF then w.setQp q { x.pushed s.time with unsig := 0, since := none }
       else if x.count.toNat ≤ x.unsig + 1 then signal w q (x.pushed s.time)
       else w.setQp q (x.pushed s.time)) := rfl

theorem writeEntry_hostMem (s : State) (q : QRef) (x : Qp) (c : Completion) :
    (writeEntry s q x c).hostMem = (hostWrite s x.tailAddr (completionBytes (x.stamp c))).hostMem := by
  rw [writeEntry_eq]
  dsimp only
  split
  · rfl
  · split
    · exact signal_hostMem ..
    · rfl

theorem writeEntry_qp {s : State} {q : QRef} (x : Qp) (c : Completion) (h : s.present q.fn = true) :
    ∃ n u, (writeEntry s q x c).qp? q = some { x.pushed s.time with unsig := n, since := u } := by
  have hput := State.qp_setQp_of_present (s := hostWrite s x.tailAddr (completionBytes (x.stamp c))) (q := q)
  rw [writeEntry_eq]
  dsimp only
  split
  · exact ⟨_, _, hput _ h⟩
  · split
    · exact ⟨_, _, signal_qp _ h⟩
    · exact ⟨_, _, hput _ h⟩

/-- At COUNT entries the ring's message leaves. -/
theorem writeEntry_out (s : State) (q : QRef) (x : Qp) (c : Completion) :
    (writeEntry s q x c).out =
      if x.vector ≠ 0xFFFF ∧ x.count.toNat ≤ x.unsig + 1 ∧ x.vector.toNat < s.vectors q.fn then .msix q.fn x.vector :: s.out else s.out := by
  rw [writeEntry_eq]
  dsimp only
  split
  case isTrue hvec => exact (if_neg fun h => h.1 hvec).symm
  case isFalse hvec =>
    split
    case isTrue hcount =>
      simp only [ne_eq, hvec, not_false_eq_true, hcount, true_and]
      exact signal_out ..
    case isFalse hcount => exact (if_neg fun h => hcount h.2.1).symm

/-- An entry posted to a ring stands at the ring's tail, and the rest of host memory is as before. -/
theorem writeEntry_entryAt {s : State} (q : QRef) (x : Qp) (c : Completion) (h : tabWf 0 s.hostMem = true) :
    EntryAt (writeEntry s q x c) x.tailAddr.toNat (x.stamp c) ∧ HostKept s (writeEntry s q x c) x.tailAddr.toNat 32 := by
  simp only [EntryAt, HostKept, hostNat, writeEntry_hostMem]
  exact ⟨entryAt_hostWrite _ _ h, hostKept_hostWrite s x.tailAddr (completionBytes (x.stamp c))⟩

/-! ## Held entries (R488) -/

theorem drainHeld_of_full {s : State} {q : QRef} {x : Qp} (n : Nat) (hx : s.qp? q = some x) (hf : x.cqFull = true) :
    drainHeld n s q = s := by
  cases n with
  | zero => rfl
  | succ n =>
    simp only [drainHeld, hx, hf, if_true]
    split <;> rfl

/-- With a free place, the one entry held is written. -/
theorem drainHeld_of_single {s : State} {q : QRef} {x : Qp} {c : Completion} (hx : s.qp? q = some x) (hc : x.held = [c])
    (hf : x.cqFull = false) : drainHeld x.held.length s q = writeEntry s q { x with held := [] } c := by
  rw [hc, List.length_singleton]
  simp only [drainHeld, hx, hc, hf, Bool.false_eq_true, if_false]

theorem post_of_full {s : State} {q : QRef} {x : Qp} (c : Completion) (hx : s.qp? q = some x) (hf : x.cqFull = true) :
    post s q c = s.setQp q { x with held := x.held ++ [c] } := by
  simp only [post, hx]
  exact drainHeld_of_full _ (State.qp_setQp_of_present _ (State.present_of_qp hx)) hf

theorem post_of_free {s : State} {q : QRef} {x : Qp} (c : Completion) (hx : s.qp? q = some x) (hf : x.cqFull = false) (hheld : x.held = []) :
    post s q c = writeEntry (s.setQp q { x with held := [c] }) q x c := by
  have hput := State.qp_setQp_of_present { x with held := [c] } (State.present_of_qp hx)
  have hnone : { x with held := [] } = x := by rw [← hheld]
  simp only [post, hx, hheld, List.nil_append]
  exact (drainHeld_of_single hput rfl hf).trans (congrArg (fun y => writeEntry _ q y c) hnone)

/-! ## Doorbells (R486, R487) -/

/-- The distance from one pointer of a ring up to another is within a bound just where some step within it leads there. -/
theorem ring_distance_le_iff {a n size b : Nat} (ha : a < size) (hn : n < size) (hb : b < size) :
    (n + size - a) % size ≤ b ↔ ∃ k, k ≤ b ∧ n = (a + k) % size := by
  constructor
  · intro h
    refine ⟨_, h, ?_⟩
    rw [Nat.add_mod_mod, show a + (n + size - a) = n + size by omega, Nat.add_mod_right, Nat.mod_eq_of_lt hn]
  · rintro ⟨k, hk, rfl⟩
    have hdist : ((a + k) % size + size - a) % size = k := by
      by_cases hwrap : a + k < size
      · rw [Nat.mod_eq_of_lt hwrap, show a + k + size - a = k + size by omega, Nat.add_mod_right, Nat.mod_eq_of_lt (by omega)]
      · have hover : (a + k) % size = a + k - size := (Nat.mod_eq_sub_mod (by omega)).trans (Nat.mod_eq_of_lt (by omega))
        rw [hover, show a + k - size + size - a = k by omega, Nat.mod_eq_of_lt (by omega)]
    omega

/-- A tail index in the ring that a step over free places leads to: one place stays empty (R487; log 51). -/
def Qp.TailFits (x : Qp) (n : Nat) : Prop :=
  n < x.sqSize ∧ ∃ k, k + (x.sqTail + x.sqSize - x.sqHead) % x.sqSize < x.sqSize ∧ n = (x.sqTail + k) % x.sqSize

/-- A head index in the ring that a step over written entries leads to (R487). -/
def Qp.HeadFits (x : Qp) (n : Nat) : Prop :=
  n < x.cqSize ∧ ∃ k, k ≤ (x.cqTail + x.cqSize - x.cqHead) % x.cqSize ∧ n = (x.cqHead + k) % x.cqSize

/-- The check that a tail doorbell makes. -/
theorem Qp.tailFits_iff {x : Qp} {n : Nat} (ht : x.sqTail < x.sqSize) :
    x.TailFits n ↔
      n < x.sqSize ∧ (n + x.sqSize - x.sqTail) % x.sqSize ≤ x.sqSize - 1 - (x.sqTail + x.sqSize - x.sqHead) % x.sqSize := by
  have hused := Nat.mod_lt (x.sqTail + x.sqSize - x.sqHead) (Nat.zero_lt_of_lt ht)
  have hfree : ∀ k, k + (x.sqTail + x.sqSize - x.sqHead) % x.sqSize < x.sqSize ↔
      k ≤ x.sqSize - 1 - (x.sqTail + x.sqSize - x.sqHead) % x.sqSize := fun k => by omega
  simp only [Qp.TailFits, hfree]
  exact and_congr_right fun hn => (ring_distance_le_iff ht hn (by omega)).symm

/-- The check that a head doorbell makes. -/
theorem Qp.headFits_iff {x : Qp} {n : Nat} (hh : x.cqHead < x.cqSize) :
    x.HeadFits n ↔ n < x.cqSize ∧ (n + x.cqSize - x.cqHead) % x.cqSize ≤ (x.cqTail + x.cqSize - x.cqHead) % x.cqSize :=
  and_congr_right fun hn => (ring_distance_le_iff hh hn (Nat.mod_lt _ (Nat.zero_lt_of_lt hh))).symm

theorem doorbellLive_of {s : State} {f : FnRef} {q : BitVec 12} (hf : s.present f = true) (hp : s.phase = .ready ∨ (s.phase = .boot ∧ q = 0)) :
    doorbellLive s f q = true := by
  rcases hp with hp | ⟨hp, rfl⟩ <;> simp [doorbellLive, State.up, hf, hp]

/-- A doorbell that is ignored is counted in DB_ERR, and no queue pair changes (R487). -/
theorem doorbellError_counts {s : State} (f : FnRef) (h : tabRising 0 s.fns = true) :
    ((doorbellError s f).fn f).dbErr = (s.fn f).dbErr + 1 ∧ (doorbellError s f).qps = s.qps :=
  ⟨congrArg Fn.dbErr (tabGet_tabSet_same (fnKey f) _ h), rfl⟩

section doorbells

variable {s : State} {f : FnRef} {q : BitVec 12} {x : Qp} (v : W64) (hl : doorbellLive s f q = true)
include hl

theorem sqTailDoorbell_of_none (hx : s.qp? ⟨f, q⟩ = none) : execSqTailDoorbell f q v s = .next (doorbellError s f) := by
  simp [execSqTailDoorbell, hl, hx]

theorem cqHeadDoorbell_of_none (hx : s.qp? ⟨f, q⟩ = none) : execCqHeadDoorbell f q v s = .next (doorbellError s f) := by
  simp [execCqHeadDoorbell, hl, hx]

theorem sqTailDoorbell_moves (hx : s.qp? ⟨f, q⟩ = some x) (ht : x.sqTail < x.sqSize) (h : x.TailFits (bits v 15 0)) :
    execSqTailDoorbell f q v s = .next (settleSnow (s.setQp ⟨f, q⟩ { x with sqTail := bits v 15 0 })) := by
  simp [execSqTailDoorbell, hl, hx, (Qp.tailFits_iff ht).mp h]

theorem sqTailDoorbell_refused (hx : s.qp? ⟨f, q⟩ = some x) (ht : x.sqTail < x.sqSize) (h : ¬ x.TailFits (bits v 15 0)) :
    execSqTailDoorbell f q v s = .next (doorbellError s f) := by
  simp [execSqTailDoorbell, hl, hx, mt (Qp.tailFits_iff ht).mpr h]

/-- The entries held take the places that a head doorbell frees (R488). -/
theorem cqHeadDoorbell_moves (hx : s.qp? ⟨f, q⟩ = some x) (hh : x.cqHead < x.cqSize) (h : x.HeadFits (bits v 15 0)) :
    execCqHeadDoorbell f q v s = .next (drainHeld x.held.length (s.setQp ⟨f, q⟩ { x with cqHead := bits v 15 0 }) ⟨f, q⟩) := by
  simp [execCqHeadDoorbell, hl, hx, (Qp.headFits_iff hh).mp h]

theorem cqHeadDoorbell_refused (hx : s.qp? ⟨f, q⟩ = some x) (hh : x.cqHead < x.cqSize) (h : ¬ x.HeadFits (bits v 15 0)) :
    execCqHeadDoorbell f q v s = .next (doorbellError s f) := by
  simp [execCqHeadDoorbell, hl, hx, mt (Qp.headFits_iff hh).mpr h]

/-- With one entry held and a place freed for it, that entry is written. -/
theorem cqHeadDoorbell_writes_held {c : Completion} (hx : s.qp? ⟨f, q⟩ = some x) (hh : x.cqHead < x.cqSize) (hc : x.held = [c])
    (h : x.HeadFits (bits v 15 0)) (hfree : (x.cqTail + 1) % x.cqSize ≠ bits v 15 0) :
    execCqHeadDoorbell f q v s = .next (writeEntry (s.setQp ⟨f, q⟩ { x with cqHead := bits v 15 0 }) ⟨f, q⟩
      { x with cqHead := bits v 15 0, held := [] } c) := by
  have hput := State.qp_setQp_of_present { x with cqHead := bits v 15 0 } (State.present_of_qp hx)
  have hfull : ({ x with cqHead := bits v 15 0 } : Qp).cqFull = false := beq_eq_false_iff_ne.mpr hfree
  exact (cqHeadDoorbell_moves v hl hx hh h).trans (congrArg Host.Outcome.next (drainHeld_of_single hput hc hfull))

end doorbells

/-! ## The coalescing timer (R498) -/

/-- Once TIME µs have passed since the first entry not signalled, the timer signals the ring. -/
theorem msixCoalesceTimer_of_due {s : State} {q : QRef} {x : Qp} {now u : W64} (hx : s.qp? q = some x) (hu : x.since = some u)
    (hnow : s.time.toNat ≤ now.toNat) (hdue : 1000 * x.timeUs.toNat ≤ now.toNat - u.toNat) :
    execMsixCoalesceTimer q now s = .next (signal { s with time := now } q x) := by
  have hx' : ({ s with time := now } : State).qp? q = some x := hx
  simp only [execMsixCoalesceTimer, State.atTime_of_le hnow, hx', hu]
  exact if_pos hdue

/-! ## The statement -/

/-- Settles O42: a posted entry is one `writeEntry` or is held, a doorbell moves its pointer where `TailFits` or `HeadFits` holds and is counted elsewhere,
and the timer is one `signal`. -/
theorem ringsAndDoorbells : Obligations.RingsAndDoorbells := by
  unfold Obligations.RingsAndDoorbells
  refine ⟨?posted, ?doorbells, ?timer⟩
  case posted =>
    intro s q x c hx
    refine ⟨post_of_full c hx, fun hf hheld hwf => ?_⟩
    intro t a wraps
    have ht : t = writeEntry (s.setQp q { x with held := [c] }) q x c := post_of_free c hx hf hheld
    obtain ⟨⟨hhandle, hstatus, hreason, hkind, hphase, htag, hhead, hzero, hinfo1, hinfo2⟩, hkept⟩ :=
      writeEntry_entryAt (s := s.setQp q { x with held := [c] }) q x c hwf
    obtain ⟨n, u, hy⟩ := writeEntry_qp (s := s.setQp q { x with held := [c] }) (q := q) x c (State.present_of_qp (s := s) hx)
    rw [ht]
    exact ⟨hhandle, hstatus, hreason, hkind, hphase, htag, hhead, hzero, hinfo1, hinfo2, hkept,
      ⟨_, hy, rfl, x.pushed_phase s.time, hheld, rfl, rfl, rfl⟩, writeEntry_out ..⟩
  case doorbells =>
    intro s f q v hf hrise hphase
    have hl := doorbellLive_of hf hphase
    have counted := doorbellError_counts f hrise
    refine ⟨fun hx => ⟨_, sqTailDoorbell_of_none v hl hx, counted⟩, fun hx => ⟨_, cqHeadDoorbell_of_none v hl hx, counted⟩, ?_⟩
    intro x hx _ hsqTail hcqHead _
    refine ⟨fun hn hk => sqTailDoorbell_moves v hl hx hsqTail ⟨hn, hk⟩, fun h => ⟨_, sqTailDoorbell_refused v hl hx hsqTail h, counted⟩,
      fun hn hk => ⟨fun hheld => ?_, fun c hc hfree => ?_⟩, fun h => ⟨_, cqHeadDoorbell_refused v hl hx hcqHead h, counted⟩⟩
    · exact (cqHeadDoorbell_moves v hl hx hcqHead ⟨hn, hk⟩).trans (by rw [hheld, List.length_nil, drainHeld])
    · obtain ⟨m, u, hy⟩ := writeEntry_qp (s := s.setQp ⟨f, q⟩ { x with cqHead := bits v 15 0 }) (q := ⟨f, q⟩)
        { x with cqHead := bits v 15 0, held := [] } c hf
      exact ⟨_, _, cqHeadDoorbell_writes_held v hl hx hcqHead hc ⟨hn, hk⟩ hfree, hy, rfl, rfl, rfl⟩
  case timer =>
    intro s q x now u hx hu _ hnow hdue
    exact ⟨_, _, msixCoalesceTimer_of_due hx hu hnow hdue, signal_qp x (State.present_of_qp hx), rfl, rfl, signal_out _ q x⟩

end Sys2Proof.Machine
end
